-- ==== Sys2Proof/Word.lean ====
section
/-! DEFINITION. The words of the AQ-1216's byte layouts (00_scope.md 5.4, chapter 12) and the index types of its tables. -/

namespace Sys2Proof

/-- One byte of a frame or record (00_scope.md section 5.4). -/
abbrev Byte := BitVec 8

/-- A 16-bit number: the value of an event record (R165), a domain set on the link. -/
abbrev Half := BitVec 16

/-- The index of a domain, D0 to D11 (R16). -/
abbrev DomId := Fin 12

/-- The index of a wake line, WL0 to WL15 (R48). -/
abbrev LineId := Fin 16

/-- The index of a wake class, C0 to C7 (R79). -/
abbrev ClassId := Fin 8

/-- A set of domains: bit n stands for Dn (section 12.9). -/
abbrev DomSet := BitVec 12

end Sys2Proof
end

