-- ==== Sys2Proof/Syntax.lean ====
section
/-! DEFINITION. The commands of the AQ-1216: one constructor of `Instr` for each row of spec/opcode_table.json, in the table's order.

A host request carries its frame's PAYLOAD BYTES as they arrive (R174, section 12.8), so that every field value, every length and
every reserved bit a frame can hold is an operand. -/

namespace Sys2Proof

/-- The three frame errors (R174, R175). -/
inductive FrameError where
  | crc      -- FRAME_CRC: the check byte failed
  | length   -- FRAME_LENGTH: LEN above 48
  | timeout  -- FRAME_TIMEOUT: a gap of more than 2 ms within a frame
  deriving DecidableEq, Repr

/-- The commands and events of the part (spec/opcode_table.json). -/
inductive Instr where
  /-- STATUS_GET, TYPE 0x01 (R184). -/
  | statusGet (payload : List Byte)
  /-- EVENTS_READ, TYPE 0x02 (R169). -/
  | eventsRead (payload : List Byte)
  /-- FAULT_CLEAR, TYPE 0x08 (R178). -/
  | faultClear (payload : List Byte)
  /-- DOMAIN_SET, TYPE 0x10 (R17, R18). -/
  | domainSet (payload : List Byte)
  /-- DOMAIN_GET, TYPE 0x11 (R19). -/
  | domainGet (payload : List Byte)
  /-- DOMAIN_CLEAR_FAULT, TYPE 0x12 (R34). -/
  | domainClearFault (payload : List Byte)
  /-- LINE_SET, TYPE 0x18 (R49, R50). -/
  | lineSet (payload : List Byte)
  /-- LINE_GET, TYPE 0x19 (R51). -/
  | lineGet (payload : List Byte)
  /-- LINE_UNMUTE, TYPE 0x1A (R64). -/
  | lineUnmute (payload : List Byte)
  /-- CLASS_SET, TYPE 0x20 (R80, R81). -/
  | classSet (payload : List Byte)
  /-- CLASS_GET, TYPE 0x21 (R82). -/
  | classGet (payload : List Byte)
  /-- TIER_SET, TYPE 0x28 (R142). -/
  | tierSet (payload : List Byte)
  /-- METER_SET, TYPE 0x29 (R137). -/
  | meterSet (payload : List Byte)
  /-- SCHED_ADD, TYPE 0x30 (R155). -/
  | schedAdd (payload : List Byte)
  /-- SCHED_CANCEL, TYPE 0x31 (R156). -/
  | schedCancel (payload : List Byte)
  /-- SCHED_LIST, TYPE 0x32 (R157). -/
  | schedList (payload : List Byte)
  /-- CLOCK_SET, TYPE 0x33 (R153). -/
  | clockSet (payload : List Byte)
  /-- SESSION_OPEN, TYPE 0x40 (R84). -/
  | sessionOpen (payload : List Byte)
  /-- SESSION_EXTEND, TYPE 0x41 (R114, R115). -/
  | sessionExtend (payload : List Byte)
  /-- SESSION_RELEASE, TYPE 0x42 (R116). -/
  | sessionRelease (payload : List Byte)
  /-- SESSION_LIST, TYPE 0x43 (R104). -/
  | sessionList (payload : List Byte)
  /-- PARK, TYPE 0x50 (R9). -/
  | park (payload : List Byte)
  /-- RESERVE_ADJUST, TYPE 0x51 (R138). -/
  | reserveAdjust (payload : List Byte)
  /-- LINK_SET, TYPE 0x60 (R179). -/
  | linkSet (payload : List Byte)
  /-- CONFIG_LOCK, TYPE 0x70 (R180). -/
  | configLock (payload : List Byte)
  /-- RESET_ARM, TYPE 0x7E (R181). -/
  | resetArm (payload : List Byte)
  /-- RESET_EXEC, TYPE 0x7F (R181). -/
  | resetExec (payload : List Byte)
  /-- A good frame whose TYPE is not in the catalogue (R177 step 3). -/
  | unknownTypeFrame (type : Byte) (payload : List Byte)
  /-- A frame-error notice (R178). -/
  | frameErrorNotice (e : FrameError)
  /-- A byte arrives at LRX (R175). -/
  | lrxByte (b : Byte)
  /-- The receiver's gap timer expires (R175). -/
  | gapTimeout
  /-- The last byte of a reply has been sent (R176). -/
  | replyEnd
  /-- The IGN pin takes a level; true is high (R1). -/
  | ignLevelChange (high : Bool)
  /-- The IGN debounce interval ends (R1). -/
  | ignDebounceEnd
  /-- The SERVICE pin takes a level; true is high (R1). -/
  | serviceLevelChange (high : Bool)
  /-- The SERVICE debounce interval ends (R1). -/
  | serviceDebounceEnd
  /-- The battery is connected, or VBAT falls below 4.5 V (R14). -/
  | powerOnReset
  /-- The supply and IGN and SERVICE have been stable: the device leaves reset (R14). -/
  | leaveReset
  /-- A PG input takes a level; true is high (R22). -/
  | pgPinChange (d : DomId) (high : Bool)
  /-- PG is taken as good in RAMPING (R26). -/
  | rampComplete (d : DomId)
  /-- PG is taken as lost in ON or HOLDOFF (R30). -/
  | pgLoss (d : DomId)
  /-- The ramp timer expires in RAMPING (R27). -/
  | rampTimeout (d : DomId)
  /-- The hold-off timer expires (R29). -/
  | holdoffExpiry (d : DomId)
  /-- The retry timer expires in FAULT_WAIT (R31). -/
  | retryExpiry (d : DomId)
  /-- A wake line pin takes a level; true is high (R52). -/
  | wlPinChange (l : LineId) (high : Bool)
  /-- A wake line's debounce interval ends (R52). -/
  | wlDebounceEnd (l : LineId)
  /-- A line's nuisance window expires (R61). -/
  | nuisanceWindowExpiry (l : LineId)
  /-- A line's mute time runs out (R63). -/
  | muteExpiry (l : LineId)
  /-- A listening line's window expires (R75, R76). -/
  | approachExpired (l : LineId)
  /-- The handover timer expires (R7). -/
  | handoverTimeout
  /-- The sample timer ends an interval: the readings at ISNS, in mA, and at VBAT, in mV (R127, R128). -/
  | sample (current voltage : Int)
  /-- The closing sample of an interval that a change of period ended early (R126). -/
  | periodChangeSample (current voltage : Int)
  /-- The run time of the session with this id reaches 0 (R106). -/
  | sessionRunExpiry (id : Nat)
  /-- The suspended-for time of the session with this id reaches its class's limit (R123). -/
  | suspensionLimitExpiry (id : Nat)
  /-- The part clock's fraction passes 999 (R152). -/
  | partSecondRise
  /-- The 1 ms ATTN pulse ends (R172). -/
  | attnPulseEnd
  deriving DecidableEq, Repr

end Sys2Proof
end

