-- ==== Sys2Proof/Decode.lean ====
section
/-! DEFINITION. The command a word of the opcode table spells. -/

namespace Sys2Proof

/-- spec/opcode_table.json gives NO row any bits (every row's "fields" is empty and none has "fixed"): no word spells a command.
The bytes of a request frame are decoded by the receiver and the request handlers (R174, R175, Machine/Link.lean). -/
def decodeTableWord (_nbits _w : Nat) : Option Instr := none

end Sys2Proof
end

