-- ==== Sys2Proof/Config.lean ====
section
/-! DEFINITION. What the manual leaves open and the model keeps FREE: constants with no body, so that nothing can be proved about
their values (assumption logs 3 and 4). -/

namespace Sys2Proof

/-- Which of several events that fall due in the same millisecond is taken first (the manual: "either may be taken first", R46, R99,
R140, R151, R163). Read at the model's own counter `State.freeIdx`; a free value. -/
opaque Config.tieBreak : Nat → Nat

/-- The battery current, in mA, that the shunt inputs ISNS+ and ISNS- show at a sample that the idle device takes by itself (R127):
an input from outside the device; a free value. -/
opaque Config.shuntCurrent : Nat → Int

/-- The battery voltage, in mV, that VBAT shows at a sample that the idle device takes by itself (R127): an input from outside the
device; a free value. -/
opaque Config.batteryVoltage : Nat → Int

end Sys2Proof
end

