-- ==== Sys2Proof/Machine/State.lean ====
section
/-! DEFINITION. The state of the AQ-1216: one structure for each block of 00_scope.md section 2, holding the state that section and the
chapters give the block, and `State.reset`, the device as power-on reset leaves it (R14).

Durations are counted down in milliseconds. A timer that may be stopped is an `Option Nat`: `some 0` is a timer that has run out and
whose event has not been taken yet. -/

namespace Sys2Proof.Machine

/-- The four part modes (chapter 1). -/
inductive Mode where
  | drive | handover | parked | cutoff
  deriving DecidableEq, Repr

/-- The PARKED sub-state (R10). -/
inductive SubState where
  | attend | dormant
  deriving DecidableEq, Repr

/-- Why the part mode changed (R13). -/
inductive ModeCause where
  | ignitionOn | ignitionOff | handoverTimeout | parkRequest | tierCutoff | tierRecovery
  deriving DecidableEq, Repr

/-- The four battery tiers, highest first (R141). -/
inductive Tier where
  | normal | conserve | critical | cutoff
  deriving DecidableEq, Repr

/-! ## Mode Controller -/

/-- IGN or SERVICE: the pin's level, the debounced level and the debounce time left (R1). While the device is held in reset the
interval measures how long the input must still hold its level (R14). -/
structure Input where
  pin : Bool
  debounced : Bool
  interval : Option Nat
  deriving DecidableEq, Repr

/-- MDC's state (chapter 1): mode and sub-state, the three holds' presence, the handover timer (ms left) and timeout (s), the
parked-since-power-on flag, IGN and SERVICE. -/
structure Mdc where
  mode : Mode
  sub : Option SubState
  driveHold : Bool
  handoverHold : Bool
  alwaysHold : Bool
  handoverTimer : Option Nat
  handoverTimeout : Nat
  parkedFlag : Bool
  ign : Input
  service : Input
  deriving DecidableEq, Repr

/-! ## Domain Controller and Ramp Arbiter -/

/-- The seven domain states (section 2.3). -/
inductive DomState where
  | off | queued | ramping | on | holdoff | faultWait | latched
  deriving DecidableEq, Repr

/-- Who pays for a domain (R37). -/
inductive Owner where
  | nobody
  | driveHold
  | handoverHold
  | alwaysHold
  | session (id : Nat)
  deriving DecidableEq, Repr

/-- One entry of the Domain Table (R16). Run current in mA, ramp timeout in ms, hold-off and retry delay in s. -/
structure DomainEntry where
  enabled : Bool
  alwaysOn : Bool
  guarded : Bool
  driveSet : Bool
  runCurrent : Nat
  parent : Option DomId
  rampTimeout : Nat
  holdOff : Nat
  rampPriority : Nat
  retryDelay : Nat
  deriving DecidableEq, Repr

/-- What DMC keeps for one domain (R16) with its two pins: EN as driven, PG as it stands (`pgPin`) and the part of the 1 ms
qualification still to run (`pgQual`, 0 when the level is taken; R22). `timer` is the time left, in ms, of the timer that the
state runs, 0 in a state that runs none. The demand count is a function of the whole state, `State.demand` (R20). -/
structure Domain where
  entry : DomainEntry
  state : DomState
  en : Bool
  timer : Nat
  attempts : Nat
  depReported : Bool
  owner : Owner
  pgPin : Bool
  pgQual : Nat
  deriving DecidableEq, Repr

/-- Why a switch-off of D0 is held while a reply is sent (R35). -/
inductive HeldCause where
  | demandGone   -- a hold-off expiry, or a fall of demand with hold-off 0
  | forced       -- a forced switch-off in CUTOFF
  deriving DecidableEq, Repr

/-- DMC's state: the Domain Table and the held switch-off of D0 (R35). -/
structure Dmc where
  domains : Vector Domain 12
  d0Held : Option HeldCause
  deriving DecidableEq, Repr

/-- RMP's state: the Ramp Queue's domains in order of ARRIVAL (their priority and eligibility are read from the Domain Table, R40,
R42, R45) and the two ramp slots (R39). -/
structure Rmp where
  queue : List DomId
  slotA : Option DomId
  slotB : Option DomId
  deriving DecidableEq, Repr

/-! ## Wake Line Unit and Approach Qualifier -/

/-- Trigger modes (R48). -/
inductive TriggerMode where
  | rising | falling | both | levelHigh | levelLow
  deriving DecidableEq, Repr

/-- Roles of a line (R48). -/
inductive Role where
  | direct | stage1 | stage2 | record
  deriving DecidableEq, Repr

/-- The edge a trigger reports (R53, R55). -/
inductive Edge where
  | rising | falling | level
  deriving DecidableEq, Repr

/-- Activation status of a level-mode line (R54). -/
inductive Activation where
  | inactive | pending | spent
  deriving DecidableEq, Repr

/-- Why a mute ended (R63). -/
inductive UnmuteCause where
  | expired | commanded | park | disabled
  deriving DecidableEq, Repr

/-- One entry of the Line Table (R48). Debounce in ms, nuisance window and mute time in min. -/
structure LineEntry where
  enabled : Bool
  guarded : Bool
  triggerMode : TriggerMode
  debounce : Nat
  role : Role
  cls : ClassId
  partner : LineId
  nuisanceLimit : Nat
  nuisanceWindow : Nat
  muteTime : Nat
  cutoffCapable : Bool
  deriving DecidableEq, Repr

/-- A line's entry, its pin and its running state (R51, R65); true is HIGH. -/
structure Line where
  entry : LineEntry
  pin : Bool
  debounced : Bool
  interval : Option Nat
  act : Activation
  nuisance : Nat
  window : Option Nat
  mute : Option Nat
  mutedTriggers : Nat
  deriving DecidableEq, Repr

/-- WLU's state. -/
structure Wlu where
  lines : Vector Line 16
  deriving DecidableEq, Repr

/-- What a LISTENING approach record holds (R66): the session's id, the partner, the window left in ms. -/
structure Listen where
  session : Nat
  partner : LineId
  window : Nat
  deriving DecidableEq, Repr

/-- An approach record: LISTENING while `listen` is present, IDLE otherwise; and the repeat count (R66). -/
structure Approach where
  listen : Option Listen
  repeats : Nat
  deriving DecidableEq, Repr

/-- APQ's state. -/
structure Apq where
  recs : Vector Approach 16
  deriving DecidableEq, Repr

/-! ## Admission Unit and Session Controller -/

/-- A session's profile (00_scope.md section 4.1). -/
inductive Profile where
  | listen | full | reduced
  deriving DecidableEq, Repr

/-- An optional profile of a class: its set, and its duration in s (reduced) or its window in units of 100 ms (listen) (R79). -/
structure ProfileSpec where
  set : DomSet
  amount : Nat
  deriving DecidableEq, Repr

/-- One entry of the Class Table (R79). Durations and limits in s, overhead in mAs, charge cap in mAh. -/
structure ClassEntry where
  enabled : Bool
  guarded : Bool
  priority : Nat
  minTier : Tier
  essential : Bool
  suspendable : Bool
  exclusive : Bool
  fullSet : DomSet
  fullDuration : Nat
  reduced : Option ProfileSpec
  listen : Option ProfileSpec
  overhead : Nat
  chargeCap : Nat
  maxDuration : Nat
  extensionLimit : Nat
  suspensionLimit : Nat
  deriving DecidableEq, Repr

/-- ADM's state: the Class Table. -/
structure Adm where
  classes : Vector ClassEntry 8
  deriving DecidableEq, Repr

/-- Where a request came from (R83). -/
inductive Origin where
  | line (l : LineId)
  | schedule (entry : Nat)
  | link
  deriving DecidableEq, Repr

/-- Session states (section 7.2). -/
inductive SessState where
  | starting | running | suspended
  deriving DecidableEq, Repr

/-- Why a session closed (R118). -/
inductive CloseReason where
  | released | expired | cap | reserve | tier | preempted | resumeRefused | ignition | reset | approachExpired
  deriving DecidableEq, Repr

/-- What a coalescing did (R113). -/
inductive CoalesceOutcome where
  | lengthened | unchanged | noCharge | held | joined
  deriving DecidableEq, Repr

/-- A session record (R102). Times in ms, charge in mAs with a remainder in mA·ms, extension used in s. -/
structure Session where
  id : Nat
  cls : ClassId
  origin : Origin
  profile : Profile
  state : SessState
  set : DomSet
  admittedAt : Nat
  elapsed : Nat
  remaining : Nat
  estimate : Nat
  drawn : Nat
  drawnRem : Nat
  extUsed : Nat
  listenCurrent : Option Nat
  listening : List LineId
  suspendedBy : Option Nat
  suspendedFor : Option Nat
  deriving DecidableEq, Repr

/-- SSC's state: the Session Table in order of admission (R101) and the next-id counter (R103). -/
structure Ssc where
  sessions : List Session
  nextId : Nat
  deriving DecidableEq, Repr

/-! ## Charge Meter, Battery Tier Monitor, Wake Schedule -/

/-- CHM's state (chapter 8): reserve (mAs) and remainder (mA·ms), the latest readings, I_q (mA), the floor as written (mAh), the
sample timer's elapsed time and its period (ms), and whether a change of period has ended the interval early, so that its closing
sample is due (R126). -/
structure Chm where
  reserve : Nat
  reserveRem : Nat
  current : Nat
  voltage : Nat
  baseline : Nat
  floorMah : Nat
  elapsed : Nat
  period : Nat
  earlyDue : Bool
  deriving DecidableEq, Repr

/-- BTM's state (R141). Thresholds and hysteresis in mV. -/
structure Btm where
  tier : Tier
  conserve : Nat
  critical : Nat
  cutoff : Nat
  hysteresis : Nat
  fallConfirm : Nat
  riseConfirm : Nat
  fall : Nat
  rise : Nat
  deriving DecidableEq, Repr

/-- A schedule entry (R154); `pending` is its state, WAITING or PENDING. -/
structure SchedEntry where
  id : Nat
  due : Nat
  period : Nat
  cls : ClassId
  lateness : Nat
  skipInDrive : Bool
  pending : Bool
  deriving DecidableEq, Repr

/-- WSC's state: the part seconds and fraction, whether the fraction has passed 999 and the rise of the seconds has not been taken
yet (R152), and the Schedule, ordered by due time and then id (R154). -/
structure Wsc where
  seconds : Nat
  fraction : Nat
  riseDue : Bool
  sched : List SchedEntry
  deriving DecidableEq, Repr

/-! ## Event Queue and Link Interface -/

/-- The twenty record kinds, in the order of section 11.1. -/
inductive RecordKind where
  | wakeAdmitted | wakeRefused | wakeCoalesced | sessionUpgraded | sessionSuspended | sessionResumed | sessionClosed
  | lineRecord | lineMuted | lineUnmuted | approachExpired | domainFault | dependencyBlocked | tierChanged
  | reserveExhausted | schedMissed | schedSkipped | modeChanged | linkFault | partReset
  deriving DecidableEq, Repr

/-- An event record: five fields (R165). -/
structure Event where
  kind : RecordKind
  time : Nat
  subject : Byte
  detail : Byte
  value : Option Half
  deriving DecidableEq, Repr

/-- Overflow policies (R167). -/
inductive Overflow where
  | keepOldest | keepNewest
  deriving DecidableEq, Repr

/-- ATTN modes (R168). -/
inductive AttnMode where
  | level | pulse
  deriving DecidableEq, Repr

/-- EVQ's state (chapter 11): the queue oldest first, the lost count, the policy, the ATTN mode and output, the time left of a
running pulse (ms), and whether an EVENTS_READ that left records waits for the end of its reply (R172). -/
structure Evq where
  events : List Event
  lost : Nat
  policy : Overflow
  attnMode : AttnMode
  attn : Bool
  pulse : Option Nat
  readPulse : Bool
  deriving DecidableEq, Repr

/-- The RESULT codes (R177). -/
inductive Result where
  | ok | accepted | clamped | unknownType | badLength | badField | wrongMode | locked | linkFault | domainActive
  | duplicateId | notFound | full | tableFull | noCharge | tier | classDisabled | frameCrc | frameLength | frameTimeout
  deriving DecidableEq, Repr

/-- The receiver's states (R175), `dead` while the link is not live (R182). `body` holds the bytes kept, LEN first. -/
inductive Receiver where
  | dead
  | hunting
  | awaitLength
  | body (kept : List Byte)
  | draining
  deriving DecidableEq, Repr

/-- An entry of the inbound queue (R176). -/
inductive Inbound where
  | frame (type : Byte) (payload : List Byte)
  | notice (e : FrameError)
  deriving DecidableEq, Repr

/-- LNK's state (chapter 12). `gap` is the time, in ms, since the last byte taken within a frame; `reply` the reply frame being
sent, with `replyLeft` ms of its sending left; `resetDue` says that software reset is performed when that reply's sending ends
(R181). -/
structure Lnk where
  receiver : Receiver
  gap : Nat
  inbound : List Inbound
  frameErrors : Nat
  limit : Nat
  linkFault : Bool
  overrun : Bool
  armed : Bool
  locked : Bool
  reply : Option (List Byte)
  replyLeft : Nat
  resetDue : Bool
  deriving DecidableEq, Repr

/-! ## The event in progress, and the whole device -/

/-- A session to be resumed at the end of the event, and its closed suspender (R117 step 5). -/
structure Resume where
  suspended : Nat
  suspender : Nat
  deriving DecidableEq, Repr

/-- The MODEL's own notes on the event in progress; empty between events (`Work.none`). `blocked` are the children to be recorded with
DEPENDENCY_BLOCKED (R25), `condFirst` the attention condition before the event's first kept append (R172), `resume` the
resumption put off to the end of the event (R117). -/
structure Work where
  blocked : List DomId
  condFirst : Option Bool
  resume : Option Resume
  deriving DecidableEq, Repr

/-- No event in progress. -/
def Work.none : Work := { blocked := [], condFirst := Option.none, resume := Option.none }

/-- The whole device: the queue of waiting commands, whether the device is held in reset (R14), and the twelve blocks. `work` and
`freeIdx` (the index of the next free value of Config) are the model's own. -/
structure State where
  pending : List Instr
  held : Bool
  mdc : Mdc
  dmc : Dmc
  rmp : Rmp
  wlu : Wlu
  apq : Apq
  adm : Adm
  ssc : Ssc
  chm : Chm
  btm : Btm
  wsc : Wsc
  evq : Evq
  lnk : Lnk
  work : Work
  freeIdx : Nat
  deriving DecidableEq, Repr

/-- Why the device would stop with a fault. The manual gives no event that stops the device. -/
inductive Fault where
  /-- Raised by no definition of the model: the manual names no event that stops the device (safe: nothing rests on it). -/
  | stopped
  deriving DecidableEq, Repr

/-- Why a command has no meaning. -/
inductive Refusal where
  /-- Raised by an arm of `exec` whose command is not modelled yet (safe); no arm raises it now. -/
  | notModelled (mnemonic : String)
  /-- Raised by `linkRequest` for a host request whose payload has more than 48 bytes, which no frame can carry (R174), and by
  `execUnknownTypeFrame` for a TYPE of the catalogue: such a term is no command of the device (safe: nothing the device can meet is
  stopped). -/
  | illFormed
  deriving DecidableEq, Repr

/-! ## Power-on values -/

/-- The power-on Domain Table entry of D0 (R16). -/
def DomainEntry.powerOnD0 : DomainEntry :=
  { enabled := true, alwaysOn := false, guarded := false, driveSet := false, runCurrent := 0, parent := none, rampTimeout := 500,
    holdOff := 5, rampPriority := 3, retryDelay := 5 }

/-- The power-on Domain Table entry of D1 to D11 (R16). -/
def DomainEntry.powerOn : DomainEntry := { DomainEntry.powerOnD0 with enabled := false }

/-- A domain at power-on (R16): OFF, attempt count 0, no timer, no owner, flag clear. Its PG input shows `pg`, a level taken at once:
DESIGN CHOICE, since no rule says whether a level that stands when the device leaves reset must first hold for 1 ms (assumption log
31). -/
def Domain.powerOn (e : DomainEntry) (pg : Bool) : Domain :=
  { entry := e, state := .off, en := false, timer := 0, attempts := 0, depReported := false, owner := .nobody, pgPin := pg, pgQual := 0 }

/-- The power-on Line Table entry (R48). -/
def LineEntry.powerOn : LineEntry :=
  { enabled := false, guarded := false, triggerMode := .rising, debounce := 20, role := .record, cls := 0, partner := 0,
    nuisanceLimit := 0, nuisanceWindow := 10, muteTime := 30, cutoffCapable := false }

/-- A line at power-on, its pin at `level` (R65). -/
def Line.powerOn (level : Bool) : Line :=
  { entry := LineEntry.powerOn, pin := level, debounced := level, interval := none, act := .inactive, nuisance := 0, window := none,
    mute := none, mutedTriggers := 0 }

/-- The power-on Class Table entry (R79). -/
def ClassEntry.powerOn : ClassEntry :=
  { enabled := false, guarded := false, priority := 0, minTier := .normal, essential := false, suspendable := false, exclusive := false,
    fullSet := 0, fullDuration := 60, reduced := none, listen := none, overhead := 0, chargeCap := 100, maxDuration := 600,
    extensionLimit := 0, suspensionLimit := 0 }

/-- An approach record at power-on (R66). -/
def Approach.powerOn : Approach := { listen := none, repeats := 0 }

/-- CHM at power-on (R125, R127, R129, R137). -/
def Chm.powerOn : Chm :=
  { reserve := 0, reserveRem := 0, current := 0, voltage := 0, baseline := 0, floorMah := 0, elapsed := 0, period := 250,
    earlyDue := false }

/-- BTM at power-on (R141). -/
def Btm.powerOn : Btm :=
  { tier := .normal, conserve := 12000, critical := 11600, cutoff := 11000, hysteresis := 300, fallConfirm := 8, riseConfirm := 40,
    fall := 0, rise := 0 }

/-- WSC at power-on (R152, R154). -/
def Wsc.powerOn : Wsc := { seconds := 0, fraction := 0, riseDue := false, sched := [] }

/-- LNK at power-on (R179, R183). -/
def Lnk.powerOn : Lnk :=
  { receiver := .dead, gap := 0, inbound := [], frameErrors := 0, limit := 4, linkFault := false, overrun := false, armed := false,
    locked := false, reply := none, replyLeft := 0, resetDue := false }

/-- MDC at power-on, IGN and SERVICE showing these levels (R14). -/
def Mdc.powerOn (ign service : Bool) : Mdc :=
  { mode := if ign then .drive else .handover, sub := none, driveHold := ign, handoverHold := !ign, alwaysHold := true,
    handoverTimer := none, handoverTimeout := 120, parkedFlag := false,
    ign := { pin := ign, debounced := ign, interval := none },
    service := { pin := service, debounced := service, interval := none } }

/-- EVQ at power-on: the one PART_RESET record, detail POWER_ON (0), subject the mode set, time 0 (R14, R168). -/
def Evq.powerOn (ign : Bool) : Evq :=
  { events := [{ kind := .partReset, time := 0, subject := if ign then 0 else 1, detail := 0, value := none }],
    lost := 0, policy := .keepOldest, attnMode := .level, attn := false, pulse := none, readPulse := false }

/-- D0 as the event that leaves reset leaves it: queued by the mode's hold, granted a slot and RAMPING for 500 ms (R14, R26, R47). -/
def Domain.d0AtReset : Domain :=
  { Domain.powerOn DomainEntry.powerOnD0 false with state := .ramping, en := true, timer := 500, owner := .handoverHold }

/-- The machine right after power-on reset (R14), every input pin LOW (assumption log 1): IGN low makes the mode HANDOVER, and the
handover hold's demand has queued D0 and taken it into RAMPING in the event that leaves reset. -/
def State.reset : State :=
  { pending := []
    held := false
    mdc := Mdc.powerOn false false
    dmc := { domains := #v[Domain.d0AtReset, Domain.powerOn DomainEntry.powerOn false, Domain.powerOn DomainEntry.powerOn false,
               Domain.powerOn DomainEntry.powerOn false, Domain.powerOn DomainEntry.powerOn false, Domain.powerOn DomainEntry.powerOn false,
               Domain.powerOn DomainEntry.powerOn false, Domain.powerOn DomainEntry.powerOn false, Domain.powerOn DomainEntry.powerOn false,
               Domain.powerOn DomainEntry.powerOn false, Domain.powerOn DomainEntry.powerOn false, Domain.powerOn DomainEntry.powerOn false],
             d0Held := none }
    rmp := { queue := [], slotA := some 0, slotB := none }
    wlu := { lines := Vector.replicate 16 (Line.powerOn false) }
    apq := { recs := Vector.replicate 16 Approach.powerOn }
    adm := { classes := Vector.replicate 8 ClassEntry.powerOn }
    ssc := { sessions := [], nextId := 1 }
    chm := Chm.powerOn
    btm := Btm.powerOn
    wsc := Wsc.powerOn
    evq := Evq.powerOn false
    lnk := Lnk.powerOn
    work := Work.none
    freeIdx := 0 }

end Sys2Proof.Machine
end

