-- ==== Sys2Proof/Machine/Flags.lean ====
section
/-! DEFINITION. The codes of the enumerated fields (section 12.9), the RESULT codes (R177), the flag bytes, and the roundings in which
the device reports quantities (00_scope.md 5.2, R139). -/

namespace Sys2Proof.Machine

def Mode.code : Mode → Nat
  | .drive => 0 | .handover => 1 | .parked => 2 | .cutoff => 3

def Tier.code : Tier → Nat
  | .normal => 0 | .conserve => 1 | .critical => 2 | .cutoff => 3

def DomState.code : DomState → Nat
  | .off => 0 | .queued => 1 | .ramping => 2 | .on => 3 | .holdoff => 4 | .faultWait => 5 | .latched => 6

def TriggerMode.code : TriggerMode → Nat
  | .rising => 0 | .falling => 1 | .both => 2 | .levelHigh => 3 | .levelLow => 4

def Role.code : Role → Nat
  | .direct => 0 | .stage1 => 1 | .stage2 => 2 | .record => 3

def Activation.code : Activation → Nat
  | .inactive => 0 | .pending => 1 | .spent => 2

def Profile.code : Profile → Nat
  | .listen => 0 | .full => 1 | .reduced => 2

def SessState.code : SessState → Nat
  | .starting => 0 | .running => 1 | .suspended => 2

def CloseReason.code : CloseReason → Nat
  | .released => 0 | .expired => 1 | .cap => 2 | .reserve => 3 | .tier => 4 | .preempted => 5 | .resumeRefused => 6
  | .ignition => 7 | .reset => 8 | .approachExpired => 9

def CoalesceOutcome.code : CoalesceOutcome → Nat
  | .lengthened => 0 | .unchanged => 1 | .noCharge => 2 | .held => 3 | .joined => 4

def Edge.code : Edge → Nat
  | .rising => 0 | .falling => 1 | .level => 2

def UnmuteCause.code : UnmuteCause → Nat
  | .expired => 0 | .commanded => 1 | .park => 2 | .disabled => 3

def ModeCause.code : ModeCause → Nat
  | .ignitionOn => 0 | .ignitionOff => 1 | .handoverTimeout => 2 | .parkRequest => 3 | .tierCutoff => 4 | .tierRecovery => 5

/-- Owner kind: none, drive hold, handover hold, always-on hold, session. -/
def Owner.kind : Owner → Nat
  | .nobody => 0 | .driveHold => 1 | .handoverHold => 2 | .alwaysHold => 3 | .session _ => 4

/-- The owning session's id, or 0. -/
def Owner.sessionId : Owner → Nat
  | .session id => id
  | _ => 0

/-- PARKED sub-state in STATUS_GET: 0 outside PARKED, 1 ATTEND, 2 DORMANT (R184). -/
def subCode : Option SubState → Nat
  | none => 0 | some .attend => 1 | some .dormant => 2

/-- The kind byte of an event record: 1 to 20 in the order of section 11.1. -/
def RecordKind.code : RecordKind → Nat
  | .wakeAdmitted => 1 | .wakeRefused => 2 | .wakeCoalesced => 3 | .sessionUpgraded => 4 | .sessionSuspended => 5
  | .sessionResumed => 6 | .sessionClosed => 7 | .lineRecord => 8 | .lineMuted => 9 | .lineUnmuted => 10 | .approachExpired => 11
  | .domainFault => 12 | .dependencyBlocked => 13 | .tierChanged => 14 | .reserveExhausted => 15 | .schedMissed => 16
  | .schedSkipped => 17 | .modeChanged => 18 | .linkFault => 19 | .partReset => 20

/-- The RESULT codes (R177). -/
def Result.code : Result → Nat
  | .ok => 0x00 | .accepted => 0x01 | .clamped => 0x02 | .unknownType => 0x10 | .badLength => 0x11 | .badField => 0x12
  | .wrongMode => 0x13 | .locked => 0x20 | .linkFault => 0x21 | .domainActive => 0x22 | .duplicateId => 0x23 | .notFound => 0x30
  | .full => 0x31 | .tableFull => 0x40 | .noCharge => 0x41 | .tier => 0x42 | .classDisabled => 0x43 | .frameCrc => 0x50
  | .frameLength => 0x51 | .frameTimeout => 0x52

/-- OK, ACCEPTED and CLAMPED report success (00_scope.md 5.5). -/
def Result.success : Result → Bool
  | .ok | .accepted | .clamped => true
  | _ => false

/-- The RESULT that names a frame error (R174). -/
def FrameErrorResult : FrameError → Result
  | .crc => .frameCrc | .length => .frameLength | .timeout => .frameTimeout

/-- The origin word: high byte 0 LINE, 1 SCHEDULE, 2 LINK; low byte the line, the entry id, or 0 (R83). -/
def Origin.word : Origin → Nat
  | .line l => l.val
  | .schedule e => 256 + e
  | .link => 512

/-- a / b rounded up. -/
def ceilDiv (a b : Nat) : Nat := (a + b - 1) / b

/-- Milliseconds as whole seconds, rounded up. -/
def secondsUp (ms : Nat) : Nat := ceilDiv ms 1000

/-- Milliseconds as whole minutes, rounded up. -/
def minutesUp (ms : Nat) : Nat := ceilDiv ms 60000

/-- A charge of c mAs in units of 0.1 mAh: floor((c + 180) / 360) (00_scope.md 5.2, R139). -/
def tenths (mAs : Nat) : Nat := (mAs + 180) / 360

/-- The same where it is reported in 16 bits: it saturates at 65,535 (00_scope.md 5.2). -/
def tenths16 (mAs : Nat) : Nat := min 65535 (tenths mAs)

/-- n as one byte. -/
def byte (n : Nat) : Byte := BitVec.ofNat 8 n

/-- n as two bytes, most significant first (00_scope.md 5.4). -/
def be16 (n : Nat) : List Byte := [byte (n / 256), byte n]

/-- n as four bytes, most significant first. -/
def be32 (n : Nat) : List Byte := [byte (n / 16777216), byte (n / 65536), byte (n / 256), byte n]

/-- Two bytes, most significant first, as a number. -/
def nat16 (h l : Byte) : Nat := h.toNat * 256 + l.toNat

/-- Four bytes, most significant first, as a number. -/
def nat32 (a b c d : Byte) : Nat := ((a.toNat * 256 + b.toNat) * 256 + c.toNat) * 256 + d.toNat

/-- A flag as the bit of this weight. -/
def bit (b : Bool) (weight : Nat) : Nat := if b then weight else 0

/-- Bit n of a flag byte. -/
def flag (b : Byte) (n : Nat) : Bool := b.getLsbD n

end Sys2Proof.Machine
end

