-- ==== Sys2Proof/Machine/Ops.lean ====
section
/-! DEFINITION. The named operations over the state: reading and writing table entries, sets of domains, appending records (R166,
R167), the attention line (R171 to R173), and the sub-state and sample period (R10, R126). -/

namespace Sys2Proof.Machine

/-! ## Index lists and domain sets -/

/-- D0 to D11. -/
def domIds : List DomId := [0, 1, 2, 3, 4, 5, 6, 7, 8, 9, 10, 11]

/-- D11 to D0: the order in which children come before their parents (R21). -/
def domIdsDown : List DomId := [11, 10, 9, 8, 7, 6, 5, 4, 3, 2, 1, 0]

/-- WL0 to WL15. -/
def lineIds : List LineId := [0, 1, 2, 3, 4, 5, 6, 7, 8, 9, 10, 11, 12, 13, 14, 15]

/-- Is d in the set? -/
def hasDom (S : DomSet) (d : DomId) : Bool := S.getLsbD d.val

/-- The set with d added. -/
def addDom (S : DomSet) (d : DomId) : DomSet := S ||| BitVec.twoPow 12 d.val

/-- The set of the domains that satisfy p. -/
def domSetOf (p : DomId → Bool) : DomSet := domIds.foldl (fun S d => if p d then addDom S d else S) 0

/-- The domains of the set that satisfy p. -/
def keepDoms (S : DomSet) (p : DomId → Bool) : DomSet := S &&& domSetOf p

/-! ## Table entries -/

/-- Every entry of a table changed by f. -/
def mapVec {α β : Type} {n : Nat} (f : α → β) (v : Vector α n) : Vector β n := ⟨(v.toArray.toList.map f).toArray, by simp⟩

/-- Domain d of the Domain Table. -/
def State.dom (s : State) (d : DomId) : Domain := s.dmc.domains[d.val]

/-- The state with domain d changed by f. -/
def State.updDom (s : State) (d : DomId) (f : Domain → Domain) : State :=
  { s with dmc.domains := s.dmc.domains.set d.val (f (s.dom d)) }

/-- Line l of the Line Table. -/
def State.line (s : State) (l : LineId) : Line := s.wlu.lines[l.val]

/-- The state with line l changed by f. -/
def State.updLine (s : State) (l : LineId) (f : Line → Line) : State :=
  { s with wlu.lines := s.wlu.lines.set l.val (f (s.line l)) }

/-- The approach record of line l. -/
def State.approach (s : State) (l : LineId) : Approach := s.apq.recs[l.val]

/-- The state with the approach record of line l changed by f. -/
def State.updApproach (s : State) (l : LineId) (f : Approach → Approach) : State :=
  { s with apq.recs := s.apq.recs.set l.val (f (s.approach l)) }

/-- Class c of the Class Table. -/
def State.cls (s : State) (c : ClassId) : ClassEntry := s.adm.classes[c.val]

/-- The state with class c's entry replaced. -/
def State.setClass (s : State) (c : ClassId) (e : ClassEntry) : State :=
  { s with adm.classes := s.adm.classes.set c.val e }

/-- The session with this id (R103). -/
def State.session? (s : State) (id : Nat) : Option Session := s.ssc.sessions.find? (fun x => x.id == id)

/-- The session of class c (R101: at most one). -/
def State.sessionOf? (s : State) (c : ClassId) : Option Session := s.ssc.sessions.find? (fun x => x.cls == c)

/-- The state with the session of this id changed by f. -/
def State.updSession (s : State) (id : Nat) (f : Session → Session) : State :=
  { s with ssc.sessions := s.ssc.sessions.map (fun x => if x.id == id then f x else x) }

/-- STARTING or RUNNING. -/
def Session.active (x : Session) : Bool := x.state != .suspended

/-- The part time in ms (R102). -/
def State.partMs (s : State) : Nat := s.wsc.seconds * 1000 + s.wsc.fraction

/-! ## Records (R165 to R167) -/

/-- The attention condition: D0 is ON and either the queue is not empty or LINK_FAULT is set (R171). -/
def State.attention (s : State) : Bool := (s.dom 0).state == .on && (!s.evq.events.isEmpty || s.lnk.linkFault)

/-- Note, at a kept append, the attention condition before the event's first one (R172). DEDUCED: it is read at the moment of that append,
not at the event's beginning (assumption log 35). -/
def State.noteAppend (s : State) : State :=
  match s.work.condFirst with
  | some _ => s
  | none => { s with work.condFirst := some s.attention }

/-- Append one record: the queue holds 24, and the overflow policy decides beyond that (R166, R167). -/
def State.record (s : State) (kind : RecordKind) (subject detail : Nat) (value : Option Nat) : State :=
  let r : Event := { kind := kind, time := s.wsc.seconds, subject := byte subject, detail := byte detail,
                     value := value.map (BitVec.ofNat 16) }
  if s.evq.events.length < 24 then
    let s := s.noteAppend
    { s with evq.events := s.evq.events ++ [r] }
  else
    match s.evq.policy with
    | .keepOldest => { s with evq.lost := min 255 (s.evq.lost + 1) }
    | .keepNewest =>
      let s := s.noteAppend
      { s with evq.events := s.evq.events.drop 1 ++ [r], evq.lost := min 255 (s.evq.lost + 1) }

/-- Start a pulse of 1 ms, or start it again (R172). -/
def State.startPulse (s : State) : State := { s with evq.pulse := some 1 }

/-- Drive ATTN from the attention condition: a pulse cause noted in this event starts a pulse in PULSE mode (R172); a pulse ends at
once when D0 is not ON and in LEVEL mode (R173); ATTN is asserted while the condition holds and no pulse runs (R171). DEDUCED: D0 is
looked at when the event ends, so a D0 that leaves ON and is ON again within one event keeps the pulse (assumption log 36). -/
def State.refreshAttn (s : State) : State :=
  let s := if s.evq.attnMode = .pulse && s.work.condFirst = some true then s.startPulse else s
  let s := if (s.dom 0).state != .on || s.evq.attnMode = .level then { s with evq.pulse := none } else s
  { s with evq.attn := s.attention && s.evq.pulse.isNone }

/-! ## Sub-state and sample period (R10, R125, R126) -/

/-- The conditions of DORMANT: an empty Session Table, and every domain whose always-on field is no OFF or LATCHED (R10). -/
def State.quiet (s : State) : Bool :=
  s.ssc.sessions.isEmpty &&
  domIds.all (fun d => (s.dom d).entry.alwaysOn || (s.dom d).state == .off || (s.dom d).state == .latched)

/-- The sub-state that the conditions give: none outside PARKED (R10). -/
def State.subNow (s : State) : Option SubState :=
  if s.mdc.mode = .parked then some (if s.quiet then .dormant else .attend) else none

/-- The sample period of a mode and sub-state (R125). -/
def samplePeriod : Mode → Option SubState → Nat
  | .drive, _ | .handover, _ => 250
  | .parked, some .dormant => 2000
  | .parked, _ => 250
  | .cutoff, _ => 2000

/-- CHM is handed a period: one that differs from the one in force ends the interval in progress early, or, when no whole millisecond of
it has passed, applies to it (R126). -/
def State.takePeriod (s : State) (p : Nat) : State :=
  if p = s.chm.period then s
  else if s.chm.elapsed = 0 && !s.chm.earlyDue then { s with chm.period := p }
  else { s with chm.period := p, chm.earlyDue := true }

/-- MDC sets the sub-state from its conditions and hands CHM the period that follows (R10, R126). -/
def State.refreshSub (s : State) : State :=
  let s := { s with mdc.sub := s.subNow }
  s.takePeriod (samplePeriod s.mdc.mode s.mdc.sub)

end Sys2Proof.Machine
end

