-- ==== Sys2Proof/Machine/Domains.lean ====
section
/-! DEFINITION. The Domain Controller and the Ramp Arbiter: demand (R20), the link's life with D0 (R182), the state changes (R21 to R35),
ownership (R37) and the ramp grants (R39 to R45). -/

namespace Sys2Proof.Machine

/-! ## The tree, the holds and demand -/

/-- The set with every ancestor of its members added: parents have lower indices, so one pass from D11 down suffices (R16, R89). -/
def State.withAncestors (s : State) (S : DomSet) : DomSet :=
  domIdsDown.foldl (fun S d => if hasDom S d then
    match (s.dom d).entry.parent with
    | some p => addDom S p
    | none => S
    else S) S

/-- The set without its disabled domains (R20). -/
def State.enabledOf (s : State) (S : DomSet) : DomSet := keepDoms S (fun d => (s.dom d).entry.enabled)

/-- The drive hold's set: D0 and every drive-set member, enabled (R2). -/
def State.driveSet (s : State) : DomSet := domSetOf (fun d => (s.dom d).entry.enabled && (d == 0 || (s.dom d).entry.driveSet))

/-- The handover hold's set: D0 (R2). -/
def State.handoverSet (s : State) : DomSet := domSetOf (fun d => (s.dom d).entry.enabled && d == 0)

/-- The always-on hold's set: every enabled domain whose always-on field is yes (R2). -/
def State.alwaysSet (s : State) : DomSet := domSetOf (fun d => (s.dom d).entry.enabled && (s.dom d).entry.alwaysOn)

/-- The sets of the holds that are present (R2). -/
def State.holdSets (s : State) : List DomSet :=
  (if s.mdc.driveHold then [s.driveSet] else []) ++ (if s.mdc.handoverHold then [s.handoverSet] else []) ++
  (if s.mdc.alwaysHold then [s.alwaysSet] else [])

/-- The sets of the sessions that are not SUSPENDED, disabled domains left out (R20). -/
def State.sessionSets (s : State) : List DomSet :=
  (s.ssc.sessions.filter Session.active).map (fun x => s.enabledOf x.set)

/-- The number of direct holders counted (R20). -/
def State.directHolders (s : State) (d : DomId) : Nat :=
  (s.holdSets ++ s.sessionSets).countP (fun S => hasDom S d)

/-- The number of children that are not OFF (R20). -/
def State.childrenUp (s : State) (d : DomId) : Nat :=
  domIds.countP (fun e => (s.dom e).entry.parent == some d && (s.dom e).state != .off)

/-- The demand count (R20). -/
def State.demand (s : State) (d : DomId) : Nat := s.directHolders d + s.childrenUp d

/-- Does a session that is not SUSPENDED demand the domain, directly or through a descendant (R24, R32, R33, R35)? -/
def State.sessionDemands (s : State) (d : DomId) : Bool :=
  s.sessionSets.any (fun S => hasDom (s.withAncestors S) d)

/-- Does a set demand the domain, directly or through a descendant (R37)? -/
def State.setDemands (s : State) (S : DomSet) (d : DomId) : Bool := hasDom (s.withAncestors S) d

/-! ## The link follows D0 (R182) -/

/-- The link is live while D0 is ON or HOLDOFF (R182). -/
def DomState.live : DomState → Bool
  | .on | .holdoff => true
  | _ => false

/-- EN is on in RAMPING, ON and HOLDOFF (R22). -/
def DomState.enOn : DomState → Bool
  | .ramping | .on | .holdoff => true
  | _ => false

/-- The link becomes live: the receiver starts in HUNTING (R182). -/
def State.linkUp (s : State) : State := { s with lnk.receiver := .hunting, lnk.gap := 0 }

/-- Link loss: the frame in progress and the inbound queue are discarded, the reply in progress is cut off, the arm flag, OVERRUN and
the frame-error counter are cleared; LINK_FAULT and the lock are kept (R182, R183). -/
def State.linkLoss (s : State) : State :=
  { s with lnk.receiver := .dead, lnk.gap := 0, lnk.inbound := [], lnk.armed := false, lnk.overrun := false, lnk.frameErrors := 0,
           lnk.reply := none, lnk.replyLeft := 0, evq.readPulse := false, dmc.d0Held := none }

/-- What a change of D0's state does to the link (R182). -/
def State.linkFollows (s : State) (old new : DomState) : State :=
  if old.live && !new.live then s.linkLoss
  else if !old.live && new.live then s.linkUp
  else s

/-! ## State changes -/

/-- Give back the ramp slot that d holds (R39). -/
def State.freeSlot (s : State) (d : DomId) : State :=
  { s with rmp.slotA := if s.rmp.slotA = some d then none else s.rmp.slotA,
           rmp.slotB := if s.rmp.slotB = some d then none else s.rmp.slotB }

/-- Take domain d into a state: EN follows the state (R22), the timer of the old state ends, a ramp slot is given back (R39), the
Ramp Queue's entry is removed (R44), and the link follows D0 (R182). -/
def State.setState (s : State) (d : DomId) (new : DomState) (timer : Nat) : State :=
  let old := (s.dom d).state
  let s := if old = .ramping then s.freeSlot d else s
  let s := if old = .queued then { s with rmp.queue := s.rmp.queue.filter (· != d) } else s
  let s := s.updDom d (fun x => { x with state := new, en := new.enOn, timer := timer })
  if d = 0 then s.linkFollows old new else s

/-- Enter OFF: the attempt count returns to 0 and any timer is cancelled (R24). -/
def State.enterOff (s : State) (d : DomId) : State :=
  (s.setState d .off 0).updDom d (fun x => { x with attempts := 0 })

/-- Note a DEPENDENCY_BLOCKED record for a child and set its flag, once for each latch of the parent (R25). -/
def State.noteBlocked (s : State) (d : DomId) : State :=
  if (s.dom d).depReported then s
  else { s.updDom d (fun x => { x with depReported := true }) with work.blocked := d :: s.work.blocked }

/-- Is the domain's parent in this state? -/
def State.parentIs (s : State) (d : DomId) (st : DomState) : Bool :=
  match (s.dom d).entry.parent with
  | some p => (s.dom p).state == st
  | none => false

/-- Enter QUEUED (R24); a child whose parent is LATCHED is reported (R25). Its place in the queue is given at the end of the event, as
domains that enter in one event arrive in ascending index order (`State.enqueueArrivals`, R41). -/
def State.enterQueued (s : State) (d : DomId) : State :=
  let s := s.setState d .queued 0
  if s.parentIs d .latched then s.noteBlocked d else s

/-- Enter LATCHED; QUEUED children are reported (R25). -/
def State.enterLatched (s : State) (d : DomId) : State :=
  let s := s.setState d .latched 0
  domIds.foldl (fun s e => if (s.dom e).entry.parent == some d && (s.dom e).state == .queued then s.noteBlocked e else s) s

/-- Leave LATCHED for OFF: the children's dependency-reported flags are cleared (R25, R34). DESIGN CHOICE: a child is one whose entry names
this parent now; a flag that was set under another parent, which a DOMAIN_SET has replaced since, stays until the parent then in the entry
leaves LATCHED (assumption log 41). -/
def State.clearLatch (s : State) (d : DomId) : State :=
  let s := s.enterOff d
  domIds.foldl (fun s e => if (s.dom e).entry.parent == some d then s.updDom e (fun x => { x with depReported := false }) else s) s

/-- Enter HOLDOFF, the timer loaded with the hold-off (R28). -/
def State.enterHoldoff (s : State) (d : DomId) : State := s.setState d .holdoff ((s.dom d).entry.holdOff * 1000)

/-- Switch a domain that is ON or in HOLDOFF off. D0's switch-off is held while a reply is being sent: D0 keeps its state and EN, and
the timer of the held transition is ended (R35). DESIGN CHOICE: the ended timer stays ended where the cause then ceases and D0 is still in
HOLDOFF with count 0, so that its HOLDOFF_EXPIRY is due at once (assumption log 40). -/
def State.powerOff (s : State) (d : DomId) (cause : HeldCause) : State :=
  if d = 0 && s.lnk.reply.isSome then { s.updDom 0 (fun x => { x with timer := 0 }) with dmc.d0Held := some cause }
  else s.enterOff d

/-- Does the cause of D0's held switch-off still stand (R35)? -/
def State.heldStands (s : State) : Bool :=
  match s.dmc.d0Held with
  | none => false
  | some .demandGone => s.demand 0 == 0
  | some .forced => s.mdc.mode == .cutoff && !s.sessionDemands 0

/-- Must the domain be off in CUTOFF although its count is above 0: no session that is not SUSPENDED demands it (R32)? -/
def State.unwantedInCutoff (s : State) (d : DomId) : Bool :=
  s.mdc.mode == .cutoff && s.demand d != 0 && !s.sessionDemands d

/-- Switch one domain off, ignoring its hold-off; a LATCHED one stays LATCHED (R33). -/
def State.forceOff (s : State) (d : DomId) : State :=
  match (s.dom d).state with
  | .off | .latched => s
  | .queued | .ramping | .faultWait => s.enterOff d
  | .on | .holdoff => s.powerOff d .forced

/-- The domains that have d above them in the tree. -/
def State.below (s : State) (d : DomId) : List DomId := domIdsDown.filter (fun e => e != d && s.setDemands (addDom 0 e) d)

/-- The forced switch-off in CUTOFF, on its entry and where R32 gives it: every domain that no session that is not SUSPENDED demands,
children before parents (R11, R32, R33). DEDUCED: where one domain comes to stand as R32 says, the domains that R33 names are all of
these, one in HOLDOFF among them, and not that domain alone (assumption log 8). -/
def State.forceCutoff (s : State) : State :=
  domIdsDown.foldl (fun s d => if s.sessionDemands d then s else s.forceOff d) s

/-- Are the holds of a mode other than CUTOFF placed, so that a domain in OFF is queued for any demand (R24)? The always-on hold is in
all of those modes (R2), so that it is absent only in CUTOFF and in an event that leaves CUTOFF, before that event places the holds. -/
def State.holdsPlaced (s : State) : Bool := s.mdc.mode != .cutoff && s.mdc.alwaysHold

/-- The transition of one domain from its demand count as it stands (R21, R24, R25, R28, R29, R31, R32). DESIGN CHOICE: in CUTOFF a domain
that comes to stand as R32 says is forced off with the change of demand that leaves it so, although a later change of the same event may
demand it again; R32 says only that this comes in that event (assumption log 42). -/
def State.transition (s : State) (d : DomId) : State :=
  if s.unwantedInCutoff d && (s.dom d).state != .off && (s.dom d).state != .latched then s.forceCutoff
  else match (s.dom d).state with
  | .off => if s.demand d != 0 && (s.holdsPlaced || s.sessionDemands d) then s.enterQueued d else s
  | .queued | .faultWait => if s.demand d = 0 then s.enterOff d else s
  | .ramping | .latched => s
  | .on =>
    if s.demand d != 0 then s
    else if (s.dom d).entry.holdOff = 0 then s.powerOff d .demandGone
    else s.enterHoldoff d
  | .holdoff => if s.demand d != 0 then s.setState d .on 0 else s

/-- The same with D0's held switch-off: while its cause stands D0 keeps its state; a cause that has ceased is forgotten (R35; assumption
logs 15 and 40). -/
def State.transitionOf (s : State) (d : DomId) : State :=
  if d = 0 && s.dmc.d0Held.isSome then
    if s.heldStands then s else { s with dmc.d0Held := none }.transition d
  else s.transition d

/-- Every domain's transition in descending index order, so that every child is taken before its parent (R21). -/
def State.settle (s : State) : State := domIdsDown.foldl State.transitionOf s

/-- The effect of one change of demand, its gains and losses having been made in the holds and sessions: DMC's transitions, then the
sub-state (R10, R21). -/
def State.demandChanged (s : State) : State := s.settle.refreshSub

/-! ## Forced switch-off on software reset (R33) -/

/-- On software reset: every latch is cleared, and every domain but D0 switched off, children before parents (R15, R33). The
dependency-reported flags are cleared (R25). -/
def State.forceReset (s : State) : State :=
  let s := domIdsDown.foldl (fun s d =>
    if (s.dom d).state = .latched then s.enterOff d
    else if d = 0 then s
    else s.forceOff d) s
  domIds.foldl (fun s d => s.updDom d (fun x => { x with depReported := false })) s

/-! ## Ramps, faults and losses -/

/-- PG is taken as good in RAMPING: the slot is freed; ON when demanded, else HOLDOFF, or OFF with a hold-off of 0 (R26). -/
def State.rampDone (s : State) (d : DomId) : State :=
  if s.demand d != 0 then s.setState d .on 0
  else if (s.dom d).entry.holdOff = 0 then s.enterOff d
  else s.enterHoldoff d

/-- The level at which PG is taken: the pin's, or the one it had before a change whose 1 ms has not passed (R22). -/
def Domain.pgGood (x : Domain) : Bool := if x.pgQual = 0 then x.pgPin else !x.pgPin

/-- After a failure: OFF, FAULT_WAIT or LATCHED by demand and attempt count, a latch recorded (R27, R30, R36). -/
def State.afterFault (s : State) (d : DomId) : State :=
  if s.demand d = 0 then s.enterOff d
  else if (s.dom d).attempts < 3 then s.setState d .faultWait ((s.dom d).entry.retryDelay * 1000)
  else (s.enterLatched d).record .domainFault d.val 2 (some (s.dom d).attempts)

/-- Raise the attempt count and record the failure: detail 0 NO_POWER_GOOD, 1 LOST (R36). -/
def State.countFault (s : State) (d : DomId) (detail : Nat) : State :=
  let s := s.updDom d (fun x => { x with attempts := x.attempts + 1 })
  s.record .domainFault d.val detail (some (s.dom d).attempts)

/-- The ramp timer expires: EN off, the slot freed, the failure counted (R27). -/
def State.rampFailed (s : State) (d : DomId) : State := (s.countFault d 0).afterFault d

/-- A descendant of a domain that has lost power-good (R30 step 1). -/
def State.dropDescendant (s : State) (d : DomId) : State :=
  match (s.dom d).state with
  | .ramping | .on => if s.demand d != 0 then s.enterQueued d else s.enterOff d
  | .holdoff => s.enterOff d
  | .off | .queued | .faultWait | .latched => s

/-- Power-good is lost in ON or HOLDOFF: descendants first, then the failure (R30). -/
def State.pgLost (s : State) (d : DomId) : State :=
  let s := (s.below d).foldl State.dropDescendant s
  (s.countFault d 1).afterFault d

/-! ## The Ramp Arbiter (R39 to R45) -/

/-- Domains in QUEUED that have no entry yet arrive, in ascending index order (R41). -/
def State.enqueueArrivals (s : State) : State :=
  { s with rmp.queue := s.rmp.queue ++ domIds.filter (fun d => (s.dom d).state == .queued && !s.rmp.queue.contains d) }

/-- An entry placed after the entries of its priority or higher that stand there (R40, R41). -/
def insertByPriority (priority : DomId → Nat) (d : DomId) : List DomId → List DomId
  | [] => [d]
  | e :: rest => if priority e < priority d then d :: e :: rest else e :: insertByPriority priority d rest

/-- The Ramp Queue in its order: by priority, and among equals by arrival (R40). -/
def State.queueOrder (s : State) : List DomId :=
  s.rmp.queue.foldl (fun q d => insertByPriority (fun e => (s.dom e).entry.rampPriority) d q) []

/-- Eligible: no parent, or the parent ON (R42). -/
def State.eligible (s : State) (d : DomId) : Bool :=
  match (s.dom d).entry.parent with
  | none => true
  | some p => (s.dom p).state == .on

/-- Is a slot free (R39)? -/
def State.slotFree (s : State) : Bool := s.rmp.slotA.isNone || s.rmp.slotB.isNone

/-- The first eligible entry in queue order (R43). -/
def State.nextGrant (s : State) : Option DomId := s.queueOrder.find? s.eligible

/-- Grant a slot to d: it leaves the queue, EN goes on, the ramp timer is loaded (R26, R43). -/
def State.grant (s : State) (d : DomId) : State :=
  let s := s.setState d .ramping (s.dom d).entry.rampTimeout
  if s.rmp.slotA.isNone then { s with rmp.slotA := some d } else { s with rmp.slotB := some d }

/-- A grant, and the ramp completed at once when PG is already good; what that hands the queue is applied before the next grant (R22,
R43). -/
def State.grantAndRamp (s : State) (d : DomId) : State :=
  let s := s.grant d
  if (s.dom d).pgGood then (s.rampDone d).demandChanged.enqueueArrivals else s

/-- Grants until no slot is free or no entry is eligible; `n` bounds their number, and the queue has at most 12 entries (R43). -/
def State.grants : Nat → State → State
  | 0, s => s
  | n + 1, s =>
    if s.slotFree then
      match s.nextGrant with
      | some d => State.grants n (s.grantAndRamp d)
      | none => s
    else s

/-! ## Ownership (R37, R38) -/

/-- The owner of a domain: a present hold that demands it, else the earliest active session that demands it, else nobody (R37). -/
def State.ownerOf (s : State) (d : DomId) : Owner :=
  if s.mdc.driveHold && s.setDemands s.driveSet d then .driveHold
  else if s.mdc.handoverHold && s.setDemands s.handoverSet d then .handoverHold
  else if s.mdc.alwaysHold && s.setDemands s.alwaysSet d then .alwaysHold
  else match s.ssc.sessions.find? (fun x => x.active && s.setDemands (s.enabledOf x.set) d) with
    | some x => .session x.id
    | none => .nobody

/-- Every domain's owner set afresh (R38). -/
def State.refreshOwners (s : State) : State :=
  domIds.foldl (fun t d => t.updDom d (fun x => { x with owner := s.ownerOf d })) s

/-- DEPENDENCY_BLOCKED for each child noted in the event, in ascending order of index, its parent's index as detail (R25). -/
def State.recordBlocked (s : State) : State :=
  let marks := s.work.blocked
  let s := { s with work.blocked := [] }
  domIds.foldl (fun s d =>
    if marks.contains d then
      s.record .dependencyBlocked d.val (match (s.dom d).entry.parent with | some p => p.val | none => 255) none
    else s) s

end Sys2Proof.Machine
end

