-- ==== Sys2Proof/Machine/Sessions.lean ====
section
/-! DEFINITION. The Session Controller and the Admission Unit: cost and headroom (R89, R90), closing, suspension and resumption (R117 to
R122), coalescing (R108 to R113), upgrades (R71, R100) and the admission decision (R85 to R98). -/

namespace Sys2Proof.Machine

/-! ## Cost and headroom (R89 to R91) -/

/-- S of R89: disabled domains removed, ancestors added, LATCHED domains removed. -/
def State.pricedSet (s : State) (S : DomSet) : DomSet :=
  keepDoms (s.withAncestors (s.enabledOf S)) (fun d => (s.dom d).state != .latched)

/-- The sum of the declared run currents of a set, in mA (R89 step 4). -/
def State.currentOf (s : State) (S : DomSet) : Nat :=
  domIds.foldl (fun n d => if hasDom S d then n + (s.dom d).entry.runCurrent else n) 0

/-- ΣI of a set as R89 prices it. -/
def State.sumCurrent (s : State) (S : DomSet) : Nat := s.currentOf (s.pricedSet S)

/-- The set of a class's profile; empty when the profile is absent. -/
def ClassEntry.profileSet (c : ClassEntry) : Profile → DomSet
  | .full => c.fullSet
  | .reduced => match c.reduced with | some r => r.set | none => 0
  | .listen => match c.listen with | some l => l.set | none => 0

/-- The duration of a profile, or its listen window, in ms (R89). -/
def ClassEntry.profileMs (c : ClassEntry) : Profile → Nat
  | .full => c.fullDuration * 1000
  | .reduced => match c.reduced with | some r => r.amount * 1000 | none => 0
  | .listen => match c.listen with | some l => l.amount * 100 | none => 0

/-- The cost C of a profile, in mAs (R89). -/
def State.profileCost (s : State) (c : ClassEntry) (p : Profile) : Nat :=
  ceilDiv (s.sumCurrent (c.profileSet p) * c.profileMs p) 1000 + c.overhead

/-- What a session that counts still adds to the committed charge (R90 step 1). -/
def Session.term (x : Session) : Nat := x.estimate - x.drawn

/-- The committed charge K, the sessions named in `skip` left out (R90). -/
def State.committed (s : State) (skip : List Nat) : Nat :=
  ((s.ssc.sessions.filter (fun x => x.active && !skip.contains x.id)).map Session.term).sum

/-- The reserve floor F, in mAs (R90 step 3). -/
def State.floorMas (s : State) : Nat := s.chm.floorMah * 3600

/-- The headroom H, the sessions in `skip` left out of K; 0 if the difference is negative (R90 step 4). -/
def State.headroom (s : State) (skip : List Nat) : Nat := s.chm.reserve - (s.committed skip + s.floorMas)

/-- No charge test: HANDOVER for every class, PARKED and CUTOFF for an essential class (R92, R108). -/
def State.exempt (s : State) (c : ClassEntry) : Bool := s.mdc.mode == .handover || c.essential

/-- A fit test of an added cost, made unless exempt (R91, R108). -/
def State.fits (s : State) (c : ClassEntry) (cost : Nat) : Bool := s.exempt c || decide (cost ≤ s.headroom [])

/-- The tier filter: the tier stands at or above the class's minimum tier (R87). -/
def tierPasses (tier minTier : Tier) : Bool := decide (tier.code ≤ minTier.code)

/-! ## Closing (R117) -/

/-- Return a line's approach record to IDLE, its window cancelled (R77). -/
def State.idleLine (s : State) (l : LineId) : State := s.updApproach l (fun a => { a with listen := none })

/-- Return lines to IDLE (R77). -/
def State.idleLines (s : State) (ls : List LineId) : State := ls.foldl State.idleLine s

/-- A closing puts off the resumption of the session that the closed one had suspended to the end of the event, and drops a put-off
resumption of the closed session itself (R117 step 5, R118). -/
def State.noteClosed (s : State) (id : Nat) : State :=
  let s := match s.work.resume with
    | some r => if r.suspended = id then { s with work.resume := none } else s
    | none => s
  match s.ssc.sessions.find? (fun x => x.suspendedBy == some id) with
  | some x => { s with work.resume := some { suspended := x.id, suspender := id } }
  | none => s

/-- Close the session of this id: demands withdrawn, lines to IDLE, the record leaves the table, SESSION_CLOSED with the charge drawn
(R117). A session that is no longer there is left so (R118). -/
def State.closeSession (s : State) (id : Nat) (why : CloseReason) : State :=
  match s.session? id with
  | none => s
  | some x =>
    let s := { s with ssc.sessions := s.ssc.sessions.filter (fun y => y.id != id) }
    let s := if x.active then s.demandChanged else s.refreshSub
    let s := s.idleLines x.listening
    let s := s.record .sessionClosed id why.code (some (tenths16 x.drawn))
    s.noteClosed id

/-- Close the sessions that satisfy p, in table order (R118). -/
def State.closeWhere (s : State) (p : Session → Bool) (why : CloseReason) : State :=
  (s.ssc.sessions.filter p).foldl (fun s x => s.closeSession x.id why) s

/-! ## Suspension and resumption (R119 to R122) -/

/-- Suspend a session: demands withdrawn, SESSION_SUSPENDED (R119). -/
def State.suspend (s : State) (id suspender : Nat) : State :=
  let s := s.updSession id (fun x => { x with state := .suspended, suspendedBy := some suspender, suspendedFor := some 0 })
  (s.demandChanged).record .sessionSuspended id suspender none

/-- The remaining run time to be priced at a resumption: a LISTEN session's longest window (R121 step 3). -/
def State.runLeft (s : State) (x : Session) : Nat :=
  if x.profile = .listen then
    x.listening.foldl (fun m l => match (s.approach l).listen with | some r => max m r.window | none => m) 0
  else x.remaining

/-- Re-admit the session whose suspender has closed, or close it RESUME_REFUSED (R121, R122). DESIGN CHOICE: the cost rounds the product
of current and ms up, not the ms first (assumption log 33). -/
def State.resume (s : State) (r : Resume) : State :=
  match s.session? r.suspended with
  | none => s
  | some x =>
    if x.active then s
    else
      let c := s.cls x.cls
      let set := s.enabledOf x.set
      let cost := ceilDiv (s.sumCurrent set * s.runLeft x) 1000 + c.overhead
      if tierPasses s.btm.tier c.minTier && s.fits c cost then
        let s := s.updSession x.id (fun x =>
          { x with state := .starting, set := set, suspendedBy := none, suspendedFor := none, estimate := x.drawn + cost })
        (s.demandChanged).record .sessionResumed x.id r.suspender none
      else (s.updSession x.id (fun x => { x with set := set })).closeSession x.id .resumeRefused

/-- The resumption put off to this point (R117 step 5). -/
def State.resumeNow (s : State) : State :=
  match s.work.resume with
  | some r => { s with work.resume := none }.resume r
  | none => s

/-! ## Requests and their outcomes -/

/-- A wake request (R83). `stage1` holds the partner of a stage-1 line's trigger, absent for every other source. -/
structure Request where
  cls : ClassId
  origin : Origin
  wanted : Profile
  stage1 : Option LineId
  deriving DecidableEq, Repr

/-- How a request was decided. -/
inductive Decision where
  /-- A new session (R97). -/
  | admitted (id : Nat)
  /-- Coalesced, with the outcome and the seconds of its WAKE_COALESCED record (R113). -/
  | coalesced (id : Nat) (outcome : CoalesceOutcome) (seconds : Nat)
  /-- An upgrade was made (R71, R110). -/
  | upgraded (id : Nat)
  /-- Refused with this RESULT; the session's id when an upgrade of a LISTEN session was refused, else 0 (R98, R113). -/
  | refused (why : Result) (id : Nat)
  deriving DecidableEq, Repr

/-- Refuse a request and record WAKE_REFUSED with the class, the reason and the origin word (R98). -/
def State.refuse (s : State) (r : Request) (why : Result) (id : Nat) : State × Decision :=
  (s.record .wakeRefused r.cls.val why.code (some r.origin.word), .refused why id)

/-- The profiles tried for a wanted one, in order (R93). -/
def profilesTried (c : ClassEntry) : Profile → List Profile
  | .full => if c.reduced.isSome then [.full, .reduced] else [.full]
  | .reduced => [.reduced]
  | .listen => [.listen]

/-- The first profile tried whose cost is at most the headroom h (R93). -/
def State.firstFit (s : State) (c : ClassEntry) (wanted : Profile) (h : Nat) : Option Profile :=
  (profilesTried c wanted).find? (fun p => decide (s.profileCost c p ≤ h))

/-- The priority of a session's class. -/
def State.priorityOf (s : State) (x : Session) : Nat := (s.cls x.cls).priority

/-- Of the lowest class priority, the earliest admitted. -/
def State.lowest (s : State) (xs : List Session) : Option Session :=
  xs.foldl (fun best x => match best with
    | none => some x
    | some b => if s.priorityOf x < s.priorityOf b then some x else some b) none

/-- The sessions that a class of priority p may suspend: suspendable, STARTING or RUNNING, of strictly lower priority (R94, R96). -/
def State.suspendable (s : State) (p : Nat) : List Session :=
  s.ssc.sessions.filter (fun x => (s.cls x.cls).suspendable && x.active && decide (s.priorityOf x < p))

/-- Is a session SUSPENDED (R94, R96)? -/
def State.slotTaken (s : State) : Bool := s.ssc.sessions.any (fun x => !x.active)

/-- Charge-triggered suspension: the one candidate whose term makes a profile fit, and that profile (R94). `skip` is the session being
upgraded, whose own term is left out of K. -/
def State.chargeSuspension (s : State) (c : ClassEntry) (wanted : Profile) (skip : List Nat) : Option (Nat × Profile) :=
  if s.slotTaken then none
  else match s.lowest (s.suspendable c.priority) with
    | none => none
    | some x => (s.firstFit c wanted (s.headroom (x.id :: skip))).map (fun p => (x.id, p))

/-- The fit step: the profile admitted and the session to suspend for it, or none for NO_CHARGE (R92 to R95). -/
def State.chooseProfile (s : State) (c : ClassEntry) (wanted : Profile) (skip : List Nat) : Option (Profile × Option Nat) :=
  if s.exempt c then some (wanted, none)
  else match s.firstFit c wanted (s.headroom skip) with
    | some p => some (p, none)
    | none => (s.chargeSuspension c wanted skip).map (fun q => (q.2, some q.1))

/-! ## Admission of a new session -/

/-- The id given from a counter standing at n: the first that no session holds, from 255 on to 1; a free one is found within seven
steps (R103). -/
def freeId (taken : List Nat) : Nat → Nat → Nat
  | 0, n => n
  | k + 1, n => if taken.contains n then freeId taken k (if n = 255 then 1 else n + 1) else n

/-- Take an id: the counter then stands at the id after it (R103). -/
def State.takeId (s : State) : State × Nat :=
  let id := freeId (s.ssc.sessions.map Session.id) 7 s.ssc.nextId
  ({ s with ssc.nextId := if id = 255 then 1 else id + 1 }, id)

/-- The session evicted at step 5: of a class that is not essential, the lowest priority, the earliest (R88). -/
def State.evictee (s : State) : Option Session :=
  s.lowest (s.ssc.sessions.filter (fun x => !(s.cls x.cls).essential))

/-- Table space: the state with a place free, or none for TABLE_FULL (R88). -/
def State.makePlace (s : State) (c : ClassEntry) : Option State :=
  if s.ssc.sessions.length < 6 then some s
  else if c.essential then
    match s.evictee with
    | some x => some (s.closeSession x.id .preempted)
    | none => none
  else none

/-- Insert by class priority, lowest first, after its equals (R96). -/
def State.insertLowest (s : State) (x : Session) : List Session → List Session
  | [] => [x]
  | y :: ys => if s.priorityOf x < s.priorityOf y then x :: y :: ys else y :: s.insertLowest x ys

/-- The exclusive candidates in order: lowest class priority first, then admission time (R96). -/
def State.exclusiveCandidates (s : State) (p : Nat) : List Session :=
  (s.suspendable p).foldl (fun acc x => s.insertLowest x acc) []

/-- The exclusive step: the first candidate suspended when the suspension slot is free, every other closed PREEMPTED (R96). DESIGN
CHOICE: they are closed and recorded in candidate order, as R97 part 3 says of this admission, although R118 says table order
(assumption log 32). -/
def State.exclude (s : State) (p newId : Nat) : State :=
  let close := fun (s : State) (x : Session) => s.closeSession x.id .preempted
  match s.exclusiveCandidates p with
  | [] => s
  | x :: rest => if s.slotTaken then (x :: rest).foldl close s else rest.foldl close (s.suspend x.id newId)

/-- The record a request's admission creates (R97 part 4, R102). -/
def State.newSession (s : State) (r : Request) (id : Nat) (p : Profile) (cost : Nat) : Session :=
  let c := s.cls r.cls
  { id := id, cls := r.cls, origin := r.origin, profile := p, state := .starting, set := s.enabledOf (c.profileSet p),
    admittedAt := s.partMs, elapsed := 0, remaining := c.profileMs p, estimate := cost, drawn := 0, drawnRem := 0, extUsed := 0,
    listenCurrent := if p = .listen then some (s.sumCurrent (c.profileSet p)) else none,
    listening := match p, r.origin with | .listen, .line l => [l] | _, _ => [],
    suspendedBy := none, suspendedFor := none }

/-- SSC creates the session and places its demands; a LISTEN session's line becomes LISTENING; WAKE_ADMITTED (R97 parts 4 and 5,
R67). -/
def State.createSession (s : State) (r : Request) (id : Nat) (p : Profile) (cost : Nat) : State :=
  let s := { s with ssc.sessions := s.ssc.sessions ++ [s.newSession r id p cost] }
  let s := s.demandChanged
  let s := match p, r.origin with
    | .listen, .line l => s.updApproach l (fun a =>
        { a with listen := some { session := id, partner := r.stage1.getD l, window := (s.cls r.cls).profileMs .listen } })
    | _, _ => s
  s.record .wakeAdmitted id p.code (some (tenths16 cost))

/-- Steps 5 to 9 of the decision, for a class without a session (R85, R88 to R97). A resumption that this admission's own closings
bring is made at its end; one already put off by the event waits for the event's end (R97 part 6, R117). -/
def State.decideNew (s : State) (r : Request) : State × Decision :=
  let c := s.cls r.cls
  let waiting := s.work.resume.isSome
  match s.makePlace c with
  | none => s.refuse r .tableFull 0
  | some s =>
    match s.chooseProfile c r.wanted [] with
    | none => s.refuse r .noCharge 0
    | some (p, suspendee) =>
      let cost := s.profileCost c p
      let (s, id) := s.takeId
      let s := match suspendee with | some x => s.suspend x id | none => s
      let s := if c.exclusive then s.exclude c.priority id else s
      let s := s.createSession r id p cost
      (if waiting then s else s.resumeNow, .admitted id)

/-! ## Coalescing (R108 to R113) -/

/-- Record WAKE_COALESCED (R113). -/
def State.recordCoalesced (s : State) (id : Nat) (o : CoalesceOutcome) (seconds : Nat) : State × Decision :=
  (s.record .wakeCoalesced id o.code (some seconds), .coalesced id o seconds)

/-- The added time towards a duration in ms: the target is clamped by the class's maximum duration less the elapsed run time (R109). -/
def addedTime (c : ClassEntry) (x : Session) (durationMs : Nat) : Nat :=
  min durationMs (c.maxDuration * 1000 - x.elapsed) - x.remaining

/-- The duration a session is lengthened towards: the full one, or the reduced one of a REDUCED session whose class still has it
(R109, R111, R112). -/
def lengthenMs (c : ClassEntry) (x : Session) : Nat :=
  if x.profile = .reduced && c.reduced.isSome then c.profileMs .reduced else c.profileMs .full

/-- Lengthen an active session after a fit test (R109, R111). -/
def State.lengthen (s : State) (x : Session) : State × Decision :=
  let c := s.cls x.cls
  let added := addedTime c x (lengthenMs c x)
  let priced := secondsUp added
  let cost := s.sumCurrent x.set * priced
  if added = 0 then s.recordCoalesced x.id .unchanged 0
  else if s.fits c cost then
    (s.updSession x.id (fun x => { x with remaining := x.remaining + added, estimate := x.estimate + cost })).recordCoalesced
      x.id .lengthened priced
  else s.recordCoalesced x.id .noCharge 0

/-- Lengthen a SUSPENDED session without a fit test (R112). -/
def State.lengthenHeld (s : State) (x : Session) : State × Decision :=
  let c := s.cls x.cls
  let added := addedTime c x (lengthenMs c x)
  if added = 0 then s.recordCoalesced x.id .unchanged 0
  else (s.updSession x.id (fun x => { x with remaining := x.remaining + added })).recordCoalesced x.id .held (secondsUp added)

/-- The cost of widening a REDUCED session to FULL: new domains for the full duration, kept ones for the priced added time (R110). -/
def State.widenCost (s : State) (c : ClassEntry) (x : Session) : Nat :=
  let full := s.pricedSet c.fullSet
  let cur := s.pricedSet x.set
  let added := addedTime c x (c.profileMs .full)
  s.currentOf (full &&& ~~~cur) * c.fullDuration + s.currentOf (full &&& cur) * secondsUp added

/-- Widen a REDUCED session to FULL, or failing that lengthen it (R110, R111). -/
def State.widen (s : State) (x : Session) : State × Decision :=
  let c := s.cls x.cls
  let cost := s.widenCost c x
  if s.fits c cost then
    let added := addedTime c x (c.profileMs .full)
    let s := s.updSession x.id (fun x =>
      { x with profile := .full, set := s.enabledOf c.fullSet, remaining := x.remaining + added, estimate := x.estimate + cost })
    ((s.demandChanged).record .sessionUpgraded x.id Profile.full.code (some (tenths16 (x.estimate + cost))), .upgraded x.id)
  else s.lengthen x

/-- The change that an upgrade of a LISTEN session makes in its record (R71). DEDUCED: a remaining run time of 0 that it leaves ends the
session in an event of its own (assumption log 34). -/
def Session.upgradedTo (x : Session) (c : ClassEntry) (p : Profile) (set : DomSet) (cost : Nat) : Session :=
  { x with profile := p, set := set, estimate := x.drawn + cost,
           remaining := min (c.profileMs p) (c.maxDuration * 1000 - x.elapsed), listenCurrent := none, listening := [] }

/-- Carry out an upgrade: one change of demand unless SUSPENDED, the lines to IDLE, SESSION_UPGRADED (R71). -/
def State.applyUpgrade (s : State) (x : Session) (p : Profile) (cost : Nat) : State × Decision :=
  let c := s.cls x.cls
  let set := s.enabledOf (c.profileSet p)
  let s := s.updSession x.id (fun x => x.upgradedTo c p set cost)
  let s := if x.active then s.demandChanged else s
  let s := s.idleLines x.listening
  (s.record .sessionUpgraded x.id p.code (some (tenths16 (x.drawn + cost))), .upgraded x.id)

/-- Decide an upgrade request for a LISTEN session (R100). -/
def State.upgrade (s : State) (r : Request) (x : Session) : State × Decision :=
  let c := s.cls x.cls
  if !c.enabled then s.refuse r .classDisabled x.id
  else if !tierPasses s.btm.tier c.minTier then s.refuse r .tier x.id
  else
    match (if x.active then s.chooseProfile c r.wanted [x.id] else some (r.wanted, none)) with
    | none => s.refuse r .noCharge x.id
    | some (p, suspendee) =>
      let cost := s.profileCost c p
      let s := match suspendee with | some y => s.suspend y x.id | none => s
      s.applyUpgrade x p cost

/-- A stage-1 line joins a LISTEN session (R68): its window is lessened by the maximum duration, and with none left the line does not
join; a window that ends after the session's run time lengthens it and its estimate. -/
def State.join (s : State) (x : Session) (l partner : LineId) : State × Decision :=
  let c := s.cls x.cls
  let window := min (c.profileMs .listen) (c.maxDuration * 1000 - x.elapsed)
  if window = 0 then s.recordCoalesced x.id .unchanged 0
  else
    let added := window - x.remaining
    let s := s.updSession x.id (fun x =>
      { x with listening := x.listening ++ [l], remaining := x.remaining + added,
               estimate := x.estimate + ceilDiv (x.listenCurrent.getD 0 * added) 1000 })
    let s := s.updApproach l (fun a => { a with listen := some { session := x.id, partner := partner, window := window } })
    s.recordCoalesced x.id .joined (secondsUp added)

/-- A LISTEN request of a stage-1 line that is not in the session's list: the line and its partner (R108). -/
def joiner (r : Request) (x : Session) : Option (LineId × LineId) :=
  match r.wanted, r.stage1, r.origin with
  | .listen, some partner, .line l => if x.listening.contains l then none else some (l, partner)
  | _, _, _ => none

/-- A request for a class that has a session (R108's table). -/
def State.coalesce (s : State) (r : Request) (x : Session) : State × Decision :=
  match x.profile with
  | .listen =>
    match joiner r x with
    | some (l, partner) => s.join x l partner
    | none => s.upgrade r x
  | .full => if x.active then s.lengthen x else s.lengthenHeld x
  | .reduced =>
    if !x.active then s.lengthenHeld x
    else if r.stage1.isSome || r.wanted != .full then s.lengthen x
    else s.widen x

/-- The admission decision: class, tier, coalescing, and then the steps of a new session (R85). -/
def State.decideRequest (s : State) (r : Request) : State × Decision :=
  let c := s.cls r.cls
  if !c.enabled then s.refuse r .classDisabled 0
  else if !tierPasses s.btm.tier c.minTier then s.refuse r .tier 0
  else match s.sessionOf? r.cls with
    | some x => s.coalesce r x
    | none => s.decideNew r

/-! ## Session states (R105) -/

/-- A session that is not SUSPENDED is RUNNING when every domain of its set is ON or LATCHED (R105). -/
def State.stateOf (s : State) (x : Session) : SessState :=
  if x.active then
    if domIds.all (fun d => !hasDom x.set d || (s.dom d).state == .on || (s.dom d).state == .latched) then .running else .starting
  else .suspended

/-- Every session's state taken afresh (R105). -/
def State.refreshSessions (s : State) : State :=
  { s with ssc.sessions := s.ssc.sessions.map (fun x => { x with state := s.stateOf x }) }

/-! ## The end of an event -/

/-- The model's notes on the event are put away. -/
def State.endEvent (s : State) : State := { s with work := Work.none }

/-- What every event ends with: the resumption put off to it (R117), DMC's transitions settled (R21), arrivals in the Ramp Queue (R41)
and the grants (R43), the DEPENDENCY_BLOCKED records (R25), session states (R105), owners (R38), sub-state and period (R10, R126),
ATTN (R171, R172). -/
def State.finish (s : State) : State :=
  (State.grants 12 s.resumeNow.settle.enqueueArrivals).recordBlocked.refreshSessions.refreshOwners.refreshSub.refreshAttn.endEvent

end Sys2Proof.Machine
end

