-- ==== Sys2Proof/Machine/Lines.lean ====
section
/-! DEFINITION. The Wake Line Unit and the Approach Qualifier: triggers and their roles (R53 to R59), nuisance counting and muting (R60 to
R64), listens and confirmations (R67 to R76), and LINE_SET's effects (R50, R55). -/

namespace Sys2Proof.Machine

/-! ## Nuisance counting and muting (R60 to R63) -/

/-- Mute a line: the window stops, the mute starts, LINE_MUTED with the counter and the mute time (R62). -/
def State.muteLine (s : State) (l : LineId) : State :=
  let x := s.line l
  (s.updLine l (fun x => { x with window := none, mute := some (x.entry.muteTime * 60000) })).record
    .lineMuted l.val x.nuisance (some x.entry.muteTime)

/-- Mute a line whose counter stands at or above a limit that is not 0 (R50, R60). -/
def State.muteIfReached (s : State) (l : LineId) : State :=
  let x := s.line l
  if x.entry.nuisanceLimit != 0 && decide (x.entry.nuisanceLimit ≤ x.nuisance) then s.muteLine l else s

/-- Count one unqualified trigger: only on a line that is enabled and not muted; the first of a series starts the window (R60). -/
def State.countNuisance (s : State) (l : LineId) : State :=
  let x := s.line l
  if x.entry.enabled && x.mute.isNone then
    (s.updLine l (fun x =>
      { x with nuisance := min 15 (x.nuisance + 1),
               window := if x.window.isNone then some (x.entry.nuisanceWindow * 60000) else x.window })).muteIfReached l
  else s

/-- End a mute: LINE_UNMUTED with the cause and the muted-trigger count, then both counters return to 0 (R63). -/
def State.endMute (s : State) (l : LineId) (cause : UnmuteCause) : State :=
  (s.record .lineUnmuted l.val cause.code (some (s.line l).mutedTriggers)).updLine l
    (fun x => { x with mute := none, window := none, nuisance := 0, mutedTriggers := 0 })

/-! ## Roles -/

/-- A trigger taken by a STAGE1 line: a repeat while LISTENING, else a request for LISTEN or, without a listen profile, FULL (R67,
R69). -/
def State.stage1Trigger (s : State) (l : LineId) : State :=
  let e := (s.line l).entry
  match (s.approach l).listen with
  | some _ => s.updApproach l (fun a => { a with repeats := min 65535 (a.repeats + 1) })
  | none =>
    (s.decideRequest { cls := e.cls, origin := .line l, wanted := if (s.cls e.cls).listen.isSome then .listen else .full,
                       stage1 := some e.partner }).1

/-- Is the session the one that some LISTENING record naming this partner is attached to (R70)? -/
def State.confirmedBy (s : State) (l : LineId) (x : Session) : Bool :=
  lineIds.any (fun k => match (s.approach k).listen with
    | some r => r.partner == l && r.session == x.id
    | none => false)

/-- A trigger taken by a STAGE2 line asks for an upgrade of each matched session, earliest admitted first (R70). -/
def State.stage2Trigger (s : State) (l : LineId) : State :=
  (s.ssc.sessions.filter (s.confirmedBy l)).foldl (fun s x =>
    match s.session? x.id with
    | some y => (s.upgrade { cls := y.cls, origin := .line l, wanted := .full, stage1 := none } y).1
    | none => s) s

/-- What a trigger does by the line's role (R57 to R59). -/
def State.roleTrigger (s : State) (l : LineId) (edge : Edge) : State :=
  let e := (s.line l).entry
  match e.role with
  | .direct => (s.decideRequest { cls := e.cls, origin := .line l, wanted := .full, stage1 := none }).1
  | .record => s.record .lineRecord l.val edge.code none
  | .stage1 => s.stage1Trigger l
  | .stage2 => s.stage2Trigger l

/-- Does the present mode let a line's trigger act (R56 step 1)? -/
def modeActs (m : Mode) (e : LineEntry) : Bool :=
  match m with
  | .drive => e.role == .record
  | .handover | .parked => true
  | .cutoff => e.cutoffCapable

/-- LEVEL_HIGH and LEVEL_LOW are the level modes (R54). -/
def TriggerMode.isLevel : TriggerMode → Bool
  | .levelHigh | .levelLow => true
  | _ => false

/-- The active level of a level mode: true is HIGH (R54). -/
def TriggerMode.activeLevel : TriggerMode → Bool
  | .levelHigh => true
  | _ => false

/-- A trigger of an enabled line: the mode filter, the mute, the role; a level activation whose trigger is taken becomes SPENT (R54,
R56, R62). -/
def State.trigger (s : State) (l : LineId) (edge : Edge) : State :=
  let x := s.line l
  if !modeActs s.mdc.mode x.entry then s
  else
    let s := if x.entry.triggerMode.isLevel then s.updLine l (fun x => { x with act := .spent }) else s
    if x.mute.isSome then s.updLine l (fun x => { x with mutedTriggers := min 65535 (x.mutedTriggers + 1) })
    else s.roleTrigger l edge

/-! ## Stable changes (R52 to R54) -/

/-- Does an edge mode name the change to this level (R53)? -/
def edgeTriggers : TriggerMode → Bool → Bool
  | .rising, high => high
  | .falling, high => !high
  | .both, _ => true
  | _, _ => false

/-- The edge of a change to this level (R53). -/
def edgeOf (high : Bool) : Edge := if high then .rising else .falling

/-- A stable change of a line to a level (R52 to R54). -/
def State.stableChange (s : State) (l : LineId) (high : Bool) : State :=
  let s := s.updLine l (fun x => { x with debounced := high })
  let e := (s.line l).entry
  if !e.enabled then s
  else if e.triggerMode.isLevel then
    if high = e.triggerMode.activeLevel then (s.updLine l (fun x => { x with act := .pending })).trigger l (edgeOf high)
    else s.updLine l (fun x => { x with act := .inactive })
  else if edgeTriggers e.triggerMode high then s.trigger l (edgeOf high)
  else s

/-- Arm a line: its activation status is set afresh, and one that stands at its active level triggers with the edge LEVEL (R55). -/
def State.arm (s : State) (l : LineId) : State :=
  let x := s.line l
  if x.entry.triggerMode.isLevel && x.debounced == x.entry.triggerMode.activeLevel then
    (s.updLine l (fun x => { x with act := .pending })).trigger l .level
  else s.updLine l (fun x => { x with act := .inactive })

/-- At PARKED entry and at PARK taken in PARKED every enabled level-mode line whose status is PENDING triggers, in line order (R8 step
5, R55). -/
def State.triggerPending (s : State) : State :=
  lineIds.foldl (fun s l =>
    let x := s.line l
    if x.entry.enabled && x.entry.triggerMode.isLevel && x.act == .pending then s.trigger l .level else s) s

/-! ## Window expiry (R75, R76) -/

/-- A listening line's window expires: APPROACH_EXPIRED; with another line still in the list the line leaves it and is counted (R75),
and the last line's expiry is counted and closes the session (R76). -/
def State.windowExpired (s : State) (l : LineId) (r : Listen) : State :=
  let s := s.record .approachExpired l.val r.session none
  match s.session? r.session with
  | none => s.idleLine l
  | some x =>
    if (x.listening.filter (· != l)).isEmpty then
      ((s.countNuisance l).idleLine l).closeSession x.id .approachExpired
    else
      ((s.idleLine l).updSession x.id (fun x => { x with listening := x.listening.filter (· != l) })).countNuisance l

/-! ## LINE_SET's effects (R50) -/

/-- A line taken from enabled to disabled: its mute ends with cause DISABLED, its window stops, its counter and status return (R50). -/
def State.disableLine (s : State) (l : LineId) : State :=
  let s := if (s.line l).mute.isSome then s.endMute l .disabled else s
  s.updLine l (fun x => { x with window := none, nuisance := 0, act := .inactive })

/-- The write of a line's entry takes effect (R50, R55). -/
def State.writeLine (s : State) (l : LineId) (e : LineEntry) : State :=
  let old := (s.line l).entry
  let s := s.updLine l (fun x => { x with entry := e })
  if !old.enabled && e.enabled then s.arm l
  else if old.enabled && !e.enabled then s.disableLine l
  else if e.enabled then
    let s := if old.triggerMode != e.triggerMode then s.arm l else s
    if (s.line l).mute.isNone then s.muteIfReached l else s
  else s

/-- Software reset's part: every mute and window ends, the counters return to 0, no record (R15, R65); every approach record is IDLE and
its repeat count 0 (R66). -/
def State.resetLines (s : State) : State :=
  lineIds.foldl (fun s l =>
    (s.updLine l (fun x => { x with mute := none, window := none, nuisance := 0, mutedTriggers := 0 })).updApproach l
      (fun _ => Approach.powerOn)) s

end Sys2Proof.Machine
end

