-- ==== Sys2Proof/Machine/Schedule.lean ====
section
/-! DEFINITION. The Wake Schedule: the order of the Schedule (R154) and the evaluation of entries (R158 to R162, R164). -/

namespace Sys2Proof.Machine

/-- Part seconds wrap at 2^32 (R152). -/
def partWrap : Nat := 4294967296

/-- Before in schedule order: by due time and then id (R154). -/
def SchedEntry.before (a b : SchedEntry) : Bool := decide (a.due < b.due) || (a.due == b.due && decide (a.id < b.id))

/-- Place an entry in the Schedule by its due time and id (R154). -/
def placeEntry (e : SchedEntry) : List SchedEntry → List SchedEntry
  | [] => [e]
  | x :: rest => if e.before x then e :: x :: rest else x :: placeEntry e rest

/-- The entry with this id. -/
def State.entry? (s : State) (id : Nat) : Option SchedEntry := s.wsc.sched.find? (fun e => e.id == id)

/-- Remove the entry with this id. -/
def State.removeEntry (s : State) (id : Nat) : State := { s with wsc.sched := s.wsc.sched.filter (fun e => e.id != id) }

/-- Mark an entry WAITING or PENDING; its due time and place stay (R161). -/
def State.setPending (s : State) (id : Nat) (p : Bool) : State :=
  { s with wsc.sched := s.wsc.sched.map (fun e => if e.id == id then { e with pending := p } else e) }

/-- After an evaluation a repeating entry takes the due time `due` and its place; a one-shot entry, and one whose due time would lie
above 4,294,967,295, is removed (R160). -/
def State.advance (s : State) (e : SchedEntry) (due : Nat) : State :=
  let s := s.removeEntry e.id
  if e.period = 0 || decide (partWrap ≤ due) then s
  else { s with wsc.sched := placeEntry { e with due := due, pending := false } s.wsc.sched }

/-- m of R159: the occurrences passed since the due time; 0 for a one-shot entry. -/
def SchedEntry.passed (e : SchedEntry) (now : Nat) : Nat := if e.period = 0 then 0 else (now - e.due) / e.period

/-- due_L of R159: the latest occurrence at or before now. -/
def SchedEntry.latest (e : SchedEntry) (now : Nat) : Nat := e.due + e.passed now * e.period

/-- Record SCHED_MISSED when the count is above 0 (R162). -/
def State.recordMissed (s : State) (e : SchedEntry) (count : Nat) : State :=
  if count = 0 then s else s.record .schedMissed e.id e.cls.val (some (min 65535 count))

/-- The evaluation outside DRIVE: the late arithmetic, the firing's request, the advance (R159, R160, R164). -/
def State.evaluateLate (s : State) (e : SchedEntry) : State :=
  let now := s.wsc.seconds
  let latest := e.latest now
  let fires := decide (now - latest ≤ e.lateness)
  let s := s.recordMissed e (if fires then e.passed now else e.passed now + 1)
  let s := if fires then (s.decideRequest { cls := e.cls, origin := .schedule e.id, wanted := .full, stage1 := none }).1 else s
  s.advance e (latest + e.period)

/-- The evaluation in DRIVE: skipped, or held PENDING (R161). -/
def State.evaluateInDrive (s : State) (e : SchedEntry) : State :=
  if e.skipInDrive then
    let latest := e.latest s.wsc.seconds
    let s := s.recordMissed e (e.passed s.wsc.seconds)
    (s.record .schedSkipped e.id e.cls.val none).advance e (latest + e.period)
  else s.setPending e.id true

/-- Evaluate one entry, the mode read as it is reached; a PENDING entry whose due time lies ahead again returns to WAITING (R158,
R161). -/
def State.evaluate (s : State) (id : Nat) : State :=
  match s.entry? id with
  | none => s
  | some e =>
    if s.mdc.mode = .drive then s.evaluateInDrive e
    else if s.wsc.seconds < e.due then s.setPending e.id false
    else s.evaluateLate e

/-- Evaluate the entries that satisfy p, in schedule order as it stands at the start (R158). -/
def State.evaluateWhere (s : State) (p : SchedEntry → Bool) : State :=
  (s.wsc.sched.filter p).foldl (fun s e => s.evaluate e.id) s

/-- Evaluate every entry whose due time is at or before the part seconds (R153, R158). -/
def State.evaluatePastDue (s : State) : State := s.evaluateWhere (fun e => decide (e.due ≤ s.wsc.seconds))

/-- The seconds rise by 1, or return to 0 after 4,294,967,295, and every entry whose due time equals the new seconds is evaluated
(R152, R158). -/
def State.secondRises (s : State) : State :=
  let s := { s with wsc.seconds := (s.wsc.seconds + 1) % partWrap, wsc.fraction := 0, wsc.riseDue := false }
  s.evaluateWhere (fun e => e.due == s.wsc.seconds)

end Sys2Proof.Machine
end

