-- ==== Sys2Proof/Machine/Modes.lean ====
section
/-! DEFINITION. The Mode Controller: entry into each mode (R4, R6, R8, R11), the debounced inputs (R1), power-on (R14) and software reset
(R15). -/

namespace Sys2Proof.Machine

/-- The mode changes: MODE_CHANGED with the new mode and the cause (R13). -/
def State.setMode (s : State) (m : Mode) (cause : ModeCause) : State :=
  { s with mdc.mode := m }.record .modeChanged m.code cause.code none

/-- The three holds take these presences: one change of demand (R2). -/
def State.setHolds (s : State) (drive handover always : Bool) : State :=
  { s with mdc.driveHold := drive, mdc.handoverHold := handover, mdc.alwaysHold := always }.demandChanged

/-- Load and start the handover timer if the parked-since-power-on flag is set; stop it otherwise (R6, R15). -/
def State.startHandover (s : State) : State :=
  { s with mdc.handoverTimer := if s.mdc.parkedFlag then some (s.mdc.handoverTimeout * 1000) else none }

/-- Stop the handover timer (R7). -/
def State.stopHandover (s : State) : State := { s with mdc.handoverTimer := none }

/-- Every approach record returns to IDLE, its window cancelled, its repeat count kept (R4, R66). -/
def State.idleAll (s : State) : State := s.idleLines lineIds

/-- DRIVE entry (R4). -/
def State.enterDrive (s : State) : State :=
  let s := (s.setMode .drive .ignitionOn).stopHandover
  let s := (s.closeWhere (fun _ => true) .ignition).idleAll
  s.setHolds true false true

/-- CUTOFF entry (R11). -/
def State.enterCutoff (s : State) : State :=
  let s := (s.setMode .cutoff .tierCutoff).stopHandover
  ((s.setHolds false false false).forceCutoff).refreshSub

/-- HANDOVER entry from DRIVE (R6): the holds are swapped, the timer started, the PENDING entries evaluated, and CUTOFF entered at once
when the tier is CUTOFF. -/
def State.enterHandover (s : State) : State :=
  let s := s.setMode .handover .ignitionOff
  let s := (s.setHolds false true true).startHandover
  let s := s.evaluateWhere SchedEntry.pending
  if s.btm.tier = .cutoff then s.enterCutoff else s

/-- PARKED entry (R8). -/
def State.enterParked (s : State) (cause : ModeCause) : State :=
  let s := (s.setMode .parked cause).stopHandover
  let s := (s.setHolds false false true).refreshSub
  s.triggerPending

/-- A debounced change of IGN (R1, R4, R6). -/
def State.ignChanged (s : State) (high : Bool) : State :=
  if high then (if s.mdc.mode = .drive then s else s.enterDrive)
  else if s.mdc.mode = .drive then s.enterHandover
  else s

/-! ## IGN and SERVICE (R1) -/

/-- The fixed debounce time, in ms (R1). -/
def inputDebounce : Nat := 20

/-- A change of an input's level: an interval starts when the level differs from the debounced state, and any change during an interval
restarts it (R1). -/
def Input.pinChange (i : Input) (high : Bool) : Input :=
  if high = i.pin then i
  else { i with pin := high,
                interval := if i.interval.isSome || high != i.debounced then some inputDebounce else none }

/-- A change of an input's level while the device is held in reset: the input must hold its level for 20 ms anew (R14). -/
def Input.pinChangeHeld (i : Input) (high : Bool) : Input :=
  if high = i.pin then i else { i with pin := high, interval := some inputDebounce }

/-- The interval ends: the debounced state takes the level held (R1). -/
def Input.settled (i : Input) : Input := { i with debounced := i.pin, interval := none }

/-! ## Power-on (R14) -/

/-- Every block at its power-on values, the inputs showing the levels they show. The commands that wait, and the model's free-value
index, are not the device's and stay. -/
def State.powerOn (s : State) : State :=
  { pending := s.pending
    held := false
    mdc := Mdc.powerOn s.mdc.ign.pin s.mdc.service.pin
    dmc := { domains := (mapVec (fun x => Domain.powerOn DomainEntry.powerOn x.pgPin) s.dmc.domains).set 0
               (Domain.powerOn DomainEntry.powerOnD0 (s.dom 0).pgPin),
             d0Held := none }
    rmp := { queue := [], slotA := none, slotB := none }
    wlu := { lines := mapVec (fun x => Line.powerOn x.pin) s.wlu.lines }
    apq := { recs := Vector.replicate 16 Approach.powerOn }
    adm := { classes := Vector.replicate 8 ClassEntry.powerOn }
    ssc := { sessions := [], nextId := 1 }
    chm := Chm.powerOn
    btm := Btm.powerOn
    wsc := Wsc.powerOn
    evq := Evq.powerOn s.mdc.ign.pin
    lnk := Lnk.powerOn
    work := Work.none
    freeIdx := s.freeIdx }

/-- The device held in reset: IGN and SERVICE must hold one level for 20 ms from now (R14). The blocks stand at their power-on values,
no demand placed, so that every EN output is off. -/
def State.holdInReset (s : State) : State :=
  let t := s.powerOn
  { t with held := true,
           mdc.ign := { t.mdc.ign with interval := some inputDebounce },
           mdc.service := { t.mdc.service with interval := some inputDebounce } }

/-! ## Software reset (R15) -/

/-- LNK's part: LINK_FAULT, the counter, OVERRUN and the arm flag are cleared, the inbound queue emptied, the receiver in HUNTING while
the link is live; the lock and the settings are kept (R183). -/
def State.resetLink (s : State) : State :=
  { s with lnk.receiver := if (s.dom 0).state.live then .hunting else .dead, lnk.gap := 0, lnk.inbound := [], lnk.frameErrors := 0,
           lnk.linkFault := false, lnk.overrun := false, lnk.armed := false, lnk.resetDue := false }

/-- EVQ's part: every record removed, the lost count 0, any pulse ended, then PART_RESET with detail COMMANDED and the mode set (R15,
R168). -/
def State.resetEvents (s : State) : State :=
  { s with evq.events := [], evq.lost := 0, evq.pulse := none, evq.readPulse := false,
           work.condFirst := none, work.blocked := [] }.record .partReset s.mdc.mode.code 1 none

/-- Steps 1 to 3 of software reset: the sessions closed, the lines reset, the Schedule emptied, the holds released and the domains
switched off (R15). -/
def State.resetRunning (s : State) : State :=
  { (s.closeWhere (fun _ => true) .reset).resetLines with
      wsc.sched := [], mdc.driveHold := false, mdc.handoverHold := false, mdc.alwaysHold := false }.forceReset

/-- The mode by the debounced IGN state, and the BTM counters at 0 (R15). -/
def State.resetMode (s : State) : State :=
  { s with mdc.mode := if s.mdc.ign.debounced then .drive else .handover, btm.fall := 0, btm.rise := 0 }

/-- Step 4: the mode, its holds, and the handover timer (R15). -/
def State.resetHolds (s : State) : State :=
  let s := s.resetMode.setHolds s.mdc.ign.debounced (!s.mdc.ign.debounced) true
  if s.mdc.ign.debounced then s.stopHandover else s.startHandover

/-- Software reset (R15): steps 1 to 5, and CUTOFF entered at once from HANDOVER with the tier CUTOFF. -/
def State.softwareReset (s : State) : State :=
  let s := s.resetRunning.resetHolds.resetLink.resetEvents
  if s.mdc.mode = .handover && s.btm.tier = .cutoff then s.enterCutoff else s

end Sys2Proof.Machine
end

