-- ==== Sys2Proof/Machine/Meter.lean ====
section
/-! DEFINITION. The Charge Meter and the Battery Tier Monitor: the work of a sample (R127 to R136) and the tier's steps (R144 to R150). -/

namespace Sys2Proof.Machine

/-- The largest reserve: 65,535 mAh (R129). -/
def reserveMax : Nat := 235926000

/-- A reading saturated to 0 … top (R127). -/
def saturate (top : Nat) (n : Int) : Nat := min top n.toNat

/-! ## Attribution (R132 to R135) -/

/-- The active set Π: not always-on, in RAMPING, ON or HOLDOFF (R132). -/
def State.activeSet (s : State) : List DomId :=
  domIds.filter (fun d => !(s.dom d).entry.alwaysOn && (s.dom d).state.enOn)

/-- The excess E (R132). -/
def State.excess (s : State) (current : Nat) : Nat := current - s.chm.baseline

/-- The weight W (R132). -/
def State.weight (s : State) : Nat := (s.activeSet.map (fun d => (s.dom d).entry.runCurrent)).sum

/-- The floored share of a domain (R133). -/
def State.flooredShare (s : State) (e : Nat) (d : DomId) : Nat := e * (s.dom d).entry.runCurrent / s.weight

/-- The domain of Π with the largest declared current, and of several the lowest index (R133). -/
def State.heaviest (s : State) : Option DomId :=
  s.activeSet.foldl (fun best d => match best with
    | none => some d
    | some b => if (s.dom b).entry.runCurrent < (s.dom d).entry.runCurrent then some d else some b) none

/-- A domain's share: its floored share, and for the heaviest domain the remainder with it (R133). -/
def State.share (s : State) (e : Nat) (d : DomId) : Nat :=
  s.flooredShare e d +
    (if s.heaviest = some d then e - (s.activeSet.map (s.flooredShare e)).sum else 0)

/-- A session's sum for the sample: the shares of the domains it owns (R134). -/
def State.sessionSum (s : State) (e : Nat) (id : Nat) : Nat :=
  ((s.activeSet.filter (fun d => (s.dom d).owner == .session id)).map (s.share e)).sum

/-- A session charged with a sum over P ms (R135). -/
def Session.charge (x : Session) (sum p : Nat) : Session :=
  if sum = 0 then x
  else
    let total := x.drawnRem + sum * p
    { x with drawn := x.drawn + total / 1000, drawnRem := total % 1000 }

/-- Attribution of the excess to the owners (R132 to R135). -/
def State.attribute (s : State) (current p : Nat) : State :=
  let e := s.excess current
  if e = 0 || s.weight = 0 then s
  else { s with ssc.sessions := s.ssc.sessions.map (fun x => x.charge (s.sessionSum e x.id) p) }

/-! ## The reserve (R130, R131) -/

/-- The decrement of a sample of P ms (R130). -/
def State.decrement (s : State) (current p : Nat) : State :=
  let sum := s.chm.reserveRem + current * p
  { s with chm.reserve := s.chm.reserve - sum / 1000, chm.reserveRem := sum % 1000 }

/-- The exhaustion: RESERVE_EXHAUSTED with the mode and the cause (0 METERED, 1 ADJUSTED), then every session whose class is not
essential closes RESERVE (R131). -/
def State.exhaust (s : State) (cause : Nat) : State :=
  let s := s.record .reserveExhausted s.mdc.mode.code cause none
  s.closeWhere (fun x => !(s.cls x.cls).essential) .reserve

/-- The cap check: active sessions whose charge drawn is at or above the class's cap close CAP (R136). -/
def State.capCheck (s : State) : State :=
  s.closeWhere (fun x => x.active && decide ((s.cls x.cls).chargeCap * 3600 ≤ x.drawn)) .cap

/-! ## Battery tiers (R144 to R150) -/

/-- The next tier down (R141). -/
def Tier.down : Tier → Option Tier
  | .normal => some .conserve | .conserve => some .critical | .critical => some .cutoff | .cutoff => none

/-- The next tier up (R141). -/
def Tier.up : Tier → Option Tier
  | .normal => none | .conserve => some .normal | .critical => some .conserve | .cutoff => some .critical

/-- A tier's own threshold, by which it is reached from above (R141); NORMAL has none. -/
def Btm.threshold (b : Btm) : Tier → Nat
  | .normal => 0 | .conserve => b.conserve | .critical => b.critical | .cutoff => b.cutoff

/-- The fall condition of a reading (R144). -/
def Btm.falls (b : Btm) (v : Nat) : Bool :=
  match b.tier.down with
  | some t => decide (v < b.threshold t)
  | none => false

/-- The rise condition of a reading (R145). -/
def Btm.rises (b : Btm) (v : Nat) : Bool :=
  match b.tier.up with
  | some _ => decide (b.threshold b.tier + b.hysteresis ≤ v)
  | none => false

/-- Both counters updated by a reading (R144, R145). -/
def Btm.counted (b : Btm) (v : Nat) : Btm :=
  { b with fall := if b.falls v then b.fall + 1 else 0, rise := if b.rises v then b.rise + 1 else 0 }

/-- The step a reading makes once counted: down at Nf, up at Nr (R146). -/
def Btm.step (b : Btm) : Option Tier :=
  if b.fallConfirm ≤ b.fall then b.tier.down
  else if b.riseConfirm ≤ b.rise then b.tier.up
  else none

/-- SSC and then MDC take a step, outside DRIVE: closures and CUTOFF entry on the way down, PARKED entry from CUTOFF on the way up
(R147 to R150). -/
def State.takeStep (s : State) (old new : Tier) : State :=
  if s.mdc.mode = .drive then s
  else if old.code < new.code then
    let s := s.closeWhere (fun x => decide ((s.cls x.cls).minTier.code < new.code)) .tier
    if new = .cutoff && s.mdc.mode != .cutoff then s.enterCutoff else s
  else if old = .cutoff && s.mdc.mode = .cutoff then s.enterParked .tierRecovery
  else s

/-- A voltage reading at BTM: counting, and the step with its record (R144 to R146). -/
def State.reading (s : State) (v : Nat) : State :=
  let b := s.btm.counted v
  match b.step with
  | none => { s with btm := b }
  | some new =>
    let old := b.tier
    ({ s with btm := { b with tier := new, fall := 0, rise := 0 } }.record .tierChanged new.code old.code (some v)).takeStep old new

/-! ## A sample (R128) -/

/-- The work of a sample of P ms under the mode in force, in R128's order; the next interval has begun. -/
def State.sampleWork (s : State) (current voltage : Int) (p : Nat) : State :=
  let i := saturate 65535 current
  let v := saturate 20000 voltage
  let mode := s.mdc.mode
  let metered := mode == .parked || mode == .cutoff
  let before := s.chm.reserve
  let s := { s with chm.current := i, chm.voltage := v, chm.elapsed := 0, chm.earlyDue := false }
  let s := if mode = .drive then s else s.attribute i p
  let s := if metered then s.decrement i p else s
  let s := if mode = .drive then s else s.capCheck
  let s := if metered && before != 0 && s.chm.reserve = 0 then s.exhaust 0 else s
  s.reading v

end Sys2Proof.Machine
end

