-- ==== Sys2Proof/Machine/Operands.lean ====
section
/-! DEFINITION. The byte layouts of section 12.9, read from requests and written into replies, with the range checks that need no
table (R17, R49, R80, R155). A read answers `none` where a field is out of range (BAD_FIELD). -/

namespace Sys2Proof.Machine

/-- A value of an enumerated field, by its position in the list (section 12.9). -/
def enumAt {α : Type} (values : List α) (b : Byte) : Option α := values[b.toNat]?

/-- A domain index; none above 11. -/
def readDom (b : Byte) : Option DomId := if h : b.toNat < 12 then some ⟨b.toNat, h⟩ else none

/-- A line index; none above 15. -/
def readLine (b : Byte) : Option LineId := if h : b.toNat < 16 then some ⟨b.toNat, h⟩ else none

/-- A class index; none above 7. -/
def readClass (b : Byte) : Option ClassId := if h : b.toNat < 8 then some ⟨b.toNat, h⟩ else none

/-- A domain set in two bytes; none when it names a domain above 11. -/
def readSet (h l : Byte) : Option DomSet := if nat16 h l < 4096 then some (BitVec.ofNat 12 (nat16 h l)) else none

/-- A parent byte for the domain at index d: 0xFF none, else an index lower than d (R17). -/
def readParent (d : DomId) (b : Byte) : Option (Option DomId) :=
  if b = 0xFF then some none
  else match readDom b with
    | some p => if p.val < d.val then some (some p) else none
    | none => none

/-- The value if it satisfies the check. -/
def check {α : Type} (ok : Bool) (a : α) : Option α := if ok then some a else none

/-! ## Domain entry, 9 bytes -/

/-- The ramp timeout as taken: 0 as 1 ms, above 2,000 ms as 2,000 ms (R17). -/
def clampRamp (t : Nat) : Nat := min 2000 (max 1 t)

/-- A Domain Table entry for the domain at index d, with the ramp timeout as written (R17). -/
def readDomainEntry (d : DomId) : List Byte → Option DomainEntry
  | [f, c1, c0, p, t1, t0, h, pr, rd] =>
    (readParent d p).bind fun parent =>
      check (decide (nat16 c1 c0 ≤ 20000) && decide (pr.toNat ≤ 3) && decide (1 ≤ rd.toNat) && decide (rd.toNat ≤ 60))
        { enabled := flag f 0, alwaysOn := flag f 1, guarded := flag f 2, driveSet := flag f 3, runCurrent := nat16 c1 c0,
          parent := parent, rampTimeout := nat16 t1 t0, holdOff := h.toNat, rampPriority := pr.toNat, retryDelay := rd.toNat }
  | _ => none

/-- A Domain Table entry in its layout. -/
def domainEntryBytes (e : DomainEntry) : List Byte :=
  [byte (bit e.enabled 1 + bit e.alwaysOn 2 + bit e.guarded 4 + bit e.driveSet 8)] ++ be16 e.runCurrent ++
  [match e.parent with | some p => byte p.val | none => 0xFF] ++ be16 e.rampTimeout ++
  [byte e.holdOff, byte e.rampPriority, byte e.retryDelay]

/-! ## Line entry, 9 bytes -/

/-- A Line Table entry for the line at index l, with the debounce as written (R49). -/
def readLineEntry (l : LineId) : List Byte → Option LineEntry
  | [f, m, d, r, c, p, n, w, t] =>
    (enumAt [TriggerMode.rising, .falling, .both, .levelHigh, .levelLow] m).bind fun mode =>
    (enumAt [Role.direct, .stage1, .stage2, .record] r).bind fun role =>
    (readClass c).bind fun cls =>
    (readLine p).bind fun partner =>
      check (!(role == .stage1 && partner == l) && decide (n.toNat ≤ 15) && decide (1 ≤ w.toNat) && decide (1 ≤ t.toNat))
        { enabled := flag f 0, guarded := flag f 1, triggerMode := mode, debounce := d.toNat, role := role, cls := cls,
          partner := partner, nuisanceLimit := n.toNat, nuisanceWindow := w.toNat, muteTime := t.toNat, cutoffCapable := flag f 2 }
  | _ => none

/-- A Line Table entry in its layout. -/
def lineEntryBytes (e : LineEntry) : List Byte :=
  [byte (bit e.enabled 1 + bit e.guarded 2 + bit e.cutoffCapable 4), byte e.triggerMode.code, byte e.debounce, byte e.role.code,
   byte e.cls.val, byte e.partner.val, byte e.nuisanceLimit, byte e.nuisanceWindow, byte e.muteTime]

/-! ## Class entry, 24 bytes -/

/-- An optional profile: its bytes are ignored when its mark is absent (section 12.9). -/
def readProfile (isPresent : Bool) (h l : Byte) (amount : Nat) : Option (Option ProfileSpec) :=
  if isPresent then (readSet h l).map (fun S => some { set := S, amount := amount }) else some none

/-- The check on an optional profile's amount. -/
def profileOk (p : Option ProfileSpec) (ok : Nat → Bool) : Bool :=
  match p with
  | some r => ok r.amount
  | none => true

/-- A Class Table entry (R80). -/
def readClassEntry : List Byte → Option ClassEntry
  | [f, pr, mt, fs1, fs0, fd1, fd0, rs1, rs0, rd1, rd0, ls1, ls0, lw, o1, o0, cc1, cc0, md1, md0, el1, el0, sl1, sl0] =>
    (enumAt [Tier.normal, .conserve, .critical, .cutoff] mt).bind fun minTier =>
    (readSet fs1 fs0).bind fun fullSet =>
    (readProfile (flag f 5) rs1 rs0 (nat16 rd1 rd0)).bind fun reduced =>
    (readProfile (flag f 6) ls1 ls0 lw.toNat).bind fun listen =>
      let full := nat16 fd1 fd0
      let top := nat16 md1 md0
      check (decide (pr.toNat ≤ 7) && decide (1 ≤ full) && decide (full ≤ 3600) &&
          profileOk reduced (fun n => decide (1 ≤ n) && decide (n ≤ 3600) && decide (n ≤ top)) &&
          profileOk listen (fun n => decide (1 ≤ n)) && decide (1 ≤ nat16 cc1 cc0) &&
          decide (1 ≤ top) && decide (top ≤ 7200) && decide (full ≤ top) &&
          decide (nat16 el1 el0 ≤ 3600) && decide (nat16 sl1 sl0 ≤ 3600))
        { enabled := flag f 0, guarded := flag f 1, priority := pr.toNat, minTier := minTier, essential := flag f 2,
          suspendable := flag f 3, exclusive := flag f 4, fullSet := fullSet, fullDuration := full, reduced := reduced,
          listen := listen, overhead := nat16 o1 o0, chargeCap := nat16 cc1 cc0, maxDuration := top,
          extensionLimit := nat16 el1 el0, suspensionLimit := nat16 sl1 sl0 }
  | _ => none

/-- A domain set in its layout. -/
def setBytes (S : DomSet) : List Byte := be16 S.toNat

/-- A Class Table entry in its layout; the bytes of an absent profile are 0. -/
def classEntryBytes (e : ClassEntry) : List Byte :=
  [byte (bit e.enabled 1 + bit e.guarded 2 + bit e.essential 4 + bit e.suspendable 8 + bit e.exclusive 16 +
     bit e.reduced.isSome 32 + bit e.listen.isSome 64),
   byte e.priority, byte e.minTier.code] ++ setBytes e.fullSet ++ be16 e.fullDuration ++
  (match e.reduced with | some r => setBytes r.set ++ be16 r.amount | none => [0, 0, 0, 0]) ++
  (match e.listen with | some l => setBytes l.set ++ [byte l.amount] | none => [0, 0, 0]) ++
  be16 e.overhead ++ be16 e.chargeCap ++ be16 e.maxDuration ++ be16 e.extensionLimit ++ be16 e.suspensionLimit

/-! ## Schedule entry, 13 bytes -/

/-- A schedule entry as SCHED_ADD carries it (R155); the flags byte must be 0 or 1. -/
def readSchedEntry : List Byte → Option SchedEntry
  | [id, u3, u2, u1, u0, p3, p2, p1, p0, c, l1, l0, f] =>
    (readClass c).bind fun cls =>
      let period := nat32 p3 p2 p1 p0
      check (decide (1 ≤ id.toNat) && (period == 0 || (decide (60 ≤ period) && decide (period ≤ 604800))) &&
          decide (nat16 l1 l0 ≤ 3600) && decide (f.toNat ≤ 1))
        { id := id.toNat, due := nat32 u3 u2 u1 u0, period := period, cls := cls, lateness := nat16 l1 l0,
          skipInDrive := flag f 0, pending := false }
  | _ => none

/-- A schedule entry in its layout: flags bit 0 skip-in-drive, bit 1 PENDING. -/
def schedEntryBytes (e : SchedEntry) : List Byte :=
  [byte e.id] ++ be32 e.due ++ be32 e.period ++ [byte e.cls.val] ++ be16 e.lateness ++
  [byte (bit e.skipInDrive 1 + bit e.pending 2)]

/-! ## Session record and event record -/

/-- A session record, 26 bytes and one for each listening line (R104). -/
def sessionBytes (x : Session) : List Byte :=
  [byte x.id, byte x.cls.val] ++ be16 x.origin.word ++ [byte x.profile.code, byte x.state.code] ++ setBytes x.set ++
  be16 (x.elapsed / 1000) ++ be16 (secondsUp x.remaining) ++ be16 (tenths16 x.estimate) ++ be16 (tenths16 x.drawn) ++
  be16 x.extUsed ++ [byte (x.suspendedBy.getD 0)] ++ be16 (x.suspendedFor.getD 0 / 1000) ++ be32 (x.admittedAt / 1000) ++
  [byte x.listening.length] ++ x.listening.map (fun l => byte l.val)

/-- An event record, 7 bytes, or 9 with a value (R165). -/
def eventBytes (r : Event) : List Byte :=
  [byte r.kind.code] ++ be32 r.time ++ [r.subject, r.detail] ++
  (match r.value with | some v => be16 v.toNat | none => [])

/-! ## Frames and the check byte (R174) -/

/-- One shift of the check register (R174). -/
def crcShift (r : Byte) : Byte := if r.msb then (r <<< 1) ^^^ 0x2F else r <<< 1

/-- One byte taken into the check register (R174). -/
def crcByte (r b : Byte) : Byte :=
  crcShift (crcShift (crcShift (crcShift (crcShift (crcShift (crcShift (crcShift (r ^^^ b))))))))

/-- The check byte of the bytes from LEN to the last payload byte (R174). -/
def checkByte (bytes : List Byte) : Byte := bytes.foldl crcByte 0xFF

/-- A request frame (R174). -/
def requestFrame (type : Byte) (payload : List Byte) : List Byte :=
  let body := [byte payload.length, type] ++ payload
  [0xC3] ++ body ++ [checkByte body]

/-- A reply frame: LEN counts STATUS, RESULT and the payload (R174). -/
def replyFrame (type status : Byte) (result : Result) (payload : List Byte) : List Byte :=
  let body := [byte (payload.length + 2), type, status, byte result.code] ++ payload
  [0xC3] ++ body ++ [checkByte body]

/-- How long a frame takes on the link, in whole ms rounded up: 10 bit times a byte at 115,200 baud. -/
def sendingMs (frame : List Byte) : Nat := ceilDiv (frame.length * 10000) 115200

end Sys2Proof.Machine
end

