-- ==== Sys2Proof/Machine/Requests.lean ====
section
/-! DEFINITION. The host's requests as the owning block checks and carries them out (step 6 of R177), one `req…` each. A request that
changes what an event's end looks at ends with `State.finish`; the others change only what they write (and ATTN). -/

namespace Sys2Proof.Machine

/-- The RESULT and the payload of a reply. -/
structure Answer where
  result : Result
  payload : List Byte
  deriving DecidableEq, Repr

/-- Refused: nothing changed, no payload (R177). -/
def refusal (s : State) (r : Result) : State × Answer := (s, { result := r, payload := [] })

/-- OK with no payload. -/
def okay (s : State) : State × Answer := (s, { result := .ok, payload := [] })

/-- OK, or CLAMPED when a field was clamped (00_scope.md 5.6). -/
def okOrClamped (clamped : Bool) : Result := if clamped then .clamped else .ok

/-! ## Status, events and the link's own requests -/

/-- The 34 bytes of STATUS_GET (R184). -/
def State.statusPayload (s : State) : List Byte :=
  [byte s.mdc.mode.code, byte (subCode s.mdc.sub), byte s.btm.tier.code] ++ be32 s.wsc.seconds ++ be32 (tenths s.chm.reserve) ++
  be16 s.chm.voltage ++ be16 s.chm.current ++
  [byte s.ssc.sessions.length, byte s.evq.events.length, byte s.evq.lost, byte s.lnk.frameErrors,
   byte (bit s.lnk.locked 1 + bit s.mdc.service.debounced 2 + bit s.lnk.linkFault 4)] ++
  be16 (secondsUp (s.mdc.handoverTimer.getD 0)) ++ domIds.map (fun d => byte (s.dom d).state.code)

/-- STATUS_GET (R184). -/
def reqStatusGet (s : State) (_p : List Byte) : State × Answer := (s, { result := .ok, payload := s.statusPayload })

/-- How many of the oldest records an EVENTS_READ removes: at most `n`, their bytes together within `room` (R169). -/
def readable : Nat → Nat → List Event → Nat
  | 0, _, _ => 0
  | _, _, [] => 0
  | n + 1, room, r :: rest =>
    if (eventBytes r).length ≤ room then 1 + readable n (room - (eventBytes r).length) rest else 0

/-- EVENTS_READ (R169, R170). -/
def reqEventsRead (s : State) (p : List Byte) : State × Answer :=
  match p with
  | [m] =>
    if 1 ≤ m.toNat && m.toNat ≤ 8 then
      let k := readable m.toNat 56 s.evq.events
      let rest := s.evq.events.drop k
      let payload := [byte k, byte s.evq.lost] ++ (s.evq.events.take k).flatMap eventBytes
      (({ s with evq.events := rest, evq.lost := 0, evq.readPulse := !rest.isEmpty }).refreshAttn, { result := .ok, payload := payload })
    else refusal s .badField
  | _ => refusal s .badLength

/-- FAULT_CLEAR (R178). -/
def reqFaultClear (s : State) (_p : List Byte) : State × Answer := okay ({ s with lnk.linkFault := false }).refreshAttn

/-- LINK_SET (R179, R168, R173). -/
def reqLinkSet (s : State) (p : List Byte) : State × Answer :=
  match p with
  | [lim, am, op, h1, h0] =>
    match enumAt [AttnMode.level, .pulse] am, enumAt [Overflow.keepOldest, .keepNewest] op with
    | some mode, some policy =>
      if 1 ≤ lim.toNat && lim.toNat ≤ 15 && 10 ≤ nat16 h1 h0 && nat16 h1 h0 ≤ 600 then
        okay ({ s with lnk.limit := lim.toNat, evq.attnMode := mode, evq.policy := policy,
                       mdc.handoverTimeout := nat16 h1 h0 }).refreshAttn
      else refusal s .badField
    | _, _ => refusal s .badField
  | _ => refusal s .badLength

/-- CONFIG_LOCK (R180). -/
def reqConfigLock (s : State) (_p : List Byte) : State × Answer := okay { s with lnk.locked := true }

/-- RESET_ARM (R181). -/
def reqResetArm (s : State) (_p : List Byte) : State × Answer := okay { s with lnk.armed := true }

/-- RESET_EXEC while the arm flag is clear (R181); the armed one is taken at step 1 of R177. -/
def reqResetExec (s : State) (_p : List Byte) : State × Answer := refusal s .wrongMode

/-! ## Domains -/

/-- The refusals of R17 that read the tree: enabling under a disabled parent, disabling a domain that an enabled one names as parent. -/
def State.treeRefuses (s : State) (d : DomId) (e : DomainEntry) : Bool :=
  if e.enabled then
    match e.parent with
    | some p => !(s.dom p).entry.enabled
    | none => false
  else domIds.any (fun c => c != d && (s.dom c).entry.enabled && (s.dom c).entry.parent == some d)

/-- Would the write change the enabled, always-on or parent field (R18)? -/
def changesTree (old new : DomainEntry) : Bool :=
  old.enabled != new.enabled || old.alwaysOn != new.alwaysOn || old.parent != new.parent

/-- DOMAIN_SET (R17, R18, R3). -/
def reqDomainSet (s : State) (p : List Byte) : State × Answer :=
  match p with
  | i :: rest =>
    match readDom i with
    | none => refusal s .badField
    | some d =>
      match readDomainEntry d rest with
      | none => refusal s .badField
      | some e =>
        if s.treeRefuses d e then refusal s .badField
        else if (s.dom d).state != .off && changesTree (s.dom d).entry e then refusal s .domainActive
        else
          let s := s.updDom d (fun x => { x with entry := { e with rampTimeout := clampRamp e.rampTimeout } })
          (s.demandChanged.finish, { result := okOrClamped (clampRamp e.rampTimeout != e.rampTimeout), payload := [] })
  | [] => refusal s .badLength

/-- The time left of the timer that a domain's state runs: ms in RAMPING, whole seconds rounded up in HOLDOFF and FAULT_WAIT (R19). -/
def Domain.timerReported (x : Domain) : Nat :=
  match x.state with
  | .ramping => x.timer
  | .holdoff | .faultWait => secondsUp x.timer
  | _ => 0

/-- The 18 bytes of DOMAIN_GET (R19). -/
def State.domainPayload (s : State) (d : DomId) : List Byte :=
  let x := s.dom d
  [byte d.val] ++ domainEntryBytes x.entry ++
  [byte x.state.code, byte (s.directHolders d), byte (s.childrenUp d), byte x.attempts] ++ be16 x.timerReported ++
  [byte x.owner.kind, byte x.owner.sessionId]

/-- DOMAIN_GET (R19). -/
def reqDomainGet (s : State) (p : List Byte) : State × Answer :=
  match p with
  | [i] =>
    match readDom i with
    | some d => (s, { result := .ok, payload := s.domainPayload d })
    | none => refusal s .badField
  | _ => refusal s .badLength

/-- DOMAIN_CLEAR_FAULT's action by the domain's state (R34). -/
def State.clearFault (s : State) (d : DomId) : State :=
  match (s.dom d).state with
  | .latched => (s.clearLatch d).demandChanged
  | .faultWait => ((s.enterQueued d).updDom d (fun x => { x with attempts := 0 })).demandChanged
  | _ => s.updDom d (fun x => { x with attempts := 0 })

/-- DOMAIN_CLEAR_FAULT (R34). -/
def reqDomainClearFault (s : State) (p : List Byte) : State × Answer :=
  match p with
  | [i] =>
    match readDom i with
    | some d => okay (s.clearFault d).finish
    | none => refusal s .badField
  | _ => refusal s .badLength

/-! ## Lines -/

/-- LINE_SET (R49, R50). -/
def reqLineSet (s : State) (p : List Byte) : State × Answer :=
  match p with
  | i :: rest =>
    match readLine i with
    | none => refusal s .badField
    | some l =>
      match readLineEntry l rest with
      | none => refusal s .badField
      | some e =>
        ((s.writeLine l { e with debounce := min 250 e.debounce }).finish,
          { result := okOrClamped (decide (250 < e.debounce)), payload := [] })
  | [] => refusal s .badLength

/-- The 21 bytes of LINE_GET (R51). -/
def State.linePayload (s : State) (l : LineId) : List Byte :=
  let x := s.line l
  let a := s.approach l
  [byte l.val] ++ lineEntryBytes x.entry ++
  [byte (bit x.debounced 1 + bit x.interval.isSome 2 + bit x.mute.isSome 4), byte x.act.code, byte x.nuisance,
   byte (minutesUp (x.window.getD 0)), byte (minutesUp (x.mute.getD 0))] ++ be16 x.mutedTriggers ++
  [byte (bit a.listen.isSome 1), byte (match a.listen with | some r => r.session | none => 0)] ++ be16 a.repeats

/-- LINE_GET (R51). -/
def reqLineGet (s : State) (p : List Byte) : State × Answer :=
  match p with
  | [i] =>
    match readLine i with
    | some l => (s, { result := .ok, payload := s.linePayload l })
    | none => refusal s .badField
  | _ => refusal s .badLength

/-- LINE_UNMUTE (R64). -/
def reqLineUnmute (s : State) (p : List Byte) : State × Answer :=
  match p with
  | [i] =>
    match readLine i with
    | some l =>
      if (s.line l).mute.isSome then okay (s.endMute l .commanded).finish
      else okay (s.updLine l (fun x => { x with window := none, nuisance := 0 }))
    | none => refusal s .badField
  | _ => refusal s .badLength

/-! ## Classes -/

/-- The session of the class whose suspended-for time stands at or above the class's limit (R123). -/
def State.overSuspended (s : State) (c : ClassId) : Option Session :=
  s.ssc.sessions.find? (fun x => x.cls == c && !x.active && (s.cls c).suspensionLimit != 0 &&
    decide ((s.cls c).suspensionLimit * 1000 ≤ x.suspendedFor.getD 0))

/-- CLASS_SET (R80, R81, R123). -/
def reqClassSet (s : State) (p : List Byte) : State × Answer :=
  match p with
  | i :: rest =>
    match readClass i with
    | none => refusal s .badField
    | some c =>
      match readClassEntry rest with
      | none => refusal s .badField
      | some e =>
        if e.minTier != (s.cls c).minTier && (s.sessionOf? c).isSome then refusal s .badField
        else
          let s := s.setClass c e
          match s.overSuspended c with
          | some x => okay (s.closeSession x.id .expired).finish
          | none => okay s
  | [] => refusal s .badLength

/-- CLASS_GET (R82). -/
def reqClassGet (s : State) (p : List Byte) : State × Answer :=
  match p with
  | [i] =>
    match readClass i with
    | some c =>
      (s, { result := .ok,
            payload := [byte c.val] ++ classEntryBytes (s.cls c) ++
              [byte (match s.sessionOf? c with | some x => x.id | none => 0)] })
    | none => refusal s .badField
  | _ => refusal s .badLength

/-! ## Tiers, meter and reserve -/

/-- The six settings in the layout of TIER_SET. -/
def Btm.settingsBytes (b : Btm) : List Byte :=
  be16 b.conserve ++ be16 b.critical ++ be16 b.cutoff ++ be16 b.hysteresis ++ [byte b.fallConfirm, byte b.riseConfirm]

/-- The range checks on the thresholds and counts (R142). -/
def tierFieldsOk (tc tk tx nf nr : Nat) : Bool :=
  decide (8000 ≤ tx) && decide (tx < tk) && decide (tk < tc) && decide (tc ≤ 15000) &&
  decide (1 ≤ nf) && decide (nf ≤ 32) && decide (1 ≤ nr)

/-- TIER_SET (R142, R143). -/
def reqTierSet (s : State) (p : List Byte) : State × Answer :=
  match p with
  | [a1, a0, b1, b0, c1, c0, h1, h0, nf, nr] =>
    if tierFieldsOk (nat16 a1 a0) (nat16 b1 b0) (nat16 c1 c0) nf.toNat nr.toNat then
      let hy := min 1000 (max 50 (nat16 h1 h0))
      let b : Btm := { s.btm with conserve := nat16 a1 a0, critical := nat16 b1 b0, cutoff := nat16 c1 c0, hysteresis := hy,
                                  fallConfirm := nf.toNat, riseConfirm := nr.toNat, fall := 0, rise := 0 }
      ({ s with btm := b }, { result := okOrClamped (hy != nat16 h1 h0), payload := b.settingsBytes })
    else refusal s .badField
  | _ => refusal s .badLength

/-- METER_SET (R137). -/
def reqMeterSet (s : State) (p : List Byte) : State × Answer :=
  match p with
  | [q1, q0, f1, f0] =>
    if nat16 q1 q0 ≤ 2000 then okay { s with chm.baseline := nat16 q1 q0, chm.floorMah := nat16 f1 f0 }
    else refusal s .badField
  | _ => refusal s .badLength

/-- RESERVE_ADJUST (R138, R131). -/
def reqReserveAdjust (s : State) (p : List Byte) : State × Answer :=
  match p with
  | [d1, d0] =>
    if s.mdc.mode = .drive || s.mdc.mode = .cutoff then refusal s .wrongMode
    else
      let delta : Int := (d1 ++ d0 : BitVec 16).toInt
      let sum : Int := (s.chm.reserve : Int) + delta * 3600
      let r := saturate reserveMax sum
      let before := s.chm.reserve
      let s := { s with chm.reserve := r }
      let s := if before != 0 && r = 0 then (s.exhaust 1).finish else s
      (s, { result := okOrClamped ((r : Int) != sum), payload := be32 (tenths r) })
  | _ => refusal s .badLength

/-! ## Schedule and clock -/

/-- SCHED_ADD (R155). -/
def reqSchedAdd (s : State) (p : List Byte) : State × Answer :=
  match readSchedEntry p with
  | none => refusal s .badField
  | some e =>
    if (s.entry? e.id).isSome then refusal s .duplicateId
    else if 16 ≤ s.wsc.sched.length then refusal s .full
    else
      let s := { s with wsc.sched := placeEntry e s.wsc.sched }
      if e.due ≤ s.wsc.seconds then okay (s.evaluate e.id).finish else okay s

/-- SCHED_CANCEL (R156). -/
def reqSchedCancel (s : State) (p : List Byte) : State × Answer :=
  match p with
  | [i] =>
    if i = 0 then refusal s .badField
    else if (s.entry? i.toNat).isSome then okay (s.removeEntry i.toNat)
    else refusal s .notFound
  | _ => refusal s .badLength

/-- SCHED_LIST (R157): at most 4 entries in one reply. -/
def reqSchedList (s : State) (p : List Byte) : State × Answer :=
  match p with
  | [i] =>
    if i.toNat ≤ 15 then
      let es := (s.wsc.sched.drop i.toNat).take 4
      (s, { result := .ok,
            payload := [byte s.wsc.sched.length, byte es.length] ++ be32 s.wsc.seconds ++ es.flatMap schedEntryBytes })
    else refusal s .badField
  | _ => refusal s .badLength

/-- CLOCK_SET (R153). -/
def reqClockSet (s : State) (p : List Byte) : State × Answer :=
  match p with
  | [a, b, c, d] =>
    okay ({ s with wsc.seconds := nat32 a b c d, wsc.fraction := 0, wsc.riseDue := false }.evaluatePastDue).finish
  | _ => refusal s .badLength

/-! ## Sessions -/

/-- The payload of SESSION_OPEN: session id, profile, estimate, seconds (section 12.8). -/
def openPayload (id profile estimate seconds : Nat) : List Byte := [byte id, byte profile] ++ be16 estimate ++ be16 seconds

/-- The reply to a SESSION_OPEN that was decided, read from the state the decision left (R84, R113). -/
def State.openAnswer (s : State) (d : Decision) : Answer :=
  let granted := fun (r : Result) (id seconds : Nat) =>
    match s.session? id with
    | some x => { result := r, payload := openPayload id x.profile.code (tenths16 x.estimate) seconds : Answer }
    | none => { result := r, payload := openPayload id 0 0 seconds }
  match d with
  | .admitted id => granted .accepted id 0
  | .coalesced id .noCharge _ => { result := .noCharge, payload := openPayload id 0 0 0 }
  | .coalesced id _ seconds => granted .ok id seconds
  | .upgraded id => granted .ok id 0
  | .refused why id => { result := why, payload := openPayload (if why = .noCharge then id else 0) 0 0 0 }

/-- A SESSION_OPEN that LNK's own checks refuse carries its payload, all 0 (R84, R177). -/
def openRefusal (s : State) (r : Result) : State × Answer := (s, { result := r, payload := openPayload 0 0 0 0 })

/-- SESSION_OPEN (R84, R113). -/
def reqSessionOpen (s : State) (p : List Byte) : State × Answer :=
  match p with
  | [ci, w] =>
    match readClass ci, enumAt [Profile.listen, .full, .reduced] w with
    | some c, some wanted =>
      if wanted = .listen then openRefusal s .badField
      else if wanted = .reduced && (s.cls c).reduced.isNone then openRefusal s .badField
      else if s.mdc.mode = .drive then openRefusal s .wrongMode
      else
        let (s, d) := s.decideRequest { cls := c, origin := .link, wanted := wanted, stage1 := none }
        (s.finish, s.openAnswer d)
    | _, _ => openRefusal s .badField
  | _ => openRefusal s .badLength

/-- The granted seconds of an extension: the smallest of three amounts, none below 0 (R114). -/
def grantedSeconds (c : ClassEntry) (x : Session) (asked : Nat) : Nat :=
  min asked (min (c.extensionLimit - x.extUsed) ((c.maxDuration * 1000 - x.elapsed - x.remaining) / 1000))

/-- The change an extension of `n` seconds makes in the record: run time and extension used, and the estimate of a session that is not
SUSPENDED (R115). -/
def Session.extended (x : Session) (n cost : Nat) : Session :=
  { x with remaining := x.remaining + n * 1000, extUsed := x.extUsed + n,
           estimate := if x.active then x.estimate + cost else x.estimate }

/-- APQ lengthens the window of every listening line (R74). -/
def State.lengthenWindows (s : State) (ls : List LineId) (ms : Nat) : State :=
  ls.foldl (fun s l => s.updApproach l (fun a =>
    { a with listen := a.listen.map (fun r => { r with window := r.window + ms }) })) s

/-- The payload of SESSION_EXTEND: granted seconds, remaining (s, rounded up), estimate (0.1 mAh). -/
def extendPayload (granted remaining estimate : Nat) : List Byte := be16 granted ++ be16 remaining ++ be16 estimate

/-- SESSION_EXTEND (R114, R115). -/
def reqSessionExtend (s : State) (p : List Byte) : State × Answer :=
  match p with
  | [i, a1, a0] =>
    if i = 0 then (s, { result := .badField, payload := extendPayload 0 0 0 })
    else match s.session? i.toNat with
      | none => (s, { result := .notFound, payload := extendPayload 0 0 0 })
      | some x =>
        let c := s.cls x.cls
        let asked := nat16 a1 a0
        let n := grantedSeconds c x asked
        let cost := s.sumCurrent x.set * n
        let result := okOrClamped (decide (n < asked))
        if n = 0 then (s, { result := result, payload := extendPayload 0 (secondsUp x.remaining) (tenths16 x.estimate) })
        else if x.active && !s.fits c cost then (s, { result := .noCharge, payload := extendPayload n 0 0 })
        else
          let y := x.extended n cost
          let s := (s.updSession x.id (fun x => x.extended n cost)).lengthenWindows x.listening (n * 1000)
          (s, { result := result, payload := extendPayload n (secondsUp y.remaining) (tenths16 y.estimate) })
  | _ => (s, { result := .badLength, payload := extendPayload 0 0 0 })

/-- SESSION_RELEASE (R116): closed RELEASED; a SPURIOUS verdict counts against the line of its origin. -/
def reqSessionRelease (s : State) (p : List Byte) : State × Answer :=
  match p with
  | [i, v] =>
    if i = 0 || 1 < v.toNat then refusal s .badField
    else match s.session? i.toNat with
      | none => refusal s .notFound
      | some x =>
        let s := s.closeSession x.id .released
        let s := match x.origin with
          | .line l => if v = 1 then s.countNuisance l else s
          | _ => s
        (s.finish, { result := .ok, payload := be16 (tenths16 x.drawn) })
  | _ => refusal s .badLength

/-- How many session records fit in `room` bytes (R104). -/
def recordsFitting : Nat → List Session → Nat
  | _, [] => 0
  | room, x :: rest =>
    if (sessionBytes x).length ≤ room then 1 + recordsFitting (room - (sessionBytes x).length) rest else 0

/-- SESSION_LIST (R104). -/
def reqSessionList (s : State) (p : List Byte) : State × Answer :=
  match p with
  | [i] =>
    if i.toNat ≤ 5 then
      let xs := s.ssc.sessions.drop i.toNat
      let xs := xs.take (recordsFitting 56 xs)
      (s, { result := .ok,
            payload := [byte s.ssc.sessions.length, byte xs.length] ++ xs.flatMap sessionBytes })
    else refusal s .badField
  | _ => refusal s .badLength

/-! ## PARK (R9) -/

/-- Steps 1 to 3 of PARK: the reserve and its remainder, the end of every mute, the flag (R9). -/
def State.parkSettings (s : State) (mAh : Nat) : State :=
  let s := { s with chm.reserve := mAh * 3600, chm.reserveRem := 0 }
  let s := lineIds.foldl (fun s l => if (s.line l).mute.isSome then s.endMute l .park else s) s
  { s with mdc.parkedFlag := true }

/-- PARK (R9). -/
def reqPark (s : State) (p : List Byte) : State × Answer :=
  match p with
  | [h, l] =>
    if s.mdc.mode = .drive || s.mdc.mode = .cutoff then refusal s .wrongMode
    else
      let s := s.parkSettings (nat16 h l)
      let s := if s.mdc.mode = .handover then s.enterParked .parkRequest else s.refreshSub.triggerPending
      okay s.evaluatePastDue.finish
  | _ => refusal s .badLength

end Sys2Proof.Machine
end

