-- ==== Sys2Proof/Machine/Time.lean ====
section
/-! DEFINITION. Elapsed time: what a lapse of n milliseconds does to every timer, and which events are due. -/

namespace Sys2Proof.Machine

/-- n ms off a timer that may be stopped. -/
def countDown (n : Nat) (t : Option Nat) : Option Nat := t.map (· - n)

/-- A domain's timer and its PG qualification (R22, R26, R28, R31). -/
def Domain.lapse (n : Nat) (x : Domain) : Domain := { x with timer := x.timer - n, pgQual := x.pgQual - n }

/-- A line's debounce interval, nuisance window and mute (R52, R61, R62). -/
def Line.lapse (n : Nat) (x : Line) : Line :=
  { x with interval := countDown n x.interval, window := countDown n x.window, mute := countDown n x.mute }

/-- A session: run time while STARTING or RUNNING, suspended-for time while SUSPENDED (R106, R120). -/
def Session.lapse (n : Nat) (x : Session) : Session :=
  if x.active then { x with elapsed := x.elapsed + n, remaining := x.remaining - n }
  else { x with suspendedFor := x.suspendedFor.map (· + n) }

/-- Does the line's window count: is its session STARTING or RUNNING (R74)? -/
def State.windowCounts (s : State) (r : Listen) : Bool :=
  match s.session? r.session with
  | some x => x.active
  | none => false

/-- A listening line's window (R74). -/
def State.approachLapse (s : State) (n : Nat) (a : Approach) : Approach :=
  { a with listen := a.listen.map (fun r => if s.windowCounts r then { r with window := r.window - n } else r) }

/-- The sample timer: an interval that has reached its period waits for its sample (R125, R126). -/
def Chm.lapse (n : Nat) (c : Chm) : Chm :=
  { c with elapsed := if c.earlyDue then c.elapsed + n else min c.period (c.elapsed + n) }

/-- The part clock's fraction; past 999 it stands until the rise of the seconds is taken (R152). -/
def Wsc.lapse (n : Nat) (w : Wsc) : Wsc :=
  if w.fraction + n ≤ 999 then { w with fraction := w.fraction + n } else { w with fraction := 999, riseDue := true }

/-- The receiver's gap timer runs within a frame and in DRAINING; "more than 2 ms" is 3 whole ms (R175). -/
def Lnk.lapse (n : Nat) (l : Lnk) : Lnk :=
  { l with gap := min 3 (l.gap + n), replyLeft := l.replyLeft - n }

/-- MDC's timers (R1, R7). -/
def Mdc.lapse (n : Nat) (m : Mdc) : Mdc :=
  { m with handoverTimer := countDown n m.handoverTimer,
           ign := { m.ign with interval := countDown n m.ign.interval },
           service := { m.service with interval := countDown n m.service.interval } }

/-- n ms pass: every running timer counts down, run times and suspended-for times count, and nothing else changes. A timer that has run
out waits for its event. While the device is held in reset only IGN's and SERVICE's 20 ms count (R14). -/
def State.lapse (s : State) (n : Nat) : State :=
  if n = 0 then s
  else if s.held then { s with mdc := s.mdc.lapse n }
  else
    { s with
      mdc := s.mdc.lapse n
      dmc := { s.dmc with domains := mapVec (Domain.lapse n) s.dmc.domains }
      wlu := { lines := mapVec (Line.lapse n) s.wlu.lines }
      apq := { recs := mapVec (s.approachLapse n) s.apq.recs }
      ssc := { s.ssc with sessions := s.ssc.sessions.map (Session.lapse n) }
      chm := s.chm.lapse n
      wsc := s.wsc.lapse n
      evq := { s.evq with pulse := countDown n s.evq.pulse }
      lnk := s.lnk.lapse n }

/-! ## The time left until each timed event; none when no such event can come -/

/-- RAMP_COMPLETE: RAMPING with PG high; the qualification's rest (R22, R26). -/
def State.leftRampComplete (s : State) (d : DomId) : Option Nat :=
  if (s.dom d).state = .ramping && (s.dom d).pgPin then some (s.dom d).pgQual else none

/-- PG_LOSS: ON or HOLDOFF with PG low; the qualification's rest (R22, R30). -/
def State.leftPgLoss (s : State) (d : DomId) : Option Nat :=
  if (s.dom d).state.live && !(s.dom d).pgPin then some (s.dom d).pgQual else none

/-- RAMP_TIMEOUT: RAMPING; the ramp timer (R27). -/
def State.leftRamp (s : State) (d : DomId) : Option Nat :=
  if (s.dom d).state = .ramping then some (s.dom d).timer else none

/-- HOLDOFF_EXPIRY: HOLDOFF, unless D0's switch-off is held and the timer has ended (R29, R35). -/
def State.leftHoldoff (s : State) (d : DomId) : Option Nat :=
  if (s.dom d).state = .holdoff && !(d == 0 && s.dmc.d0Held.isSome) then some (s.dom d).timer else none

/-- RETRY_EXPIRY: FAULT_WAIT; the retry timer (R31). -/
def State.leftRetry (s : State) (d : DomId) : Option Nat :=
  if (s.dom d).state = .faultWait then some (s.dom d).timer else none

/-- APPROACH_EXPIRED: LISTENING, its session STARTING or RUNNING; the window (R74). -/
def State.leftWindow (s : State) (l : LineId) : Option Nat :=
  match (s.approach l).listen with
  | some r => if s.windowCounts r then some r.window else none
  | none => none

/-- SESSION_RUN_EXPIRY: FULL or REDUCED, STARTING or RUNNING; the remaining run time (R106). -/
def State.leftRun (s : State) (id : Nat) : Option Nat :=
  match s.session? id with
  | some x => if x.active && x.profile != .listen then some x.remaining else none
  | none => none

/-- SUSPENSION_LIMIT_EXPIRY: SUSPENDED, its class with a limit; the rest of it (R123). -/
def State.leftSuspension (s : State) (id : Nat) : Option Nat :=
  match s.session? id with
  | some x =>
    if !x.active && (s.cls x.cls).suspensionLimit != 0 then
      some ((s.cls x.cls).suspensionLimit * 1000 - x.suspendedFor.getD 0)
    else none
  | none => none

/-- SAMPLE: the rest of the interval, unless a change of period has ended it early (R125, R126). -/
def State.leftSample (s : State) : Option Nat :=
  if s.chm.earlyDue then none else some (s.chm.period - s.chm.elapsed)

/-- PERIOD_CHANGE_SAMPLE: at once, when a change of period has ended the interval early (R126). -/
def State.leftEarly (s : State) : Option Nat := if s.chm.earlyDue then some 0 else none

/-- PART_SECOND_RISE: the rest of the second (R152). -/
def State.leftSecond (s : State) : Option Nat := some (if s.wsc.riseDue then 0 else 1000 - s.wsc.fraction)

/-- Does the gap timer run (R175)? -/
def Receiver.inFrame : Receiver → Bool
  | .dead | .hunting => false
  | .awaitLength | .body _ | .draining => true

/-- GAP_TIMEOUT: within a frame or in DRAINING; the rest of the gap (R175). -/
def State.leftGap (s : State) : Option Nat := if s.lnk.receiver.inFrame then some (3 - s.lnk.gap) else none

/-- REPLY_END: a reply is being sent; the rest of its sending (R176). -/
def State.leftReply (s : State) : Option Nat := if s.lnk.reply.isSome then some s.lnk.replyLeft else none

/-- LEAVE_RESET: held in reset; the rest of IGN's and SERVICE's 20 ms (R14). -/
def State.leftReset (s : State) : Option Nat :=
  if s.held then some (max (s.mdc.ign.interval.getD 0) (s.mdc.service.interval.getD 0)) else none

/-! ## The events that are due -/

/-- The command, if its time has come. -/
def dueNow (left : Option Nat) (c : Instr) : List Instr := if left = some 0 then [c] else []

/-- The events that are due in this millisecond, in the table's order; the closing sample of an interval that a change of period has ended
comes before every other one (R126; assumption log 37). A sample's readings are free inputs of this sample (Config). -/
def State.due (s : State) : List Instr :=
  if s.held then []
  else if s.chm.earlyDue then
    [.periodChangeSample (Config.shuntCurrent s.freeIdx) (Config.batteryVoltage s.freeIdx)]
  else
    dueNow s.leftGap .gapTimeout ++ dueNow s.leftReply .replyEnd ++
    dueNow s.mdc.ign.interval .ignDebounceEnd ++ dueNow s.mdc.service.interval .serviceDebounceEnd ++
    domIds.flatMap (fun d =>
      dueNow (s.leftRampComplete d) (.rampComplete d) ++ dueNow (s.leftPgLoss d) (.pgLoss d) ++
      dueNow (s.leftRamp d) (.rampTimeout d) ++ dueNow (s.leftHoldoff d) (.holdoffExpiry d) ++
      dueNow (s.leftRetry d) (.retryExpiry d)) ++
    lineIds.flatMap (fun l =>
      dueNow (s.line l).interval (.wlDebounceEnd l) ++ dueNow (s.line l).window (.nuisanceWindowExpiry l) ++
      dueNow (s.line l).mute (.muteExpiry l) ++ dueNow (s.leftWindow l) (.approachExpired l)) ++
    dueNow s.mdc.handoverTimer .handoverTimeout ++
    dueNow s.leftSample (.sample (Config.shuntCurrent s.freeIdx) (Config.batteryVoltage s.freeIdx)) ++
    s.ssc.sessions.flatMap (fun x =>
      dueNow (s.leftRun x.id) (.sessionRunExpiry x.id) ++ dueNow (s.leftSuspension x.id) (.suspensionLimitExpiry x.id)) ++
    dueNow s.leftSecond .partSecondRise ++ dueNow s.evq.pulse .attnPulseEnd

/-! ## The two kinds of event -/

/-- An event that comes from outside: no effect while the device is held in reset (R14); else its work and the end of the event. -/
def State.outside (s : State) (work : State → State) : Host.Outcome State Fault Refusal :=
  if s.held then .next s else .next (work s).finish

/-- An event that comes with time: none can come where `left` says so, and the device stays as it is; else the time left passes and the
event is taken (assumption log 2). -/
def State.timed (s : State) (left : Option Nat) (work : State → State) : Host.Outcome State Fault Refusal :=
  if s.held then .next s
  else match left with
    | none => .next s
    | some n => .next (work (s.lapse n)).finish

end Sys2Proof.Machine
end

