-- ==== Sys2Proof/Machine/Link.lean ====
section
/-! DEFINITION. The Link Interface: the catalogue (section 12.8), the taking of frames and notices (R177, R178), the configuration lock
(R180), the inbound queue (R176), the receiver (R175) and the end of a reply (R176, R181, R35, R172). -/

namespace Sys2Proof.Machine

/-! ## The catalogue (section 12.8) -/

/-- The payload length of each request; none for a TYPE that is not in the catalogue. -/
def requestLength (type : Byte) : Option Nat :=
  match type.toNat with
  | 0x01 => some 0 | 0x02 => some 1 | 0x08 => some 0
  | 0x10 => some 10 | 0x11 => some 1 | 0x12 => some 1
  | 0x18 => some 10 | 0x19 => some 1 | 0x1A => some 1
  | 0x20 => some 25 | 0x21 => some 1
  | 0x28 => some 10 | 0x29 => some 4
  | 0x30 => some 13 | 0x31 => some 1 | 0x32 => some 1 | 0x33 => some 4
  | 0x40 => some 2 | 0x41 => some 3 | 0x42 => some 2 | 0x43 => some 1
  | 0x50 => some 2 | 0x51 => some 2
  | 0x60 => some 5
  | 0x70 => some 0 | 0x7E => some 0 | 0x7F => some 0
  | _ => none

/-- The block that owns the request carries it out (step 6 of R177). -/
def carryOut (s : State) (type : Byte) (p : List Byte) : State × Answer :=
  match type.toNat with
  | 0x01 => reqStatusGet s p
  | 0x02 => reqEventsRead s p
  | 0x08 => reqFaultClear s p
  | 0x10 => reqDomainSet s p
  | 0x11 => reqDomainGet s p
  | 0x12 => reqDomainClearFault s p
  | 0x18 => reqLineSet s p
  | 0x19 => reqLineGet s p
  | 0x1A => reqLineUnmute s p
  | 0x20 => reqClassSet s p
  | 0x21 => reqClassGet s p
  | 0x28 => reqTierSet s p
  | 0x29 => reqMeterSet s p
  | 0x30 => reqSchedAdd s p
  | 0x31 => reqSchedCancel s p
  | 0x32 => reqSchedList s p
  | 0x33 => reqClockSet s p
  | 0x40 => reqSessionOpen s p
  | 0x41 => reqSessionExtend s p
  | 0x42 => reqSessionRelease s p
  | 0x43 => reqSessionList s p
  | 0x50 => reqPark s p
  | 0x51 => reqReserveAdjust s p
  | 0x60 => reqLinkSet s p
  | 0x70 => reqConfigLock s p
  | 0x7E => reqResetArm s p
  | 0x7F => reqResetExec s p
  | _ => refusal s .unknownType

/-- The requests refused while LINK_FAULT is set (step 4 of R177). -/
def writesTables (type : Byte) : Bool :=
  [0x10, 0x18, 0x20, 0x28, 0x29, 0x30, 0x33, 0x60, 0x70].contains type.toNat

/-- Does the configuration lock refuse the request: TIER_SET, or a write to a protected entry, while the lock is set and SERVICE is low
(R180)? -/
def State.lockRefuses (s : State) (type : Byte) (p : List Byte) : Bool :=
  s.lnk.locked && !s.mdc.service.debounced &&
  match type.toNat, p with
  | 0x28, _ => true
  | 0x10, i :: _ => match readDom i with | some d => (s.dom d).entry.guarded | none => false
  | 0x18, i :: _ => match readLine i with | some l => (s.line l).entry.guarded | none => false
  | 0x20, i :: _ => match readClass i with | some c => (s.cls c).guarded | none => false
  | _, _ => false

/-! ## Replies -/

/-- The STATUS byte: mode, tier, queue not empty, LINK_FAULT, OVERRUN, lock (section 12.9). -/
def State.statusByte (s : State) : Byte :=
  byte (s.mdc.mode.code * 64 + s.btm.tier.code * 16 + bit (!s.evq.events.isEmpty) 8 + bit s.lnk.linkFault 4 +
    bit s.lnk.overrun 2 + bit s.lnk.locked 1)

/-- Form a reply and begin to send it; OVERRUN is shown in it and cleared (R176, R177). -/
def State.sendReply (s : State) (type : Byte) (a : Answer) : State :=
  let f := replyFrame type s.statusByte a.result a.payload
  { s with lnk.reply := some f, lnk.replyLeft := sendingMs f, lnk.overrun := false }

/-- The payload of a request refused before its owner sees it: SESSION_OPEN and SESSION_EXTEND always carry theirs (R177). -/
def refusedPayload (type : Byte) : List Byte := if type = 0x40 || type = 0x41 then [0, 0, 0, 0, 0, 0] else []

/-! ## Taking a frame (R177) and a notice (R178) -/

/-- Steps 3 to 6 of R177. -/
def State.answerFrame (s : State) (type : Byte) (p : List Byte) : State × Answer :=
  match requestLength type with
  | none => refusal s .unknownType
  | some n =>
    if p.length ≠ n then (s, { result := .badLength, payload := refusedPayload type })
    else if s.lnk.linkFault && writesTables type then (s, { result := .linkFault, payload := refusedPayload type })
    else if s.lockRefuses type p then (s, { result := .locked, payload := refusedPayload type })
    else carryOut s type p

/-- LNK takes a good frame: an armed RESET_EXEC is ACCEPTED and software reset follows at the end of its reply (R181); any other frame
clears the arm flag and the frame-error counter and is answered (R177). A reply counts as in progress from the taking on (R9, R35). -/
def State.takeFrame (s : State) (type : Byte) (p : List Byte) : State :=
  let s := { s with lnk.reply := some [] }
  if s.lnk.armed && type = 0x7F && p.isEmpty then
    { s with lnk.armed := false, lnk.resetDue := true }.sendReply 0xFF { result := .accepted, payload := [] }
  else
    let q := { s with lnk.armed := false, lnk.frameErrors := 0 }.answerFrame type p
    q.1.sendReply (type + 0x80) q.2

/-- LNK takes a frame-error notice: the arm flag is cleared, the 0xFF reply formed, the counter raised, and LINK_FAULT set and recorded
when the counter reaches the limit (R178, R165); the record starts a pulse only where the attention condition held before the flag was
set (R172). -/
def State.takeNotice (s : State) (e : FrameError) : State :=
  let s := { s with lnk.armed := false }.sendReply 0xFF { result := FrameErrorResult e, payload := [] }
  let n := min 255 (s.lnk.frameErrors + 1)
  let s := { s with lnk.frameErrors := n }
  if decide (s.lnk.limit ≤ n) && !s.lnk.linkFault then
    { s.record .linkFault (FrameErrorResult e).code s.lnk.limit (some n) with lnk.linkFault := true }.refreshAttn.endEvent
  else s

/-! ## The inbound queue (R176) -/

/-- An arrival takes a free place, or is discarded with OVERRUN (R176). -/
def State.arrive (s : State) (e : Inbound) : State :=
  if s.lnk.inbound.length < 2 then { s with lnk.inbound := s.lnk.inbound ++ [e] } else { s with lnk.overrun := true }

/-- LNK takes the oldest entry whenever no reply is being sent (R176). -/
def State.takeNext (s : State) : State :=
  if s.lnk.reply.isSome then s
  else match s.lnk.inbound with
    | [] => s
    | .frame t p :: rest => { s with lnk.inbound := rest }.takeFrame t p
    | .notice e :: rest => { s with lnk.inbound := rest }.takeNotice e

/-- Is the link live (R182)? -/
def State.linkLive (s : State) : Bool := (s.dom 0).state.live

/-- A frame or notice comes to the inbound queue, and LNK serves the queue; while the link is not live nothing is received (R182). -/
def State.receive (s : State) (e : Inbound) : State := if s.linkLive then (s.arrive e).takeNext else s

/-- A host request with this TYPE and payload reaches the device as a good frame. -/
def linkRequest (type : Byte) (p : List Byte) (s : State) : Host.Outcome State Fault Refusal :=
  if 48 < p.length then .refused .illFormed
  else if s.held then .next s
  else .next (s.receive (.frame type p))

/-! ## The receiver (R175) -/

/-- The state with the receiver in this state and the gap timer started again. -/
def State.setReceiver (s : State) (r : Receiver) : State := { s with lnk.receiver := r, lnk.gap := 0 }

/-- A complete frame: kept = LEN, TYPE, payload, CHECK. A good one is handed to the inbound queue, another forms FRAME_CRC (R174,
R175). -/
def completeFrame (kept : List Byte) : Inbound :=
  match kept with
  | len :: type :: rest =>
    if checkByte (len :: type :: rest.dropLast) = rest.getLastD 0 then .frame type rest.dropLast else .notice .crc
  | _ => .notice .crc

/-- A byte kept in BODY; the CHECK byte is LEN + 2 bytes after LEN (R175). -/
def State.bodyByte (s : State) (kept : List Byte) : State :=
  if kept.length = (kept.headD 0).toNat + 3 then (s.setReceiver .hunting).receive (completeFrame kept)
  else s.setReceiver (.body kept)

/-- A byte arriving at LRX (R175). -/
def State.lrx (s : State) (b : Byte) : State :=
  match s.lnk.receiver with
  | .dead => s
  | .hunting => if b = 0xC3 then s.setReceiver .awaitLength else s
  | .awaitLength => if b.toNat ≤ 48 then s.setReceiver (.body [b]) else (s.setReceiver .draining).receive (.notice .length)
  | .body kept => s.bodyByte (kept ++ [b])
  | .draining => s.setReceiver .draining

/-- The gap timer expires (R175). -/
def State.gapExpired (s : State) : State :=
  match s.lnk.receiver with
  | .dead | .hunting => s
  | .awaitLength | .body _ => (s.setReceiver .hunting).receive (.notice .timeout)
  | .draining => s.setReceiver .hunting

/-! ## The end of a reply -/

/-- The end of a reply reported to DMC: D0's held switch-off is carried out if its cause still stands (R35). -/
def State.releaseD0 (s : State) : State :=
  let t := { s with dmc.d0Held := none }
  if s.heldStands then (t.enterOff 0).demandChanged else t

/-- The end of a reply reported to EVQ: an EVENTS_READ that left records starts a pulse in PULSE mode (R172). DESIGN CHOICE: only while
the attention condition holds, which R172's cause does not say (assumption log 39). -/
def State.pulseAfterRead (s : State) : State :=
  let p := s.evq.readPulse && s.evq.attnMode = .pulse && s.attention
  let s := { s with evq.readPulse := false }
  if p then s.startPulse else s

/-- No reply is being sent any more. -/
def State.clearReply (s : State) : State := { s with lnk.reply := none, lnk.replyLeft := 0, lnk.resetDue := false }

/-- The last byte of a reply has been sent: software reset if the reply was RESET_EXEC's (R181), the reports to DMC and EVQ, and the
end of the event (R176). Until the report D0's switch-off stays held (R35), so the reset keeps D0 on (R15). -/
def State.replySent (s : State) : State :=
  let s := if s.lnk.resetDue then s.softwareReset else s
  s.clearReply.releaseD0.pulseAfterRead.finish

end Sys2Proof.Machine
end

