-- ==== Sys2Proof/Machine/DomainEvents.lean ====
section
/-! DEFINITION. The meanings of the domains' own events: a ramp's end (R26, R27), power-good lost (R30), hold-off and retry (R29, R31). -/

namespace Sys2Proof.Machine

open Host (Outcome)

/-- RAMP_COMPLETE (R26). -/
def execRampComplete (d : DomId) (s : State) : Outcome State Fault Refusal :=
  s.timed (s.leftRampComplete d) (fun s => (s.rampDone d).demandChanged)

/-- PG_LOSS (R30); a loss on D0 that cuts the reply to RESET_EXEC short is followed by the software reset (R181). -/
def execPgLoss (d : DomId) (s : State) : Outcome State Fault Refusal :=
  s.timed (s.leftPgLoss d) (fun s =>
    let s := (s.pgLost d).demandChanged
    if s.lnk.resetDue && s.lnk.reply.isNone then s.softwareReset else s)

/-- RAMP_TIMEOUT (R27). -/
def execRampTimeout (d : DomId) (s : State) : Outcome State Fault Refusal :=
  s.timed (s.leftRamp d) (fun s => (s.rampFailed d).demandChanged)

/-- HOLDOFF_EXPIRY (R29); D0's is held while a reply is sent (R35). -/
def execHoldoffExpiry (d : DomId) (s : State) : Outcome State Fault Refusal :=
  s.timed (s.leftHoldoff d) (fun s => (s.powerOff d .demandGone).demandChanged)

/-- RETRY_EXPIRY (R31). -/
def execRetryExpiry (d : DomId) (s : State) : Outcome State Fault Refusal :=
  s.timed (s.leftRetry d) (fun s => (s.enterQueued d).demandChanged)

end Sys2Proof.Machine
end

