-- ==== Sys2Proof/Machine/HostRequests.lean ====
section
/-! DEFINITION. The meanings of the host's requests: each is a good frame of its TYPE (section 12.8) reaching LNK (R176, R177); the
request's own work is the `req…` of Machine/Requests.lean. -/

namespace Sys2Proof.Machine

open Host (Outcome)

/-- STATUS_GET (R184). -/
def execStatusGet (p : List Byte) (s : State) : Outcome State Fault Refusal := linkRequest 0x01 p s

/-- EVENTS_READ (R169). -/
def execEventsRead (p : List Byte) (s : State) : Outcome State Fault Refusal := linkRequest 0x02 p s

/-- FAULT_CLEAR (R178). -/
def execFaultClear (p : List Byte) (s : State) : Outcome State Fault Refusal := linkRequest 0x08 p s

/-- DOMAIN_SET (R17, R18). -/
def execDomainSet (p : List Byte) (s : State) : Outcome State Fault Refusal := linkRequest 0x10 p s

/-- DOMAIN_GET (R19). -/
def execDomainGet (p : List Byte) (s : State) : Outcome State Fault Refusal := linkRequest 0x11 p s

/-- DOMAIN_CLEAR_FAULT (R34). -/
def execDomainClearFault (p : List Byte) (s : State) : Outcome State Fault Refusal := linkRequest 0x12 p s

/-- LINE_SET (R49, R50). -/
def execLineSet (p : List Byte) (s : State) : Outcome State Fault Refusal := linkRequest 0x18 p s

/-- LINE_GET (R51). -/
def execLineGet (p : List Byte) (s : State) : Outcome State Fault Refusal := linkRequest 0x19 p s

/-- LINE_UNMUTE (R64). -/
def execLineUnmute (p : List Byte) (s : State) : Outcome State Fault Refusal := linkRequest 0x1A p s

/-- CLASS_SET (R80, R81). -/
def execClassSet (p : List Byte) (s : State) : Outcome State Fault Refusal := linkRequest 0x20 p s

/-- CLASS_GET (R82). -/
def execClassGet (p : List Byte) (s : State) : Outcome State Fault Refusal := linkRequest 0x21 p s

/-- TIER_SET (R142). -/
def execTierSet (p : List Byte) (s : State) : Outcome State Fault Refusal := linkRequest 0x28 p s

/-- METER_SET (R137). -/
def execMeterSet (p : List Byte) (s : State) : Outcome State Fault Refusal := linkRequest 0x29 p s

/-- SCHED_ADD (R155). -/
def execSchedAdd (p : List Byte) (s : State) : Outcome State Fault Refusal := linkRequest 0x30 p s

/-- SCHED_CANCEL (R156). -/
def execSchedCancel (p : List Byte) (s : State) : Outcome State Fault Refusal := linkRequest 0x31 p s

/-- SCHED_LIST (R157). -/
def execSchedList (p : List Byte) (s : State) : Outcome State Fault Refusal := linkRequest 0x32 p s

/-- CLOCK_SET (R153). -/
def execClockSet (p : List Byte) (s : State) : Outcome State Fault Refusal := linkRequest 0x33 p s

/-- SESSION_OPEN (R84). -/
def execSessionOpen (p : List Byte) (s : State) : Outcome State Fault Refusal := linkRequest 0x40 p s

/-- SESSION_EXTEND (R114, R115). -/
def execSessionExtend (p : List Byte) (s : State) : Outcome State Fault Refusal := linkRequest 0x41 p s

/-- SESSION_RELEASE (R116). -/
def execSessionRelease (p : List Byte) (s : State) : Outcome State Fault Refusal := linkRequest 0x42 p s

/-- SESSION_LIST (R104). -/
def execSessionList (p : List Byte) (s : State) : Outcome State Fault Refusal := linkRequest 0x43 p s

/-- PARK (R9). -/
def execPark (p : List Byte) (s : State) : Outcome State Fault Refusal := linkRequest 0x50 p s

/-- RESERVE_ADJUST (R138). -/
def execReserveAdjust (p : List Byte) (s : State) : Outcome State Fault Refusal := linkRequest 0x51 p s

/-- LINK_SET (R179). -/
def execLinkSet (p : List Byte) (s : State) : Outcome State Fault Refusal := linkRequest 0x60 p s

/-- CONFIG_LOCK (R180). -/
def execConfigLock (p : List Byte) (s : State) : Outcome State Fault Refusal := linkRequest 0x70 p s

/-- RESET_ARM (R181). -/
def execResetArm (p : List Byte) (s : State) : Outcome State Fault Refusal := linkRequest 0x7E p s

/-- RESET_EXEC (R181). -/
def execResetExec (p : List Byte) (s : State) : Outcome State Fault Refusal := linkRequest 0x7F p s

/-- A good frame whose TYPE is not in the catalogue (R177 step 3). -/
def execUnknownTypeFrame (type : Byte) (p : List Byte) (s : State) : Outcome State Fault Refusal :=
  if (requestLength type).isSome then .refused .illFormed else linkRequest type p s

end Sys2Proof.Machine
end

