-- ==== Sys2Proof/Machine/LinkEvents.lean ====
section
/-! DEFINITION. The meanings of the link's own events: a notice (R178), a byte at LRX and the gap timer (R175), the end of a reply
(R176). While the device is held in reset they have no effect (R14). -/

namespace Sys2Proof.Machine

open Host (Outcome)

/-- FRAME_ERROR_NOTICE: a notice reaches the inbound queue and LNK serves it (R176, R178). -/
def execFrameErrorNotice (e : FrameError) (s : State) : Outcome State Fault Refusal :=
  if s.held then .next s else .next (s.receive (.notice e))

/-- LRX_BYTE (R175). -/
def execLrxByte (b : Byte) (s : State) : Outcome State Fault Refusal :=
  if s.held then .next s else .next (s.lrx b)

/-- GAP_TIMEOUT (R175). -/
def execGapTimeout (s : State) : Outcome State Fault Refusal :=
  if s.held then .next s
  else match s.leftGap with
    | none => .next s
    | some n => .next (s.lapse n).gapExpired

/-- REPLY_END: the reply's end, and then the taking of the next entry (R176). -/
def execReplyEnd (s : State) : Outcome State Fault Refusal :=
  if s.held then .next s
  else match s.leftReply with
    | none => .next s
    | some n => .next (s.lapse n).replySent.takeNext

end Sys2Proof.Machine
end

