-- ==== Sys2Proof/Machine/PinEvents.lean ====
section
/-! DEFINITION. The meanings of the events at the pins: IGN and SERVICE (R1), the supply (R14), the PG inputs (R22), the wake lines (R52). A
pin's level is followed while the device is held in reset; no other effect comes then (R14). -/

namespace Sys2Proof.Machine

open Host (Outcome)

/-- IGN_LEVEL_CHANGE (R1; held in reset: R14). -/
def execIgnLevelChange (high : Bool) (s : State) : Outcome State Fault Refusal :=
  .next { s with mdc.ign := if s.held then s.mdc.ign.pinChangeHeld high else s.mdc.ign.pinChange high }

/-- SERVICE_LEVEL_CHANGE (R1; held in reset: R14). -/
def execServiceLevelChange (high : Bool) (s : State) : Outcome State Fault Refusal :=
  .next { s with mdc.service := if s.held then s.mdc.service.pinChangeHeld high else s.mdc.service.pinChange high }

/-- The IGN interval ends; a changed debounced state is handed on at once (R1). -/
def State.ignSettles (s : State) : State :=
  let before := s.mdc.ign.debounced
  let s := { s with mdc.ign := s.mdc.ign.settled }
  if s.mdc.ign.debounced = before then s else s.ignChanged s.mdc.ign.debounced

/-- IGN_DEBOUNCE_END (R1, R4, R6). -/
def execIgnDebounceEnd (s : State) : Outcome State Fault Refusal := s.timed s.mdc.ign.interval State.ignSettles

/-- SERVICE_DEBOUNCE_END: the lock reads the new state from the next request on (R1, R180). -/
def execServiceDebounceEnd (s : State) : Outcome State Fault Refusal :=
  s.timed s.mdc.service.interval (fun s => { s with mdc.service := s.mdc.service.settled })

/-- POWER_ON_RESET (R14). -/
def execPowerOnReset (s : State) : Outcome State Fault Refusal := .next s.holdInReset

/-- LEAVE_RESET: the rest of the 20 ms passes, every block takes its power-on values, and the mode's hold queues D0 (R14, R47). -/
def execLeaveReset (s : State) : Outcome State Fault Refusal :=
  match s.leftReset with
  | none => .next s
  | some n => .next (s.lapse n).powerOn.finish

/-- A PG input takes a level: its 1 ms qualification begins, or, back at the level taken before, ends (R22). -/
def Domain.pgChange (x : Domain) (high : Bool) : Domain :=
  if high = x.pgPin then x else { x with pgPin := high, pgQual := if x.pgQual = 0 then 1 else 0 }

/-- PG_PIN_CHANGE (R22). -/
def execPgPinChange (d : DomId) (high : Bool) (s : State) : Outcome State Fault Refusal :=
  .next (s.updDom d (fun x => if s.held then { x with pgPin := high } else x.pgChange high))

/-- A wake line's pin takes a level: with debounce 0 a stable change at once, else the interval starts or starts again (R52). DESIGN
CHOICE: on a line with debounce 0 a return of the pin to the debounced level is no stable change, and ends an interval that an earlier
debounce had started (assumption log 38). -/
def State.wlChange (s : State) (l : LineId) (high : Bool) : State :=
  let x := s.line l
  if high = x.pin then s
  else if x.entry.debounce = 0 then
    let s := s.updLine l (fun x => { x with pin := high, interval := none })
    if high = x.debounced then s else s.stableChange l high
  else
    s.updLine l (fun x =>
      { x with pin := high,
               interval := if x.interval.isSome || high != x.debounced then some x.entry.debounce else none })

/-- WL_PIN_CHANGE (R52). -/
def execWlPinChange (l : LineId) (high : Bool) (s : State) : Outcome State Fault Refusal :=
  if s.held then .next (s.updLine l (fun x => { x with pin := high })) else s.outside (fun s => s.wlChange l high)

/-- A wake line's interval ends; a level that differs from the debounced one is a stable change (R52). -/
def State.wlSettles (s : State) (l : LineId) : State :=
  let x := s.line l
  let s := s.updLine l (fun x => { x with interval := none })
  if x.pin = x.debounced then s else s.stableChange l x.pin

/-- WL_DEBOUNCE_END (R52). -/
def execWlDebounceEnd (l : LineId) (s : State) : Outcome State Fault Refusal :=
  s.timed (s.line l).interval (fun s => s.wlSettles l)

end Sys2Proof.Machine
end

