-- ==== Sys2Proof/Machine/TimedEvents.lean ====
section
/-! DEFINITION. The meanings of the other timed events: nuisance windows and mutes (R61, R63), listen windows (R75, R76), the handover
timer (R7), samples (R126, R128), session times (R106, R123), the part clock (R152) and the ATTN pulse (R172). -/

namespace Sys2Proof.Machine

open Host (Outcome)

/-- NUISANCE_WINDOW_EXPIRY (R61). -/
def execNuisanceWindowExpiry (l : LineId) (s : State) : Outcome State Fault Refusal :=
  s.timed (s.line l).window (fun s => s.updLine l (fun x => { x with window := none, nuisance := 0 }))

/-- MUTE_EXPIRY (R63, cause EXPIRED). -/
def execMuteExpiry (l : LineId) (s : State) : Outcome State Fault Refusal :=
  s.timed (s.line l).mute (fun s => s.endMute l .expired)

/-- APPROACH_EXPIRED (R75, R76). -/
def execApproachExpired (l : LineId) (s : State) : Outcome State Fault Refusal :=
  s.timed (s.leftWindow l) (fun s =>
    match (s.approach l).listen with
    | some r => s.windowExpired l r
    | none => s)

/-- HANDOVER_TIMEOUT (R7, R8). -/
def execHandoverTimeout (s : State) : Outcome State Fault Refusal :=
  s.timed s.mdc.handoverTimer (fun s => s.enterParked .handoverTimeout)

/-- SAMPLE: the interval in progress ends at the period in force (R125, R128). -/
def execSample (current voltage : Int) (s : State) : Outcome State Fault Refusal :=
  s.timed s.leftSample (fun s => s.sampleWork current voltage s.chm.period)

/-- PERIOD_CHANGE_SAMPLE: its P is the time elapsed in the interval that the change ended (R126). -/
def execPeriodChangeSample (current voltage : Int) (s : State) : Outcome State Fault Refusal :=
  s.timed s.leftEarly (fun s => s.sampleWork current voltage s.chm.elapsed)

/-- SESSION_RUN_EXPIRY (R106). -/
def execSessionRunExpiry (id : Nat) (s : State) : Outcome State Fault Refusal :=
  s.timed (s.leftRun id) (fun s => s.closeSession id .expired)

/-- SUSPENSION_LIMIT_EXPIRY (R123). -/
def execSuspensionLimitExpiry (id : Nat) (s : State) : Outcome State Fault Refusal :=
  s.timed (s.leftSuspension id) (fun s => s.closeSession id .expired)

/-- PART_SECOND_RISE (R152). -/
def execPartSecondRise (s : State) : Outcome State Fault Refusal := s.timed s.leftSecond State.secondRises

/-- ATTN_PULSE_END: ATTN takes the level that the condition gives (R172). -/
def execAttnPulseEnd (s : State) : Outcome State Fault Refusal :=
  s.timed s.evq.pulse (fun s => { s with evq.pulse := none })

end Sys2Proof.Machine
end

