-- ==== Sys2Proof/Machine/Dispatch.lean ====
section
/-! DEFINITION. One arm per command: each is one call of its meaning. -/

namespace Sys2Proof.Machine

/-- The effect of one command on everything but the queue of waiting commands. -/
def exec (i : Instr) (s : State) : Host.Outcome State Fault Refusal :=
  match i with
  | .statusGet p => Sys2Proof.Machine.execStatusGet p s
  | .eventsRead p => Sys2Proof.Machine.execEventsRead p s
  | .faultClear p => Sys2Proof.Machine.execFaultClear p s
  | .domainSet p => Sys2Proof.Machine.execDomainSet p s
  | .domainGet p => Sys2Proof.Machine.execDomainGet p s
  | .domainClearFault p => Sys2Proof.Machine.execDomainClearFault p s
  | .lineSet p => Sys2Proof.Machine.execLineSet p s
  | .lineGet p => Sys2Proof.Machine.execLineGet p s
  | .lineUnmute p => Sys2Proof.Machine.execLineUnmute p s
  | .classSet p => Sys2Proof.Machine.execClassSet p s
  | .classGet p => Sys2Proof.Machine.execClassGet p s
  | .tierSet p => Sys2Proof.Machine.execTierSet p s
  | .meterSet p => Sys2Proof.Machine.execMeterSet p s
  | .schedAdd p => Sys2Proof.Machine.execSchedAdd p s
  | .schedCancel p => Sys2Proof.Machine.execSchedCancel p s
  | .schedList p => Sys2Proof.Machine.execSchedList p s
  | .clockSet p => Sys2Proof.Machine.execClockSet p s
  | .sessionOpen p => Sys2Proof.Machine.execSessionOpen p s
  | .sessionExtend p => Sys2Proof.Machine.execSessionExtend p s
  | .sessionRelease p => Sys2Proof.Machine.execSessionRelease p s
  | .sessionList p => Sys2Proof.Machine.execSessionList p s
  | .park p => Sys2Proof.Machine.execPark p s
  | .reserveAdjust p => Sys2Proof.Machine.execReserveAdjust p s
  | .linkSet p => Sys2Proof.Machine.execLinkSet p s
  | .configLock p => Sys2Proof.Machine.execConfigLock p s
  | .resetArm p => Sys2Proof.Machine.execResetArm p s
  | .resetExec p => Sys2Proof.Machine.execResetExec p s
  | .unknownTypeFrame t p => Sys2Proof.Machine.execUnknownTypeFrame t p s
  | .frameErrorNotice e => Sys2Proof.Machine.execFrameErrorNotice e s
  | .lrxByte b => Sys2Proof.Machine.execLrxByte b s
  | .gapTimeout => Sys2Proof.Machine.execGapTimeout s
  | .replyEnd => Sys2Proof.Machine.execReplyEnd s
  | .ignLevelChange h => Sys2Proof.Machine.execIgnLevelChange h s
  | .ignDebounceEnd => Sys2Proof.Machine.execIgnDebounceEnd s
  | .serviceLevelChange h => Sys2Proof.Machine.execServiceLevelChange h s
  | .serviceDebounceEnd => Sys2Proof.Machine.execServiceDebounceEnd s
  | .powerOnReset => Sys2Proof.Machine.execPowerOnReset s
  | .leaveReset => Sys2Proof.Machine.execLeaveReset s
  | .pgPinChange d h => Sys2Proof.Machine.execPgPinChange d h s
  | .rampComplete d => Sys2Proof.Machine.execRampComplete d s
  | .pgLoss d => Sys2Proof.Machine.execPgLoss d s
  | .rampTimeout d => Sys2Proof.Machine.execRampTimeout d s
  | .holdoffExpiry d => Sys2Proof.Machine.execHoldoffExpiry d s
  | .retryExpiry d => Sys2Proof.Machine.execRetryExpiry d s
  | .wlPinChange l h => Sys2Proof.Machine.execWlPinChange l h s
  | .wlDebounceEnd l => Sys2Proof.Machine.execWlDebounceEnd l s
  | .nuisanceWindowExpiry l => Sys2Proof.Machine.execNuisanceWindowExpiry l s
  | .muteExpiry l => Sys2Proof.Machine.execMuteExpiry l s
  | .approachExpired l => Sys2Proof.Machine.execApproachExpired l s
  | .handoverTimeout => Sys2Proof.Machine.execHandoverTimeout s
  | .sample current voltage => Sys2Proof.Machine.execSample current voltage s
  | .periodChangeSample current voltage => Sys2Proof.Machine.execPeriodChangeSample current voltage s
  | .sessionRunExpiry id => Sys2Proof.Machine.execSessionRunExpiry id s
  | .suspensionLimitExpiry id => Sys2Proof.Machine.execSuspensionLimitExpiry id s
  | .partSecondRise => Sys2Proof.Machine.execPartSecondRise s
  | .attnPulseEnd => Sys2Proof.Machine.execAttnPulseEnd s

end Sys2Proof.Machine
end

