-- ==== Sys2Proof/Machine/Idle.lean ====
section
/-! DEFINITION. What the device does when no command waits (assumption log 3). -/

namespace Sys2Proof.Machine

/-- The event taken among those that are due in the same millisecond: any of them, by the free value `Config.tieBreak` (the manual: "either
may be taken first"). -/
def State.choose (s : State) (c : Instr) (rest : List Instr) : Instr :=
  match rest with
  | [] => c
  | _ => (c :: rest).getD (Config.tieBreak s.freeIdx % (rest.length + 1)) c

/-- With no command waiting the device takes one event that is due, or, when none is due, 1 ms passes. -/
def State.idle (s : State) : Host.Outcome State Fault Refusal :=
  match s.due with
  | [] => .next (s.lapse 1)
  | c :: rest => exec (s.choose c rest) { s with freeIdx := s.freeIdx + 1 }

/-- The state with a command put at the front of its queue; unchanged where there is none. -/
def State.pushFront (s : State) (c : Option Instr) : State :=
  match c with
  | some i => { s with pending := i :: s.pending }
  | none => s

end Sys2Proof.Machine
end

