-- ==== Sys2Proof/Machine/Step.lean ====
section
/-! DEFINITION. One step of the device: the command at the front of the queue, or, with none waiting, the passing of time. -/

namespace Sys2Proof.Machine

/-- Take the command at the front of the queue and carry it out on the state with the queue's rest; with an empty queue a due event is
taken or 1 ms passes (assumption log 3). -/
def step (s : State) : Host.Outcome State Fault Refusal :=
  match s.pending with
  | c :: rest => exec c { s with pending := rest }
  | [] => s.idle

/-- The state with the command that the word spells at the front of its queue; unchanged where the word spells none (no row of the
opcode table has bits). -/
def State.withFetchWord (s : State) (nbits w : Nat) : State := s.pushFront (decodeTableWord nbits w)

end Sys2Proof.Machine
end

