-- ==== Sys2Proof/Safety.lean ====
section
/-! DEFINITION. What a sound state of the device is: the invariants that the manual states of its blocks, in the terms the claims use. -/

namespace Sys2Proof.Machine

/-! ## Modes, holds, tier (chapters 1 and 9) -/

/-- The mode and what goes with it: each hold is present in its modes (R2), DRIVE stands exactly while the debounced IGN is high (R1, R4,
R6), the handover timer runs in HANDOVER only (R7), and outside DRIVE the mode is CUTOFF exactly while the tier is (R148). -/
structure ModeSound (s : State) : Prop where
  drive : s.mdc.driveHold = true ↔ s.mdc.mode = .drive
  handover : s.mdc.handoverHold = true ↔ s.mdc.mode = .handover
  always : s.mdc.alwaysHold = true ↔ s.mdc.mode ≠ .cutoff
  ignition : s.mdc.mode = .drive ↔ s.mdc.ign.debounced = true
  timer : s.mdc.handoverTimer.isSome = true → s.mdc.mode = .handover
  tier : s.mdc.mode ≠ .drive → (s.mdc.mode = .cutoff ↔ s.btm.tier = .cutoff)

/-! ## Ranges of the counted quantities -/

/-- The quantities stand in their ranges: reserve and remainder (R129), readings (R127), I_q and F (R137), part time (R152), the link's
and the handover settings (R179), the tier settings and counters (R141, R142), and each line's nuisance counter (R60), muted-trigger
count (R62) and repeat count (R69). -/
structure RangesSound (s : State) : Prop where
  reserve : s.chm.reserve ≤ 235926000
  remainder : s.chm.reserveRem ≤ 999
  current : s.chm.current ≤ 65535
  voltage : s.chm.voltage ≤ 20000
  baseline : s.chm.baseline ≤ 2000
  floor : s.chm.floorMah ≤ 65535
  seconds : s.wsc.seconds ≤ 4294967295
  fraction : s.wsc.fraction ≤ 999
  limit : 1 ≤ s.lnk.limit ∧ s.lnk.limit ≤ 15
  timeout : 10 ≤ s.mdc.handoverTimeout ∧ s.mdc.handoverTimeout ≤ 600
  thresholds : 8000 ≤ s.btm.cutoff ∧ s.btm.cutoff < s.btm.critical ∧ s.btm.critical < s.btm.conserve ∧ s.btm.conserve ≤ 15000
  hysteresis : 50 ≤ s.btm.hysteresis ∧ s.btm.hysteresis ≤ 1000
  fall : s.btm.fall < s.btm.fallConfirm ∧ s.btm.fallConfirm ≤ 32
  rise : s.btm.rise < s.btm.riseConfirm ∧ s.btm.riseConfirm ≤ 255
  lines : ∀ l, (s.line l).nuisance ≤ 15 ∧ (s.line l).mutedTriggers ≤ 65535
  repeats : ∀ l, (s.approach l).repeats ≤ 65535

/-! ## Domains and the Ramp Arbiter (chapters 2 and 3) -/

/-- Does the state run a timer (section 2.3)? -/
def DomState.timed : DomState → Bool
  | .ramping | .holdoff | .faultWait => true
  | _ => false

/-- One domain: EN follows the state (R22), a timer runs in RAMPING, HOLDOFF and FAULT_WAIT only, the attempt count is at most 3, is 3
in LATCHED only and 0 in OFF (R24, R27, R36). -/
structure DomainSound (x : Domain) : Prop where
  en : x.en = x.state.enOn
  timer : x.state.timed = false → x.timer = 0
  attempts : x.attempts ≤ 3
  latched : x.attempts = 3 → x.state = .latched
  off : x.state = .off → x.attempts = 0

/-- DMC and RMP: every domain sound; a slot is held by exactly the RAMPING domains, each holding one (R39); the Ramp Queue holds exactly
the QUEUED domains, each once (R40). -/
structure RampSound (s : State) : Prop where
  domains : ∀ d, DomainSound (s.dom d)
  slots : ∀ d, (s.dom d).state = .ramping ↔ (s.rmp.slotA = some d ∨ s.rmp.slotB = some d)
  apart : ∀ d, s.rmp.slotA = some d → s.rmp.slotB ≠ some d
  queued : ∀ d, (s.dom d).state = .queued ↔ d ∈ s.rmp.queue
  once : s.rmp.queue.Nodup

/-- The tree: a parent has a lower index (R16), and every ancestor of an enabled domain is enabled (R17). -/
def TreeSound (s : State) : Prop :=
  ∀ d p, (s.dom d).entry.parent = some p → p < d ∧ ((s.dom d).entry.enabled = true → (s.dom p).entry.enabled = true)

/-- Every domain's state agrees with its demand after every event. A parent is ON under a RAMPING, ON or HOLDOFF child (R23); an OFF domain
is not demanded, or, in CUTOFF, by no session (R24); a QUEUED or FAULT_WAIT domain is demanded (R24, R31); an ON domain is demanded and a
HOLDOFF one is not (R28, R29), D0 apart while its switch-off is held (R35), which it is in ON or HOLDOFF only, while a reply is being sent,
while its cause stands (assumption log 15), and with no powered child (R33); in CUTOFF a demanded domain that is neither OFF nor LATCHED is
demanded by a session (R32); and both slots are held, or every queued domain waits for its parent (R42, R43). While the device is held in
reset no hold is placed yet. -/
structure DemandSound (s : State) : Prop where
  parents : ∀ d p, (s.dom d).entry.parent = some p → (s.dom d).state.enOn = true → (s.dom p).state = .on
  off : s.held = false → ∀ d, (s.dom d).state = .off → s.demand d = 0 ∨ (s.mdc.mode = .cutoff ∧ s.sessionDemands d = false)
  waiting : ∀ d, (s.dom d).state = .queued ∨ (s.dom d).state = .faultWait → s.demand d ≠ 0
  on : ∀ d, (s.dom d).state = .on → s.demand d ≠ 0 ∨ (d = 0 ∧ s.dmc.d0Held ≠ none)
  holdoff : ∀ d, (s.dom d).state = .holdoff → s.demand d = 0 ∨ (d = 0 ∧ s.dmc.d0Held = some .forced)
  cutoff : s.mdc.mode = .cutoff → ∀ d, (s.dom d).state ≠ .off → (s.dom d).state ≠ .latched → s.demand d ≠ 0 →
    s.sessionDemands d = true ∨ (d = 0 ∧ s.dmc.d0Held ≠ none)
  heldBack : s.dmc.d0Held ≠ none → (s.dom 0).state.live = true
  heldCause : s.dmc.d0Held ≠ none → s.heldStands = true ∧ s.lnk.reply.isSome = true
  heldAlone : s.dmc.d0Held ≠ none → ∀ d, (s.dom d).entry.parent = some 0 → (s.dom d).state.enOn = false
  granted : s.rmp.slotA = none ∨ s.rmp.slotB = none → ∀ d ∈ s.rmp.queue, ∃ p, (s.dom d).entry.parent = some p ∧ (s.dom p).state ≠ .on

/-! ## The Session Table (chapter 7) -/

/-- The Session Table: at most 6 sessions, no two with one id or one class, at most one SUSPENDED, ids from 1 to 255, remainders from 0 to
999 (R101, R102). -/
structure SessionsSound (s : State) : Prop where
  count : s.ssc.sessions.length ≤ 6
  ids : (s.ssc.sessions.map Session.id).Nodup
  classes : (s.ssc.sessions.map Session.cls).Nodup
  suspended : (s.ssc.sessions.filter (fun x => !x.active)).length ≤ 1
  idRange : ∀ x ∈ s.ssc.sessions, 1 ≤ x.id ∧ x.id ≤ 255
  next : 1 ≤ s.ssc.nextId ∧ s.ssc.nextId ≤ 255
  remainder : ∀ x ∈ s.ssc.sessions, x.drawnRem ≤ 999

/-! ## Schedule, Event Queue, link (chapters 10 to 12) -/

/-- The Schedule: at most 16 entries, in the order of due time and id, no two with one id (R154). -/
structure ScheduleSound (s : State) : Prop where
  count : s.wsc.sched.length ≤ 16
  order : s.wsc.sched.Pairwise (fun a b => a.due < b.due ∨ (a.due = b.due ∧ a.id < b.id))
  ids : (s.wsc.sched.map SchedEntry.id).Nodup

/-- The kinds of record that carry a value (R165). -/
def RecordKind.carriesValue : RecordKind → Bool
  | .wakeAdmitted | .wakeRefused | .wakeCoalesced | .sessionUpgraded | .sessionClosed | .lineMuted | .lineUnmuted
  | .domainFault | .tierChanged | .schedMissed | .linkFault => true
  | .sessionSuspended | .sessionResumed | .lineRecord | .approachExpired | .dependencyBlocked | .reserveExhausted
  | .schedSkipped | .modeChanged | .partReset => false

/-- The Event Queue: at most 24 records (R166), a value exactly with the kinds that carry one (R165), the lost count at most 255
(R167). -/
structure EventsSound (s : State) : Prop where
  count : s.evq.events.length ≤ 24
  values : ∀ r ∈ s.evq.events, r.value.isSome = r.kind.carriesValue
  lost : s.evq.lost ≤ 255

/-- LNK and D0: at most two entries wait (R176) and the counter is at most 255 (R178); while the link is not live nothing is received,
waiting, armed, overrun or being sent (R182, R183), and while it is live the receiver takes bytes. -/
structure LinkSound (s : State) : Prop where
  inbound : s.lnk.inbound.length ≤ 2
  errors : s.lnk.frameErrors ≤ 255
  dead : s.linkLive = false → s.lnk.receiver = .dead ∧ s.lnk.inbound = [] ∧ s.lnk.armed = false ∧ s.lnk.overrun = false ∧
    s.lnk.frameErrors = 0 ∧ s.lnk.reply = none
  live : s.linkLive = true → s.lnk.receiver ≠ .dead

/-! ## What is derived from other state -/

/-- The state that follows from other state agrees with it after every event: each session's state with its domains (R105), each
domain's owner with its holders (R37, R38), the sub-state with its conditions (R10), the sample period with mode and sub-state (R125),
ATTN with the attention condition and the pulse (R171, R172). While the device is held in reset no hold is placed yet, so the owners are
left out. -/
structure DerivedSound (s : State) : Prop where
  sessions : ∀ x ∈ s.ssc.sessions, x.state = s.stateOf x
  owners : s.held = false → ∀ d, (s.dom d).owner = s.ownerOf d
  sub : s.mdc.sub = s.subNow
  period : s.chm.period = samplePeriod s.mdc.mode s.mdc.sub
  attn : s.evq.attn = (s.attention && s.evq.pulse.isNone)

/-- No event is in progress: the model's own notes are empty. -/
def BetweenEvents (s : State) : Prop := s.work = Work.none

/-! ## Views of the state, in which the claims say what a command leaves unchanged -/

/-- What `State.base` shows. -/
structure Base where
  pending : List Instr
  held : Bool
  freeIdx : Nat
  mdc : Mdc
  doms : Vector (DomainEntry × Bool × Nat) 12
  lines : Vector (LineEntry × Bool × Bool × Option Nat) 16
  adm : Adm
  btm : Btm
  chm : Chm
  wsc : Wsc
  limit : Nat
  linkFault : Bool
  locked : Bool
  resetDue : Bool
  policy : Overflow
  attnMode : AttnMode

/-- The part of the state that no transition, session, trigger or evaluation changes: the sub-state, the period, the schedule and the
running states are left out. -/
def State.base (s : State) : Base :=
  { pending := s.pending, held := s.held, freeIdx := s.freeIdx, mdc := { s.mdc with sub := none },
    doms := s.dmc.domains.map (fun x => (x.entry, x.pgPin, x.pgQual)),
    lines := s.wlu.lines.map (fun x => (x.entry, x.pin, x.debounced, x.interval)),
    adm := s.adm, btm := s.btm, chm := { s.chm with period := 0, earlyDue := false }, wsc := { s.wsc with sched := [] },
    limit := s.lnk.limit, linkFault := s.lnk.linkFault, locked := s.lnk.locked, resetDue := s.lnk.resetDue,
    policy := s.evq.policy, attnMode := s.evq.attnMode }

/-- `State.base` with the whole lines and the Schedule, which only triggers and evaluations change. -/
def State.deep (s : State) : Base × Wlu × Wsc := (s.base, s.wlu, s.wsc)

/-- The Session Table and the next id, without what R105 derives from the domains: whether an active session is STARTING or RUNNING. -/
def State.table (s : State) : List Session × Nat :=
  (s.ssc.sessions.map (fun x => { x with state := if x.active then .starting else .suspended }), s.ssc.nextId)

/-- What an event's end does not change when no resumption waits: all of `State.deep`, the Session Table and the approach records. Left
out are the domains' running states, the Ramp Arbiter, the sub-state and the period, the records with ATTN, and the link's traffic. -/
def State.frame (s : State) : (Base × Wlu × Wsc) × (List Session × Nat) × Apq := (s.deep, s.table, s.apq)

/-! ## Terms of the claims about commands -/

/-- LNK can take a request at once: the device is not held in reset, the link is live, nothing waits and no reply is being sent (R176,
R182); and no event is in progress in the model. -/
structure Listening (s : State) : Prop where
  awake : s.held = false
  live : s.linkLive = true
  empty : s.lnk.inbound = []
  silent : s.lnk.reply = none
  between : BetweenEvents s

/-- The state once the request of this TYPE has been answered with this RESULT and payload and has changed nothing else: the reply is
being sent, the arm flag and the frame-error counter are cleared (R177, R181), OVERRUN has been shown and cleared (R176). -/
def State.answered (s : State) (type : Byte) (r : Result) (payload : List Byte) : State :=
  { s with lnk.armed := false, lnk.frameErrors := 0, lnk.overrun := false,
           lnk.reply := some (replyFrame (type + 0x80) s.statusByte r payload),
           lnk.replyLeft := sendingMs (replyFrame (type + 0x80) s.statusByte r payload) }

/-- The reply being sent carries this type, RESULT and payload. -/
def State.replies (s : State) (type : Byte) (r : Result) (payload : List Byte) : Prop :=
  ∃ status, s.lnk.reply = some (replyFrame (type + 0x80) status r payload)

/-- A write to an entry whose protected field is this is refused neither by LINK_FAULT nor by the configuration lock: the flag is clear,
and the lock is not set, SERVICE is high, or the entry is not protected (R177 step 4, R180). -/
def State.entryWritable (s : State) (guarded : Bool) : Prop :=
  s.lnk.linkFault = false ∧ (s.lnk.locked = false ∨ s.mdc.service.debounced = true ∨ guarded = false)

/-- No request is refused by LINK_FAULT or by the configuration lock: the flag is clear, and the lock is not set or SERVICE is high
(R177 step 4, R180). -/
def State.writable (s : State) : Prop :=
  s.lnk.linkFault = false ∧ (s.lnk.locked = false ∨ s.mdc.service.debounced = true)

/-- An event record of this kind with the part time of s (R165). -/
def State.recordOf (s : State) (kind : RecordKind) (subject detail : Nat) (value : Option Nat) : Event :=
  { kind := kind, time := s.wsc.seconds, subject := byte subject, detail := byte detail, value := value.map (BitVec.ofNat 16) }

/-- An event outside the link can be taken: the device is not held in reset, and no event is in progress in the model. -/
structure Ready (s : State) : Prop where
  awake : s.held = false
  between : BetweenEvents s

/-- The queue keeps the next n records: the policy is KEEP_OLDEST and n places are free (R166, R167). -/
def State.roomFor (s : State) (n : Nat) : Prop := s.evq.policy = .keepOldest ∧ s.evq.events.length + n ≤ 24

/-- The queue of t holds that of s, then these records, and then whatever the event recorded further. -/
def State.recorded (t s : State) (l : List Event) : Prop := s.evq.events ++ l <+: t.evq.events

/-- The mode, the tree and the domains' states are sound. -/
structure PowerSound (s : State) : Prop where
  mode : ModeSound s
  tree : TreeSound s
  demand : DemandSound s

/-- The domain's demand count is above 0, in CUTOFF by a session (R20, R24, R32): in a sound state any demand, a child that is not OFF among
them, and in every state outside CUTOFF a direct holder. -/
def State.wanted (s : State) (d : DomId) : Prop :=
  (s.mdc.mode ≠ .cutoff ∧ s.directHolders d ≠ 0) ∨
  (PowerSound s ∧ s.demand d ≠ 0 ∧ (s.mdc.mode = .cutoff → s.sessionDemands d = true))

/-- The domain's demand count is 0 (R20): in a sound state in any mode, and in every state outside CUTOFF that of a domain with no direct
holder that is no domain's parent. -/
def State.unwanted (s : State) (d : DomId) : Prop :=
  (s.mdc.mode ≠ .cutoff ∧ s.directHolders d = 0 ∧ ∀ e, (s.dom e).entry.parent ≠ some d) ∨ (PowerSound s ∧ s.demand d = 0)

/-- Something below the domain, or the domain itself, would demand it although every domain below it lost its supply: a direct holder, or a
LATCHED descendant (R20, R32). -/
def State.rooted (s : State) (d : DomId) : Prop :=
  ∃ e, s.setDemands (addDom 0 e) d = true ∧ (s.directHolders e ≠ 0 ∨ (e ≠ d ∧ (s.dom e).state = .latched))

/-- The domain is still demanded once its descendants have been switched off or queued again (R30). -/
def State.wantedAtLoss (s : State) (d : DomId) : Prop :=
  (s.mdc.mode ≠ .cutoff ∧ s.directHolders d ≠ 0) ∨
  (PowerSound s ∧ s.rooted d ∧ (s.mdc.mode = .cutoff → s.sessionDemands d = true))

/-- The domain is not demanded any more once its descendants have been switched off or queued again (R30). -/
def State.unwantedAtLoss (s : State) (d : DomId) : Prop :=
  (s.mdc.mode ≠ .cutoff ∧ s.directHolders d = 0 ∧ ∀ e, (s.dom e).entry.parent ≠ some d) ∨ (PowerSound s ∧ ¬ s.rooted d)

/-- A line that counts an unqualified trigger (R60): its nuisance counter rises, and its window is started unless it runs. -/
def Line.counted (x : Line) : Line :=
  { x with nuisance := min 15 (x.nuisance + 1),
           window := if x.window.isNone then some (x.entry.nuisanceWindow * 60000) else x.window }

/-- A line whose counter has reached its limit by such a trigger: the window is stopped and the mute runs (R62). -/
def Line.countedOut (x : Line) : Line :=
  { x with nuisance := min 15 (x.nuisance + 1), window := none, mute := some (x.entry.muteTime * 60000) }

/-- The line's next unqualified trigger reaches its nuisance limit, which is not 0 (R60). -/
def Line.atLimit (x : Line) : Prop := x.entry.nuisanceLimit ≠ 0 ∧ x.entry.nuisanceLimit ≤ min 15 (x.nuisance + 1)

/-- LINE_MUTED of a line that such a trigger mutes (R62). -/
def State.muting (s : State) (l : LineId) : Event :=
  s.recordOf .lineMuted l.val (min 15 ((s.line l).nuisance + 1)) (some (s.line l).entry.muteTime)

/-- SESSION_CLOSED of a session for the reason of this code (R118). -/
def State.closing (s : State) (reason : Nat) (x : Session) : Event :=
  s.recordOf .sessionClosed x.id reason (some (tenths16 x.drawn))

/-- The charge of a session, in mAs times 1,000, after a sample of this current over p ms: the shares of the domains it owns are added, and
nothing where the excess or the weight is 0 (R132, R134, R135). -/
def State.chargedTo (s : State) (cur p : Nat) (x : Session) : Nat :=
  let excess := cur - s.chm.baseline
  x.drawn * 1000 + x.drawnRem + if excess = 0 ∨ s.weight = 0 then 0 else s.sessionSum excess x.id * p

/-- The session is not SUSPENDED and stands at or above its class's charge cap after that sample (R136). -/
def State.capped (s : State) (cur p : Nat) (x : Session) : Prop :=
  x.active = true ∧ (s.cls x.cls).chargeCap * 3600 ≤ s.chargedTo cur p x / 1000

/-- That sample takes the reserve from above 0 to 0, in PARKED or CUTOFF (R130, R131). -/
def State.exhausts (s : State) (cur p : Nat) : Prop :=
  (s.mdc.mode = .parked ∨ s.mdc.mode = .cutoff) ∧ s.chm.reserve ≠ 0 ∧ s.chm.reserve ≤ (s.chm.reserveRem + cur * p) / 1000

/-- The class's entry, its present session, and the number of sessions leave steps 2 to 5 of the decision nothing to do: enabled, its
tier reached, no session of the class, a place free (R85 to R88). -/
structure Admissible (s : State) (c : ClassId) : Prop where
  enabled : (s.cls c).enabled = true
  tier : tierPasses s.btm.tier (s.cls c).minTier = true
  fresh : s.sessionOf? c = none
  place : s.ssc.sessions.length < 6

/-- The debounce interval of the line ends after n ms with a stable change that forms a trigger which acts: the line is enabled, its
trigger mode names the new level, and the mode lets it act (R52 to R54, R56 step 1). -/
structure FormsTrigger (s : State) (l : LineId) (n : Nat) : Prop where
  interval : (s.line l).interval = some n
  change : (s.line l).pin ≠ (s.line l).debounced
  enabled : (s.line l).entry.enabled = true
  named : (s.line l).entry.triggerMode = .both ∨ (s.line l).entry.triggerMode = (if (s.line l).pin then .rising else .falling) ∨
    (s.line l).entry.triggerMode = (if (s.line l).pin then .levelHigh else .levelLow)
  acts : modeActs s.mdc.mode (s.line l).entry = true

/-- The state after that interval, before the line's role takes the trigger: n ms have passed, the level is taken, and a level activation
is SPENT (R52, R54). -/
def State.stableAt (s : State) (l : LineId) (n : Nat) : State :=
  (s.lapse n).updLine l (fun x => { x with
    interval := none, debounced := x.pin, act := if x.entry.triggerMode.isLevel then .spent else x.act })

/-- A wake request of a line for its class (R83). -/
def lineRequest (c : ClassId) (l : LineId) (w : Profile) : Request := { cls := c, origin := .line l, wanted := w, stage1 := none }

/-- The wake request that a SESSION_OPEN forms (R83, R84). -/
def openRequest (c : ClassId) (w : Profile) : Request := { cls := c, origin := .link, wanted := w, stage1 := none }

/-- The wake request that a firing of this entry forms (R164). -/
def schedRequest (e : SchedEntry) : Request := { cls := e.cls, origin := .schedule e.id, wanted := .full, stage1 := none }

/-- The id that the next session of v is given: no session of v holds it, and it is the one at which the next-id counter stands or the first
free one after it, 1 coming after 255 (R103). -/
def State.givesId (v : State) (id : Nat) : Prop :=
  (∀ x ∈ v.ssc.sessions, x.id ≠ id) ∧
  (SessionsSound v → ∃ k, id = (v.ssc.nextId - 1 + k) % 255 + 1 ∧
    ∀ j, j < k → ∃ x ∈ v.ssc.sessions, x.id = (v.ssc.nextId - 1 + j) % 255 + 1)

/-- t is u, the state at the admission, with one session more for the request: what R97 part 4 gives its record, under the id that v, the
state in which the id was taken, gives, the counter at the id after it (R103), and nothing else of the frame changed but the approach
records, which `apq` gives. -/
def State.admitted (t u v : State) (r : Request) (id : Nat) (p : Profile) (apq : Apq) : Prop :=
  v.givesId id ∧ t.deep = u.deep ∧ t.apq = apq ∧
  t.table = State.table { u with ssc := { sessions := u.ssc.sessions ++ [u.newSession r id p (u.profileCost (u.cls r.cls) p)],
                                          nextId := if id = 255 then 1 else id + 1 } }

/-- The state without these sessions, every line that listened for one of them IDLE (R117 steps 2 and 3). -/
def State.without (s : State) (gone : List Session) : State :=
  State.idleLines { s with ssc.sessions := s.ssc.sessions.filter (fun y => !gone.contains y) } (gone.flatMap Session.listening)

/-- Of the sessions of a list, this one has the lowest class priority, and among equals it stands first (R88, R94, R96). -/
def State.ranksFirst (s : State) (x : Session) (l : List Session) : Prop :=
  ∃ before after, l = before ++ x :: after ∧ (∀ y ∈ before, (s.cls x.cls).priority < (s.cls y.cls).priority) ∧
    ∀ y ∈ after, (s.cls x.cls).priority ≤ (s.cls y.cls).priority

/-- The sessions that a class of this priority may have suspended: of a suspendable class, STARTING or RUNNING, of lower priority (R94,
R96). -/
def State.yielding (s : State) (priority : Nat) : List Session :=
  s.ssc.sessions.filter (fun x => (s.cls x.cls).suspendable && x.active && decide ((s.cls x.cls).priority < priority))

/-- No session yields to the admission of this class: it is not exclusive, or no session may be suspended for it (R96). -/
def State.yieldsNone (s : State) (c : ClassEntry) : Prop := c.exclusive = false ∨ s.yielding c.priority = []

/-- t is what u becomes when, outside DRIVE, its entry e, due, is evaluated and no other, `before` being recorded ahead of it (R159, R160,
R162, R164). A latest occurrence later than the lateness limit is missed with those before it. Another one fires: ADM is asked for the
entry's class in FULL with the origin SCHEDULE, and refuses a disabled class and one whose tier is not reached, and admits one that the
decision finds nothing against. Whatever it decides, a single occurrence leaves the Schedule and a repeating entry takes the due time
after the latest, or leaves it where that lies above 4,294,967,295. -/
def State.evaluated (t u : State) (before : List Event) (e : SchedEntry) : Prop :=
  let now := u.wsc.seconds
  let passed := (now - e.due) / e.period
  let latest := e.due + passed * e.period
  let next := latest + e.period
  let c := u.cls e.cls
  let cost := u.profileCost c .full
  let after : State := { u with wsc.sched := t.wsc.sched }
  let missed := fun n : Nat => before ++ (if n = 0 then [] else [u.recordOf .schedMissed e.id e.cls.val (some (min 65535 n))])
  let refused := fun why : Result => t.frame = after.frame ∧ (u.roomFor (before.length + 2) →
    t.recorded u (missed passed ++ [u.recordOf .wakeRefused e.cls.val why.code (some (256 + e.id))]))
  t.wsc.sched.filter (fun x => x.id != e.id) = u.wsc.sched.filter (fun x => x.id != e.id) ∧
  (e.period = 0 ∨ 4294967295 < next → ∀ x ∈ t.wsc.sched, x.id ≠ e.id) ∧
  (e.period ≠ 0 → next ≤ 4294967295 → { e with due := next, pending := false } ∈ t.wsc.sched) ∧
  (e.lateness < now - latest → t.frame = after.frame ∧ (u.roomFor (before.length + 1) → t.recorded u (missed (passed + 1)))) ∧
  (now - latest ≤ e.lateness →
    (c.enabled = false → refused .classDisabled) ∧
    (c.enabled = true → c.minTier.code < u.btm.tier.code → refused .tier) ∧
    (Admissible u e.cls → u.yieldsNone c → u.fits c cost = true →
      ∃ id, t.admitted after u (schedRequest e) id .full u.apq ∧ (u.roomFor (before.length + 2) →
        t.recorded u (missed passed ++ [u.recordOf .wakeAdmitted id 1 (some (tenths16 cost))]))))

/-- The session with this one named as its suspender (R119 step 2). -/
def Session.suspendedUnder (x : Session) (suspender : Nat) : Session :=
  { x with state := .suspended, suspendedBy := some suspender, suspendedFor := some 0 }

/-- The session upgraded to a profile of its class, at this cost (R71). -/
def State.upgradedSession (s : State) (x : Session) (p : Profile) (cost : Nat) : Session :=
  { x with profile := p, set := s.enabledOf ((s.cls x.cls).profileSet p), estimate := x.drawn + cost,
           remaining := min ((s.cls x.cls).profileMs p) ((s.cls x.cls).maxDuration * 1000 - x.elapsed), listenCurrent := none,
           listening := [] }

/-- The mode lets no trigger of a line with this entry act: in DRIVE all but RECORD lines, in CUTOFF all that are not cutoff-capable (R56
step 1). -/
def triggerIgnored (m : Mode) (e : LineEntry) : Prop := (m = .drive ∧ e.role ≠ .record) ∨ (m = .cutoff ∧ e.cutoffCapable = false)

/-- Does the trigger mode name a stable change to this level: its edge, or the active level itself (R53, R54)? -/
def TriggerMode.names (m : TriggerMode) (high : Bool) : Prop :=
  m = .both ∨ m = (if high then .rising else .falling) ∨ m = (if high then .levelHigh else .levelLow)

/-- The command c, taken in s, makes a stable change of line l to this level in u (R52 to R54, R56, R58, R62). A disabled line, and an
edge line whose mode does not name the change, only take the level; a level line that leaves its active level ends its activation; a
trigger that the mode ignores leaves the activation PENDING; one that acts makes it SPENT, and is counted on a muted line and recorded
with its edge on a RECORD line. -/
def StableChange (c : Instr) (s u : State) (l : LineId) (high : Bool) : Prop :=
  let x := s.line l
  let level := x.entry.triggerMode = .levelHigh ∨ x.entry.triggerMode = .levelLow
  let takes := fun act : Activation => u.updLine l (fun y => { y with pin := high, interval := none, debounced := high, act := act })
  let does := fun v : State => ∃ t, exec c s = .next t ∧ t.frame = v.frame
  let triggers := x.entry.enabled = true ∧ x.entry.triggerMode.names high
  (x.entry.enabled = false → does (takes x.act)) ∧
  (x.entry.enabled = true → ¬ x.entry.triggerMode.names high → ¬ level → does (takes x.act)) ∧
  (x.entry.enabled = true → ¬ x.entry.triggerMode.names high → level → does (takes .inactive)) ∧
  (∀ act acted : Activation, triggers → (level → act = .pending ∧ acted = .spent) → (¬ level → act = x.act ∧ acted = x.act) →
    (triggerIgnored s.mdc.mode x.entry → does (takes act)) ∧
    (¬ triggerIgnored s.mdc.mode x.entry → x.mute.isSome = true →
      does ((takes acted).updLine l (fun y => { y with mutedTriggers := min 65535 (y.mutedTriggers + 1) }))) ∧
    (¬ triggerIgnored s.mdc.mode x.entry → x.mute = none → x.entry.role = .record → ∃ t, exec c s = .next t ∧
      t.frame = (takes acted).frame ∧
      (s.roomFor 1 → t.recorded s [s.recordOf .lineRecord l.val (if high then 0 else 1) none])))

/-- The time left until the timed event of a command: `some none` when no such event can come now, `none` for a command that stands for
no timed event. -/
def State.timeLeft (s : State) : Instr → Option (Option Nat)
  | .gapTimeout => some s.leftGap
  | .replyEnd => some s.leftReply
  | .ignDebounceEnd => some s.mdc.ign.interval
  | .serviceDebounceEnd => some s.mdc.service.interval
  | .leaveReset => some s.leftReset
  | .rampComplete d => some (s.leftRampComplete d)
  | .pgLoss d => some (s.leftPgLoss d)
  | .rampTimeout d => some (s.leftRamp d)
  | .holdoffExpiry d => some (s.leftHoldoff d)
  | .retryExpiry d => some (s.leftRetry d)
  | .wlDebounceEnd l => some (s.line l).interval
  | .nuisanceWindowExpiry l => some (s.line l).window
  | .muteExpiry l => some (s.line l).mute
  | .approachExpired l => some (s.leftWindow l)
  | .handoverTimeout => some s.mdc.handoverTimer
  | .sample _ _ => some s.leftSample
  | .periodChangeSample _ _ => some s.leftEarly
  | .sessionRunExpiry id => some (s.leftRun id)
  | .suspensionLimitExpiry id => some (s.leftSuspension id)
  | .partSecondRise => some s.leftSecond
  | .attnPulseEnd => some s.evq.pulse
  | _ => none

/-- The commands that act while the device is held in reset: the pins and the two events of R14. -/
def actsInReset : Instr → Bool
  | .ignLevelChange _ | .serviceLevelChange _ | .pgPinChange _ _ | .wlPinChange _ _ | .powerOnReset | .leaveReset => true
  | _ => false

/-- The TYPE and payload of the frame that a host request's command stands for (section 12.8). -/
def requestOf : Instr → Option (Byte × List Byte)
  | .statusGet p => some (0x01, p) | .eventsRead p => some (0x02, p) | .faultClear p => some (0x08, p)
  | .domainSet p => some (0x10, p) | .domainGet p => some (0x11, p) | .domainClearFault p => some (0x12, p)
  | .lineSet p => some (0x18, p) | .lineGet p => some (0x19, p) | .lineUnmute p => some (0x1A, p)
  | .classSet p => some (0x20, p) | .classGet p => some (0x21, p) | .tierSet p => some (0x28, p) | .meterSet p => some (0x29, p)
  | .schedAdd p => some (0x30, p) | .schedCancel p => some (0x31, p) | .schedList p => some (0x32, p)
  | .clockSet p => some (0x33, p) | .sessionOpen p => some (0x40, p) | .sessionExtend p => some (0x41, p)
  | .sessionRelease p => some (0x42, p) | .sessionList p => some (0x43, p) | .park p => some (0x50, p)
  | .reserveAdjust p => some (0x51, p) | .linkSet p => some (0x60, p) | .configLock p => some (0x70, p)
  | .resetArm p => some (0x7E, p) | .resetExec p => some (0x7F, p) | .unknownTypeFrame t p => some (t, p)
  | _ => none

/-- What the bytes do when they arrive at LRX one after the other. -/
def hears (s : State) (bytes : List Byte) : Host.Outcome State Fault Refusal :=
  bytes.foldl (fun o b => match o with
    | .next t => exec (.lrxByte b) t
    | o => o) (.next s)

end Sys2Proof.Machine
end

