-- ==== Sys2Proof/WellFormed.lean ====
section
/-! DEFINITION. Which terms of `Instr` stand for something the device can meet. -/

namespace Sys2Proof

/-- The request types of the catalogue (section 12.8). -/
def catalogueTypes : List Byte :=
  [0x01, 0x02, 0x08, 0x10, 0x11, 0x12, 0x18, 0x19, 0x1A, 0x20, 0x21, 0x28, 0x29, 0x30, 0x31, 0x32, 0x33,
   0x40, 0x41, 0x42, 0x43, 0x50, 0x51, 0x60, 0x70, 0x7E, 0x7F]

/-- A frame's payload has at most 48 bytes (R174). -/
def payloadFits (p : List Byte) : Bool := p.length ≤ 48

/-- Session ids run from 1 to 255 (R102). -/
def sessionIdFits (id : Nat) : Bool := 1 ≤ id && id ≤ 255

/-- The checks on a command: a payload a frame can carry, a TYPE outside the catalogue for UNKNOWN_TYPE_FRAME, a session id in range. -/
def Instr.wellFormed : Instr → Bool
  | .statusGet p | .eventsRead p | .faultClear p | .domainSet p | .domainGet p | .domainClearFault p
  | .lineSet p | .lineGet p | .lineUnmute p | .classSet p | .classGet p | .tierSet p | .meterSet p
  | .schedAdd p | .schedCancel p | .schedList p | .clockSet p | .sessionOpen p | .sessionExtend p
  | .sessionRelease p | .sessionList p | .park p | .reserveAdjust p | .linkSet p | .configLock p
  | .resetArm p | .resetExec p => payloadFits p
  | .unknownTypeFrame t p => payloadFits p && !(catalogueTypes.contains t)
  | .sessionRunExpiry id | .suspensionLimitExpiry id => sessionIdFits id
  | .frameErrorNotice _ | .lrxByte _ | .gapTimeout | .replyEnd | .ignLevelChange _ | .ignDebounceEnd
  | .serviceLevelChange _ | .serviceDebounceEnd | .powerOnReset | .leaveReset | .pgPinChange _ _
  | .rampComplete _ | .pgLoss _ | .rampTimeout _ | .holdoffExpiry _ | .retryExpiry _ | .wlPinChange _ _
  | .wlDebounceEnd _ | .nuisanceWindowExpiry _ | .muteExpiry _ | .approachExpired _ | .handoverTimeout
  | .sample _ _ | .periodChangeSample _ _ | .partSecondRise | .attnPulseEnd => true

end Sys2Proof
end

