-- ==== Sys2Proof/Certificates/Slice0/Obligations.lean ====
section
/-! DEFINITION. The statements for the provers. A statement about a host request takes the command as the arrival of a whole good frame
(assumption log 7) and says what the taking of the frame does when LNK can take it at once (`Listening`); how long its reply is being sent
(`sendingMs`) is assumption log 6. A statement about a timed event takes the command as assumption log 2 does: it says its effect of the
state in which the time left has passed (`State.lapse`). -/

open Sys2Proof Sys2Proof.Machine

/-! ## The block as a machine -/

/-- A step takes the command at the front of the queue and carries it out on the state with the queue's rest. -/
def Obligations.StepTakesFrontCommand : Prop :=
  ∀ (c : Instr) (rest : List Instr) (s : State), s.pending = c :: rest → step s = exec c { s with pending := rest }

/-- No command changes the queue of waiting commands. The queue is the model's own field, and that no command changes it is the model's
choice (assumption log 27). -/
def Obligations.CommandsLeaveTheQueue : Prop :=
  ∀ (c : Instr) (s t : State), exec c s = .next t → t.pending = s.pending

/-- The model's choice of assumption log 3: with no command waiting, 1 ms passes when no event is due, and else one of the due events
is taken. -/
def Obligations.IdleStepTakesADueEvent : Prop :=
  ∀ s : State, s.pending = [] →
    (s.due = [] → step s = .next (s.lapse 1)) ∧
    (s.due ≠ [] → ∃ c ∈ s.due, step s = exec c { s with freeIdx := s.freeIdx + 1 })

/-- The model's choices of assumption logs 2 and 10. The command of a timed event that cannot come now changes nothing; and while the
device is held in reset, of which R14 says only that it is held, every command but those of the pins, a new power-on reset and the
leaving of reset changes nothing. -/
def Obligations.EventsThatCannotComeChangeNothing : Prop :=
  ∀ (c : Instr) (s : State),
    (s.timeLeft c = some none → exec c s = .next s) ∧
    (s.held = true → c.wellFormed = true → actsInReset c = false → exec c s = .next s)

/-! ## Invariants -/

/-- The state right after reset is sound in every respect. That every input pin is LOW in it is the model's choice (assumption log 1). -/
def Obligations.ResetIsSound : Prop :=
  ModeSound State.reset ∧ RangesSound State.reset ∧ RampSound State.reset ∧ TreeSound State.reset ∧ DemandSound State.reset ∧
  SessionsSound State.reset ∧ ScheduleSound State.reset ∧ EventsSound State.reset ∧ LinkSound State.reset ∧ DerivedSound State.reset ∧ BetweenEvents State.reset

/-- Every step keeps the mode and what goes with it (R2, R4, R6, R7, R148). -/
def Obligations.ModeStaysSound : Prop := ∀ s t : State, ModeSound s → step s = .next t → ModeSound t

/-- Every step keeps every counted quantity in its range: the reserve and the meter's readings and settings (R127, R129, R137), the part
time (R152), the link's and the handover settings (R179), the tier settings and counters (R142), and each line's nuisance counter (R60),
muted-trigger count (R62) and repeat count (R69). -/
def Obligations.RangesStaySound : Prop := ∀ s t : State, RangesSound s → step s = .next t → RangesSound t

/-- Every step keeps each domain's EN, timer and attempt count with its state, the two ramp slots with the RAMPING domains, and the Ramp
Queue with the QUEUED ones (R22, R24, R27, R39, R40). A step from a state whose mode and tree are sound too, with no event in progress, also
keeps each domain's state with its demand: a parent is ON under a powered child (R23), no QUEUED or FAULT_WAIT domain is undemanded (R24),
both slots are held or no queued domain is eligible (R43), and a switch-off of D0 is held back only while a reply is being sent, its cause
stands and no child of D0 is powered (R33, R35; that one whose cause has ceased is forgotten is assumption log 15). -/
def Obligations.RampsStaySound : Prop := ∀ s t : State, RampSound s → step s = .next t →
  RampSound t ∧ (ModeSound s → TreeSound s → BetweenEvents s → DemandSound s → DemandSound t)

/-- Every step keeps the tree: parents have lower indices, and the ancestors of an enabled domain are enabled (R16, R17). -/
def Obligations.TreeStaysSound : Prop := ∀ s t : State, TreeSound s → step s = .next t → TreeSound t

/-- Every step keeps the Session Table within 6 records, one for each id and class, at most one SUSPENDED (R101 to R103). -/
def Obligations.SessionsStaySound : Prop := ∀ s t : State, SessionsSound s → step s = .next t → SessionsSound t

/-- Every step keeps the Schedule within 16 entries, one for each id, in the order of due time and id (R154). -/
def Obligations.ScheduleStaysSound : Prop := ∀ s t : State, ScheduleSound s → step s = .next t → ScheduleSound t

/-- Every step keeps the Event Queue within 24 records, each with a value just when its kind has one (R165 to R167). -/
def Obligations.EventsStaySound : Prop := ∀ s t : State, EventsSound s → step s = .next t → EventsSound t

/-- Every step keeps the link with D0: nothing received, waiting, armed or being sent while the link is not live, at most two entries
waiting (R176, R178, R182). That D0 is not in the Ramp Queue while the link is live rests on `RampSound`. -/
def Obligations.LinkStaysSound : Prop :=
  ∀ s t : State, RampSound s → LinkSound s → step s = .next t → LinkSound t

/-- Every step leaves the derived state in agreement with what it is derived from: session states, owners, sub-state, sample period and
ATTN (R10, R37, R38, R105, R125, R171); and no event is left in progress. -/
def Obligations.DerivedStateAgrees : Prop :=
  ∀ s t : State, DerivedSound s → BetweenEvents s → step s = .next t → DerivedSound t ∧ BetweenEvents t

/-! ## Frames and layouts -/

/-- A request frame that arrives byte by byte at a receiver that is HUNTING reaches the inbound queue whole; with another check byte the
same bytes form a FRAME_CRC notice instead (R174, R175). -/
def Obligations.ArrivingFramesAreChecked : Prop :=
  ∀ (type : Byte) (p : List Byte) (s : State), s.held = false → s.lnk.receiver = .hunting → p.length ≤ 48 →
    hears s (requestFrame type p) = .next ((s.setReceiver .hunting).receive (.frame type p)) ∧
    (∀ k : Byte, k ≠ checkByte ([byte p.length, type] ++ p) →
      hears s ([0xC3] ++ [byte p.length, type] ++ p ++ [k]) = .next ((s.setReceiver .hunting).receive (.notice .crc)))

/-- An entry that a write request carries and that is taken is laid out again so that it reads back as itself (section 12.9): domain,
line, class and schedule entries. -/
def Obligations.EntriesReadBack : Prop :=
  (∀ (d : DomId) (p : List Byte) (e : DomainEntry), readDomainEntry d p = some e → readDomainEntry d (domainEntryBytes e) = some e) ∧
  (∀ (l : LineId) (p : List Byte) (e : LineEntry), readLineEntry l p = some e → readLineEntry l (lineEntryBytes e) = some e) ∧
  (∀ (p : List Byte) (e : ClassEntry), readClassEntry p = some e → readClassEntry (classEntryBytes e) = some e) ∧
  (∀ (p : List Byte) (e : SchedEntry), readSchedEntry p = some e → readSchedEntry (schedEntryBytes e) = some e)

/-! ## The link -/

/-- The checks of R177 before a request's owner sees it, in their order: TYPE, length, LINK_FAULT, configuration lock. A request they
refuse changes nothing but what every reply changes. A frame whose TYPE is not in the catalogue (UNKNOWN_TYPE_FRAME) ends at the first;
that the reply type of one with a TYPE of 0x80 or above wraps in its byte is the model's choice (assumption log 18). -/
def Obligations.LinkChecksComeFirst : Prop :=
  ∀ (c : Instr) (type : Byte) (p : List Byte) (s : State), requestOf c = some (type, p) → c.wellFormed = true → Listening s →
    ¬ (s.lnk.armed = true ∧ type = 0x7F ∧ p = []) →
    (requestLength type = none → exec c s = .next (s.answered type .unknownType [])) ∧
    (∀ n, requestLength type = some n → p.length ≠ n →
      exec c s = .next (s.answered type .badLength (refusedPayload type))) ∧
    (requestLength type = some p.length → s.lnk.linkFault = true → writesTables type = true →
      exec c s = .next (s.answered type .linkFault (refusedPayload type))) ∧
    (requestLength type = some p.length → ¬ (s.lnk.linkFault = true ∧ writesTables type = true) → s.lockRefuses type p = true →
      exec c s = .next (s.answered type .locked (refusedPayload type)))

/-- Every request that LNK takes is answered by one reply, of type TYPE plus 0x80 (for a TYPE of 0x80 or above the sum wraps in its byte,
the model's choice of assumption log 18); the RESET_EXEC of an armed device is ACCEPTED (R174, R177, R181). While a reply is being sent a
frame waits in the inbound queue, or sets OVERRUN when two entries wait; while the link is not live it is not received at all (R176,
R182). -/
def Obligations.RequestsAreAnsweredInTurn : Prop :=
  ∀ (c : Instr) (type : Byte) (p : List Byte) (s : State), requestOf c = some (type, p) → c.wellFormed = true →
    (Listening s → ∃ t, exec c s = .next t ∧
      (¬ (s.lnk.armed = true ∧ type = 0x7F ∧ p = []) → ∃ r payload, t.replies type r payload) ∧
      (s.lnk.armed = true ∧ type = 0x7F ∧ p = [] → t.replies 0x7F .accepted [])) ∧
    (s.held = false → s.linkLive = false → exec c s = .next s) ∧
    (s.held = false → s.linkLive = true → s.lnk.reply.isSome = true → s.lnk.inbound.length < 2 →
      exec c s = .next { s with lnk.inbound := s.lnk.inbound ++ [.frame type p] }) ∧
    (s.held = false → s.linkLive = true → s.lnk.reply.isSome = true → 2 ≤ s.lnk.inbound.length →
      exec c s = .next { s with lnk.overrun := true })

/-- The receiver's taking of one byte, by its state; and of a gap of more than 2 ms, which within a frame discards the frame and forms
FRAME_TIMEOUT, and in DRAINING ends the draining with no notice (R175). That a gap of more than 2 ms is 3 whole milliseconds is the
model's choice (assumption log 5). -/
def Obligations.ReceiverTakesBytesAndGaps : Prop :=
  ∀ (b : Byte) (s : State), s.held = false →
    (s.lnk.receiver = .dead → exec (.lrxByte b) s = .next s) ∧
    (s.lnk.receiver = .hunting → b = 0xC3 → exec (.lrxByte b) s = .next { s with lnk.receiver := .awaitLength, lnk.gap := 0 }) ∧
    (s.lnk.receiver = .hunting → b ≠ 0xC3 → exec (.lrxByte b) s = .next s) ∧
    (s.lnk.receiver = .awaitLength → b.toNat ≤ 48 → exec (.lrxByte b) s = .next { s with lnk.receiver := .body [b], lnk.gap := 0 }) ∧
    (s.lnk.receiver = .awaitLength → 48 < b.toNat →
      exec (.lrxByte b) s = .next (State.receive { s with lnk.receiver := .draining, lnk.gap := 0 } (.notice .length))) ∧
    (∀ len kept, s.lnk.receiver = .body (len :: kept) → kept.length + 2 ≠ len.toNat + 3 →
      exec (.lrxByte b) s = .next { s with lnk.receiver := .body (len :: kept ++ [b]), lnk.gap := 0 }) ∧
    (s.lnk.receiver = .draining → exec (.lrxByte b) s = .next { s with lnk.gap := 0 }) ∧
    (s.lnk.receiver = .awaitLength ∨ (∃ kept, s.lnk.receiver = .body kept) → exec .gapTimeout s =
      .next (State.receive { s.lapse (3 - s.lnk.gap) with lnk.receiver := .hunting, lnk.gap := 0 } (.notice .timeout))) ∧
    (s.lnk.receiver = .draining → exec .gapTimeout s =
      .next { s.lapse (3 - s.lnk.gap) with lnk.receiver := .hunting, lnk.gap := 0 })

/-- The taking of a frame-error notice: the arm flag is cleared, the 0xFF reply names the error, the counter rises by 1 and saturates at
255; at the limit LINK_FAULT is set and recorded, once (R178). With the queue empty and D0 ON, LINK_FAULT raises ATTN with no pulse, in
PULSE mode too (R172). That the reply shows LINK_FAULT as it stood before is the model's choice (assumption log 20). -/
def Obligations.FrameErrorIsCounted : Prop :=
  ∀ (e : FrameError) (s : State), Listening s → ∃ t, exec (.frameErrorNotice e) s = .next t ∧
    t.lnk.reply = some (replyFrame 0xFF s.statusByte (FrameErrorResult e) []) ∧ t.lnk.armed = false ∧
    t.lnk.frameErrors = min 255 (s.lnk.frameErrors + 1) ∧ t.lnk.inbound = [] ∧ t.dmc = s.dmc ∧ t.ssc = s.ssc ∧ t.wsc = s.wsc ∧
    (t.lnk.linkFault = true ↔ s.lnk.linkFault = true ∨ s.lnk.limit ≤ min 255 (s.lnk.frameErrors + 1)) ∧
    ((s.lnk.linkFault = true ∨ min 255 (s.lnk.frameErrors + 1) < s.lnk.limit) → t.evq = s.evq) ∧
    (s.lnk.linkFault = false → s.lnk.limit ≤ min 255 (s.lnk.frameErrors + 1) → s.evq.events.length < 24 →
      t.evq.events = s.evq.events ++ [s.recordOf .linkFault (FrameErrorResult e).code s.lnk.limit
        (some (min 255 (s.lnk.frameErrors + 1)))] ∧
      (s.evq.events = [] → (s.dom 0).state = .on → s.evq.pulse = none → t.evq.attn = true ∧ t.evq.pulse = none))

/-- The end of a reply with nothing waiting: no reply is being sent, and beyond the time that has passed nothing of the frame changes
(R176). Where the link stays live and an entry waits, the oldest leaves the inbound queue and is taken: a frame is answered by a reply of
its own type (for a TYPE of 0x80 or above the sum wraps in its byte, the model's choice of assumption log 18), or ACCEPTED where it is the
RESET_EXEC of an armed device (R177, R181); a notice is answered by the 0xFF reply that names the error, and counted (R178). D0 is ON or in
HOLDOFF, in every mode, with its state agreeing with its demand (`DemandSound`). -/
def Obligations.ReplyEndFreesTheLink : Prop :=
  ∀ s : State, s.held = false → s.lnk.reply.isSome = true → s.lnk.resetDue = false → s.dmc.d0Held = none → BetweenEvents s →
    (s.lnk.inbound = [] → ∃ t, exec .replyEnd s = .next t ∧ t.lnk.reply = none ∧ t.frame = (s.lapse s.lnk.replyLeft).frame) ∧
    (ModeSound s → TreeSound s → RampSound s → DemandSound s → s.linkLive = true →
      (∀ type p rest, s.lnk.inbound = .frame type p :: rest → ∃ t, exec .replyEnd s = .next t ∧ t.lnk.inbound = rest ∧
        (¬ (s.lnk.armed = true ∧ type = 0x7F ∧ p = []) → ∃ r payload, t.replies type r payload) ∧
        (s.lnk.armed = true ∧ type = 0x7F ∧ p = [] → t.replies 0x7F .accepted [] ∧ t.lnk.resetDue = true)) ∧
      (∀ e rest, s.lnk.inbound = .notice e :: rest → ∃ t, exec .replyEnd s = .next t ∧ t.lnk.inbound = rest ∧
        t.replies 0x7F (FrameErrorResult e) [] ∧ t.lnk.armed = false ∧ t.lnk.frameErrors = min 255 (s.lnk.frameErrors + 1)))

/-- The link's own requests. RESET_ARM sets the arm flag; RESET_EXEC is ACCEPTED while it is set, with the software reset due at the
reply's end, and refused WRONG_MODE while it is clear (R181). LINK_SET writes its four settings, CONFIG_LOCK sets the lock, FAULT_CLEAR
clears LINK_FAULT; each is answered OK, and ATTN follows (R173, R178, R179, R180). A LINK_SET with a limit of 0 or above 15, an ATTN mode or
a policy above 1, or a timeout below 10 or above 600 s is refused BAD_FIELD, with no setting changed (R179). -/
def Obligations.LinkRequestsAreTaken : Prop :=
  ∀ s : State, Listening s →
    exec (.resetArm []) s = .next { s.answered 0x7E .ok [] with lnk.armed := true } ∧
    (s.lnk.armed = false → exec (.resetExec []) s = .next (s.answered 0x7F .wrongMode [])) ∧
    (s.lnk.armed = true → exec (.resetExec []) s = .next { s with
      lnk.armed := false, lnk.resetDue := true, lnk.overrun := false,
      lnk.reply := some (replyFrame 0xFF s.statusByte .accepted []),
      lnk.replyLeft := sendingMs (replyFrame 0xFF s.statusByte .accepted []) }) ∧
    (∀ (n a o : Byte) (h l : Byte) (mode : AttnMode) (policy : Overflow), s.lnk.linkFault = false → 1 ≤ n.toNat → n.toNat ≤ 15 →
      a = (match mode with | .level => 0 | .pulse => 1) → o = (match policy with | .keepOldest => 0 | .keepNewest => 1) →
      10 ≤ nat16 h l → nat16 h l ≤ 600 →
      exec (.linkSet [n, a, o, h, l]) s = .next ((State.refreshAttn { s with
        lnk.limit := n.toNat, evq.attnMode := mode, evq.policy := policy,
        mdc.handoverTimeout := nat16 h l }).answered 0x60 .ok [])) ∧
    (∀ n a o h l : Byte, s.lnk.linkFault = false →
      n.toNat = 0 ∨ 15 < n.toNat ∨ 1 < a.toNat ∨ 1 < o.toNat ∨ nat16 h l < 10 ∨ 600 < nat16 h l →
      exec (.linkSet [n, a, o, h, l]) s = .next (s.answered 0x60 .badField [])) ∧
    (s.lnk.linkFault = false → exec (.configLock []) s = .next (({ s with lnk.locked := true }).answered 0x70 .ok [])) ∧
    exec (.faultClear []) s = .next (({ s with lnk.linkFault := false }).refreshAttn.answered 0x08 .ok [])

/-- Software reset, performed when the reply to RESET_EXEC has been sent, or when a power-good loss on D0 cuts that reply short (R181). The
Session Table and the Schedule are empty, every line is IDLE with repeat count 0, every mute, window and counter of the lines has ended, no
latch is left, a domain but D0 is OFF unless the mode's holds demand it. The mode follows the debounced IGN, or is CUTOFF at that tier,
with its holds, and with the handover timer in HANDOVER after a PARK. A D0 that is ON or in HOLDOFF is kept, then ON with the link live;
in CUTOFF every domain is OFF. The queue begins with PART_RESET, and the tables, settings, tier, reserve, part time and next session id are
kept (R15). That D0 is kept too where a switch-off of it is held at the reply's end, the reset being performed before the report that would
release it, is the model's reading (assumption log 14). -/
def Obligations.SoftwareResetCleansUp : Prop :=
  ∀ s : State, s.held = false → s.lnk.reply.isSome = true → s.lnk.resetDue = true → s.evq.policy = .keepOldest → BetweenEvents s →
    let high := s.mdc.ign.debounced
    let cutoff := high = false ∧ s.btm.tier = .cutoff
    let reset := fun t : State => t.ssc.sessions = [] ∧ t.wsc.sched = [] ∧ t.lnk.inbound = [] ∧ t.lnk.reply = none ∧
      t.lnk.resetDue = false ∧ t.lnk.linkFault = false ∧ t.lnk.armed = false ∧ t.lnk.frameErrors = 0 ∧ t.lnk.overrun = false ∧
      t.mdc.mode = (if high then .drive else if s.btm.tier = .cutoff then .cutoff else .handover) ∧
      (t.mdc.driveHold = true ↔ high = true) ∧ (t.mdc.handoverHold = true ↔ high = false ∧ ¬ cutoff) ∧
      (t.mdc.alwaysHold = true ↔ ¬ cutoff) ∧
      (t.mdc.handoverTimer = if high = false ∧ s.btm.tier ≠ .cutoff ∧ s.mdc.parkedFlag = true then
        some (s.mdc.handoverTimeout * 1000) else none) ∧
      [s.recordOf .partReset (if high then 0 else 1) 1 none] <+: t.evq.events ∧ t.evq.lost = 0 ∧
      (∀ l, (t.line l).mute = none ∧ (t.line l).window = none ∧ (t.line l).nuisance = 0 ∧ (t.line l).mutedTriggers = 0 ∧
        (t.line l).act = (s.line l).act ∧ (t.line l).debounced = (s.line l).debounced ∧ t.approach l = { listen := none, repeats := 0 }) ∧
      (∀ d, (t.dom d).state ≠ .latched ∧ (t.dom d).depReported = false) ∧
      (RampSound s → TreeSound s → ∀ d, (d ≠ 0 → (t.dom d).attempts = 0 ∧ (t.demand d = 0 → (t.dom d).state = .off)) ∧
        (cutoff → (t.dom d).state = .off)) ∧
      t.adm = s.adm ∧ t.btm = { s.btm with fall := 0, rise := 0 } ∧ t.chm.reserve = s.chm.reserve ∧
      t.chm.reserveRem = s.chm.reserveRem ∧ t.chm.baseline = s.chm.baseline ∧ t.chm.floorMah = s.chm.floorMah ∧
      t.wsc.seconds = s.wsc.seconds ∧ t.ssc.nextId = s.ssc.nextId ∧ t.lnk.locked = s.lnk.locked ∧ t.lnk.limit = s.lnk.limit ∧
      t.mdc.parkedFlag = s.mdc.parkedFlag ∧ t.mdc.handoverTimeout = s.mdc.handoverTimeout ∧
      (∀ d, (t.dom d).entry = (s.dom d).entry) ∧ (∀ l, (t.line l).entry = (s.line l).entry)
    let kept := RampSound s ∧ TreeSound s ∧ (s.dom 0).entry.enabled = true ∧ ¬ cutoff
    (∃ t, exec .replyEnd s = .next t ∧ reset t ∧
      (kept → s.linkLive = true → (t.dom 0).state = .on ∧ (t.dom 0).attempts = (s.dom 0).attempts ∧ t.lnk.receiver = .hunting)) ∧
    (s.linkLive = true → (s.dom 0).pgPin = false → ∃ t, exec (.pgLoss 0) s = .next t ∧ reset t ∧ t.lnk.receiver = .dead ∧
      (kept → (t.dom 0).state = .queued ∨ (t.dom 0).state = .ramping ∨ (t.dom 0).state = .faultWait))

/-- EVENTS_READ removes the oldest records, one after the other, while fewer than the maximum are removed and their bytes come to at most
56, and no more; the reply carries their number, the lost count as it stood, and the records; the lost count returns to 0. A maximum of 0
or above 8 is refused BAD_FIELD, with nothing changed. It is taken in every mode, whatever the lock and LINK_FAULT (R169). -/
def Obligations.EventsReadTakesTheOldest : Prop :=
  ∀ (m : Byte) (s : State), Listening s →
    (m.toNat = 0 ∨ 8 < m.toNat → exec (.eventsRead [m]) s = .next (s.answered 0x02 .badField [])) ∧
    (1 ≤ m.toNat → m.toNat ≤ 8 →
      ∃ k t, exec (.eventsRead [m]) s = .next t ∧ k ≤ s.evq.events.length ∧ k ≤ m.toNat ∧
        ((s.evq.events.take k).flatMap eventBytes).length ≤ 56 ∧
        (k < m.toNat → k < s.evq.events.length → 56 < ((s.evq.events.take (k + 1)).flatMap eventBytes).length) ∧
        t.evq.events = s.evq.events.drop k ∧ t.evq.lost = 0 ∧
        t.replies 0x02 .ok ([byte k, byte s.evq.lost] ++ (s.evq.events.take k).flatMap eventBytes) ∧
        t.frame = s.frame ∧ t.dmc = s.dmc ∧ t.rmp = s.rmp)

/-- The requests that only report change nothing but what every reply changes: STATUS_GET (R184), DOMAIN_GET (R19), LINE_GET (R51), and
SESSION_LIST, which returns the records from a place on, as many as 56 bytes hold (R104). That STATUS_GET reports the frame-error counter as
0, the frame's taking having returned it to 0 before (R177 step 2), is the model's reading (assumption log 21). -/
def Obligations.ReportsChangeNothing : Prop :=
  ∀ s : State, Listening s →
    exec (.statusGet []) s = .next (s.answered 0x01 .ok (State.statusPayload { s with lnk.frameErrors := 0 })) ∧
    (∀ d : DomId, exec (.domainGet [byte d.val]) s = .next (s.answered 0x11 .ok (s.domainPayload d))) ∧
    (∀ l : LineId, exec (.lineGet [byte l.val]) s = .next (s.answered 0x19 .ok (s.linePayload l))) ∧
    (∀ b : Byte, 11 < b.toNat → exec (.domainGet [b]) s = .next (s.answered 0x11 .badField [])) ∧
    (∀ b : Byte, 15 < b.toNat → exec (.lineGet [b]) s = .next (s.answered 0x19 .badField [])) ∧
    (∀ b : Byte, 5 < b.toNat → exec (.sessionList [b]) s = .next (s.answered 0x43 .badField [])) ∧
    (∀ b : Byte, b.toNat ≤ 5 → ∃ k,
      let after := s.ssc.sessions.drop b.toNat
      k ≤ after.length ∧ ((after.take k).flatMap sessionBytes).length ≤ 56 ∧
      (k < after.length → 56 < ((after.take (k + 1)).flatMap sessionBytes).length) ∧
      exec (.sessionList [b]) s = .next (s.answered 0x43 .ok
        ([byte s.ssc.sessions.length, byte k] ++ (after.take k).flatMap sessionBytes)))


/-! ## Pins and modes -/

/-- A change of a pin's level starts, restarts or ends the time for which the level must be held: IGN and SERVICE 20 ms (R1), PG 1 ms
(R22), a wake line its debounce time (R52); a level that the pin has already changes nothing. The end of SERVICE's interval takes the level
held, which the lock reads from the next request on; the end of IGN's interval at the debounced level changes only the interval (R1). On a
line with debounce 0 a change away from the debounced level is a stable change at once (R52), which does what `StableChange` says, on an
enabled line too (R53, R54, R56). -/
def Obligations.LevelsAreDebounced : Prop :=
  (∀ (s : State) (high : Bool), s.held = false →
    (high = s.mdc.ign.pin → exec (.ignLevelChange high) s = .next s) ∧
    (high ≠ s.mdc.ign.pin → (high ≠ s.mdc.ign.debounced ∨ s.mdc.ign.interval ≠ none) →
      exec (.ignLevelChange high) s = .next { s with mdc.ign.pin := high, mdc.ign.interval := some 20 }) ∧
    (high = s.mdc.service.pin → exec (.serviceLevelChange high) s = .next s) ∧
    (high ≠ s.mdc.service.pin → (high ≠ s.mdc.service.debounced ∨ s.mdc.service.interval ≠ none) →
      exec (.serviceLevelChange high) s = .next { s with mdc.service.pin := high, mdc.service.interval := some 20 }) ∧
    (∀ d : DomId, high = (s.dom d).pgPin → exec (.pgPinChange d high) s = .next s) ∧
    (∀ d : DomId, high ≠ (s.dom d).pgPin → exec (.pgPinChange d high) s =
      .next (s.updDom d (fun x => { x with pgPin := high, pgQual := if x.pgQual = 0 then 1 else 0 }))) ∧
    (∀ l : LineId, high = (s.line l).pin → BetweenEvents s → ∃ t, exec (.wlPinChange l high) s = .next t ∧ t.frame = s.frame) ∧
    (∀ l : LineId, (s.line l).entry.debounce ≠ 0 → high ≠ (s.line l).pin →
      (high ≠ (s.line l).debounced ∨ (s.line l).interval ≠ none) → BetweenEvents s →
      ∃ t, exec (.wlPinChange l high) s = .next t ∧ t.frame =
        (s.updLine l (fun x => { x with pin := high, interval := some x.entry.debounce })).frame) ∧
    (∀ l : LineId, (s.line l).entry.debounce = 0 → high ≠ (s.line l).pin → high ≠ (s.line l).debounced → BetweenEvents s →
      StableChange (.wlPinChange l high) s s l high)) ∧
  (∀ (s : State) (n : Nat), Ready s →
    (s.mdc.service.interval = some n → ∃ t, exec .serviceDebounceEnd s = .next t ∧
      t.mdc.service = { pin := s.mdc.service.pin, debounced := s.mdc.service.pin, interval := none } ∧
      t.frame = { s.lapse n with mdc.service.debounced := s.mdc.service.pin, mdc.service.interval := none }.frame) ∧
    (s.mdc.ign.interval = some n → s.mdc.ign.pin = s.mdc.ign.debounced → ∃ t, exec .ignDebounceEnd s = .next t ∧
      t.frame = { s.lapse n with mdc.ign.interval := none }.frame))

/-- A debounced rise of IGN enters DRIVE: MODE_CHANGED with IGNITION_ON, the handover timer stopped, every session closed, every line
IDLE with its repeat count kept, the drive and always-on holds placed, the 250 ms period, the reserve kept; each session's SESSION_CLOSED
carries IGNITION, in table order, after MODE_CHANGED (R4, R118). -/
def Obligations.IgnitionOnEntersDrive : Prop :=
  ∀ (s : State) (n : Nat), Ready s → s.mdc.ign.interval = some n → s.mdc.ign.pin = true → s.mdc.ign.debounced = false →
    s.mdc.mode ≠ .drive →
    ∃ t, exec .ignDebounceEnd s = .next t ∧ t.mdc.mode = .drive ∧ t.mdc.ign.debounced = true ∧ t.mdc.handoverTimer = none ∧
      t.mdc.driveHold = true ∧ t.mdc.handoverHold = false ∧ t.mdc.alwaysHold = true ∧ t.mdc.sub = none ∧
      t.ssc = { s.ssc with sessions := [] } ∧ (∀ l, t.approach l = { s.approach l with listen := none }) ∧
      t.chm.period = 250 ∧ t.chm.reserve = s.chm.reserve ∧ t.chm.reserveRem = s.chm.reserveRem ∧
      t.wlu = (s.lapse n).wlu ∧ t.wsc = (s.lapse n).wsc ∧ t.adm = s.adm ∧ t.btm = s.btm ∧
      (∀ d, (t.dom d).entry = (s.dom d).entry) ∧
      (s.roomFor 1 → t.recorded s [(s.lapse n).recordOf .modeChanged 0 0 none]) ∧
      (SessionsSound s → s.roomFor (1 + s.ssc.sessions.length) →
        t.recorded s (s.recordOf .modeChanged 0 0 none :: s.ssc.sessions.map (s.closing 7)))

/-- A debounced fall of IGN in DRIVE enters HANDOVER, or CUTOFF through it while the tier is CUTOFF: MODE_CHANGED with IGNITION_OFF, the
holds swapped, the timer started if the device has been parked since power-on (R6, R11); with no entry PENDING nothing else of the frame
changes. A PENDING entry, here the only one, is evaluated by the part seconds then, and may fire (R159, R161), or, where its due time lies
ahead again, is WAITING. -/
def Obligations.IgnitionOffEntersHandover : Prop :=
  ∀ (s : State) (n : Nat), Ready s → s.mdc.ign.interval = some n → s.mdc.ign.pin = false → s.mdc.ign.debounced = true →
    s.mdc.mode = .drive →
    let w := s.lapse n
    let stays := s.btm.tier ≠ .cutoff
    let u : State := { w with mdc := { w.mdc with
      ign := { pin := false, debounced := false, interval := none }, mode := if stays then .handover else .cutoff,
      driveHold := false, handoverHold := decide stays, alwaysHold := decide stays,
      handoverTimer := if stays ∧ s.mdc.parkedFlag = true then some (s.mdc.handoverTimeout * 1000) else none } }
    let changed := w.recordOf .modeChanged 1 1 none
    ∃ t, exec .ignDebounceEnd s = .next t ∧ { t.mdc with sub := none } = { u.mdc with sub := none } ∧
      t.chm.reserve = s.chm.reserve ∧ t.chm.reserveRem = s.chm.reserveRem ∧ t.btm = s.btm ∧ t.adm = s.adm ∧
      (s.roomFor 1 → t.recorded s [changed]) ∧
      ((∀ e ∈ s.wsc.sched, e.pending = false) → t.frame = u.frame) ∧
      (∀ e ∈ s.wsc.sched, ScheduleSound s → stays → e.pending = true → (∀ x ∈ s.wsc.sched, x.pending = true → x = e) →
        (e.due ≤ s.wsc.seconds → t.evaluated u [changed] e) ∧
        (s.wsc.seconds < e.due → t.frame = { u with
          wsc.sched := s.wsc.sched.map (fun x : SchedEntry => if x.id = e.id then { x with pending := false } else x) }.frame))

/-- Power-on reset holds the device in reset, every EN off and every block at its power-on values; leaving it sets the mode by IGN, with
the one record PART_RESET, the first demand on D0 alone; with every input low the state is the one after reset (R14). That the blocks
stand at their power-on values while the device is held, and that a PG level standing at its end is taken at once, are the model's choices
(assumption logs 10 and 31). -/
def Obligations.PowerOnSetsEveryBlock : Prop :=
  ∀ s : State,
    (∃ t, exec .powerOnReset s = .next t ∧ t.held = true ∧ (∀ d, (t.dom d).en = false ∧ (t.dom d).state = .off) ∧
      t.ssc.sessions = [] ∧ t.wsc = Wsc.powerOn ∧ t.chm = Chm.powerOn ∧ t.btm = Btm.powerOn ∧ t.lnk = Lnk.powerOn ∧
      t.evq.attn = false ∧ t.pending = s.pending ∧ t.mdc.ign.pin = s.mdc.ign.pin ∧ t.mdc.service.pin = s.mdc.service.pin) ∧
    (s.held = true → ∃ t, exec .leaveReset s = .next t ∧ t.held = false ∧
      t.mdc = Mdc.powerOn s.mdc.ign.pin s.mdc.service.pin ∧
      t.evq.events = [{ kind := .partReset, time := 0, subject := if s.mdc.ign.pin then 0 else 1, detail := 0, value := none }] ∧
      (t.dom 0).state = (if (s.dom 0).pgPin then .on else .ramping) ∧ (∀ d, d ≠ 0 → (t.dom d).state = .off) ∧
      (∀ d, (t.dom d).entry = if d = 0 then DomainEntry.powerOnD0 else DomainEntry.powerOn) ∧
      (∀ l, t.line l = Line.powerOn (s.line l).pin) ∧ (∀ c, t.cls c = ClassEntry.powerOn) ∧
      t.chm = Chm.powerOn ∧ t.btm = Btm.powerOn ∧ t.wsc = Wsc.powerOn ∧ t.ssc = { sessions := [], nextId := 1 }) ∧
    (s.held = true → s.mdc.ign.pin = false → s.mdc.service.pin = false → (∀ d, (s.dom d).pgPin = false) →
      (∀ l, (s.line l).pin = false) →
      exec .leaveReset s = .next { State.reset with pending := s.pending, freeIdx := s.freeIdx })

/-- The handover timer's expiry enters PARKED with the cause HANDOVER_TIMEOUT: the timer stops, the handover hold is released, the
reserve stays (R7, R8); where no level line waits with a pending activation, nothing else of the frame changes. An enabled level line,
here a RECORD line and the only one whose activation waits, triggers with the edge LEVEL unless it is muted (R8 step 5, R55). -/
def Obligations.HandoverTimeoutParks : Prop :=
  ∀ (s : State) (n : Nat), Ready s → s.mdc.handoverTimer = some n →
    let w := s.lapse n
    let u : State := { w with mdc := { w.mdc with
      mode := .parked, handoverTimer := none, driveHold := false, handoverHold := false, alwaysHold := true } }
    let changed := w.recordOf .modeChanged 2 2 none
    ∃ t, exec .handoverTimeout s = .next t ∧ { t.mdc with sub := none } = { u.mdc with sub := none } ∧ t.mdc.sub = t.subNow ∧
      t.chm.period = samplePeriod .parked t.mdc.sub ∧ t.chm.reserve = s.chm.reserve ∧ t.adm = s.adm ∧ t.btm = s.btm ∧
      (s.roomFor 1 → t.recorded s [changed]) ∧
      ((∀ l, (s.line l).act ≠ .pending) → t.frame = u.frame) ∧
      (∀ l, (∀ k, (s.line k).act = .pending ↔ k = l) → (s.line l).entry.enabled = true → (s.line l).entry.role = .record →
        (s.line l).mute = none → (s.line l).entry.triggerMode = .levelHigh ∨ (s.line l).entry.triggerMode = .levelLow →
        t.frame = (u.updLine l (fun x => { x with act := .spent })).frame ∧
        (s.roomFor 2 → t.recorded s [changed, s.recordOf .lineRecord l.val 2 none]))

/-- PARK sets the reserve and clears its remainder, ends every mute with cause PARK, in line index order, sets the flag and leaves the mode
PARKED; in DRIVE and CUTOFF it is refused WRONG_MODE (R9, R63). With no activation that waits, nothing else of the frame changes, unless an
entry is past due: here the only one, it is evaluated against the new reserve, and may fire (R9 step 5, R158, R159). An enabled level line,
here a RECORD line and the only one whose activation waits, triggers with the edge LEVEL, muted before or not (R9 step 4, R8 step 5, R55). -/
def Obligations.ParkIsTaken : Prop :=
  ∀ (h l : Byte) (s : State), Listening s →
    (s.mdc.mode = .drive ∨ s.mdc.mode = .cutoff → exec (.park [h, l]) s = .next (s.answered 0x50 .wrongMode [])) ∧
    (s.mdc.mode = .handover ∨ s.mdc.mode = .parked →
      let leaving := s.mdc.mode = .handover
      let muted := lineIds.filter (fun k => (s.line k).mute.isSome)
      let before := muted.map (fun k => s.recordOf .lineUnmuted k.val 2 (some (s.line k).mutedTriggers)) ++
        if leaving then [s.recordOf .modeChanged 2 3 none] else []
      let ended := fun x : Line =>
        if x.mute.isSome then { x with mute := none, window := none, nuisance := 0, mutedTriggers := 0 } else x
      let u : State := { s with
        chm.reserve := nat16 h l * 3600, chm.reserveRem := 0, wlu.lines := s.wlu.lines.map ended
        mdc := { s.mdc with
          mode := .parked, parkedFlag := true, handoverTimer := if leaving then none else s.mdc.handoverTimer,
          driveHold := if leaving then false else s.mdc.driveHold, handoverHold := if leaving then false else s.mdc.handoverHold,
          alwaysHold := if leaving then true else s.mdc.alwaysHold } }
      ∃ t, exec (.park [h, l]) s = .next t ∧ t.replies 0x50 .ok [] ∧
        t.mdc.mode = .parked ∧ t.mdc.parkedFlag = true ∧ t.chm.reserve = nat16 h l * 3600 ∧ t.chm.reserveRem = 0 ∧
        (leaving → t.mdc.handoverTimer = none ∧ t.mdc.handoverHold = false ∧ t.mdc.alwaysHold = true) ∧
        (¬ leaving → t.mdc.handoverTimer = s.mdc.handoverTimer ∧ t.mdc.handoverHold = s.mdc.handoverHold) ∧
        (∀ k, (t.line k).mute = none) ∧
        (∀ k, (s.line k).mute.isSome = true → (t.line k).nuisance = 0 ∧ (t.line k).mutedTriggers = 0 ∧ (t.line k).window = none) ∧
        (∀ k, (s.line k).mute = none → (t.line k).nuisance = (s.line k).nuisance) ∧
        t.wsc.seconds = s.wsc.seconds ∧ t.adm = s.adm ∧ t.btm = s.btm ∧
        (s.roomFor before.length → t.recorded s before) ∧
        ((∀ k, (s.line k).act ≠ .pending) →
          ((∀ e ∈ s.wsc.sched, s.wsc.seconds < e.due) → t.frame = u.frame) ∧
          (∀ e ∈ s.wsc.sched, ScheduleSound s → e.due ≤ s.wsc.seconds → (∀ x ∈ s.wsc.sched, x.due ≤ s.wsc.seconds → x = e) →
            t.evaluated u before e)) ∧
        (∀ k, (∀ j, (s.line j).act = .pending ↔ j = k) → (s.line k).entry.enabled = true → (s.line k).entry.role = .record →
          (s.line k).entry.triggerMode = .levelHigh ∨ (s.line k).entry.triggerMode = .levelLow →
          (∀ e ∈ s.wsc.sched, s.wsc.seconds < e.due) →
          t.frame = (u.updLine k (fun x => { x with act := .spent })).frame ∧
          (s.roomFor (before.length + 1) → t.recorded s (before ++ [s.recordOf .lineRecord k.val 2 none]))))

/-! ## Domains -/

/-- DOMAIN_SET writes the entry, its ramp timeout clamped, and nothing else of the frame; it is refused BAD_FIELD where a field is out of
range or the tree would break, and DOMAIN_ACTIVE where an active domain would change its enabled, always-on or parent field (R17,
R18). Under the lock too, where the entry is not protected or SERVICE is high (R180). Out of range are an index above 11, a run current
above 20,000 mA, a priority above 3, a retry delay of 0 or above 60 s, and a parent that is not lower than the domain's own index. -/
def Obligations.DomainSetIsTaken : Prop :=
  ∀ (d : DomId) (p : List Byte) (s : State), Listening s → p.length = 9 →
    (∀ f c1 c0 q t1 t0 h pr rd : Byte, p = [f, c1, c0, q, t1, t0, h, pr, rd] → (readDomainEntry d p = none ↔
      20000 < nat16 c1 c0 ∨ 3 < pr.toNat ∨ rd.toNat = 0 ∨ 60 < rd.toNat ∨ (q ≠ 0xFF ∧ d.val ≤ q.toNat))) ∧
    (∀ i : Byte, s.lnk.linkFault = false → 11 < i.toNat → exec (.domainSet (i :: p)) s = .next (s.answered 0x10 .badField [])) ∧
    (s.entryWritable (s.dom d).entry.guarded →
      (readDomainEntry d p = none → exec (.domainSet (byte d.val :: p)) s = .next (s.answered 0x10 .badField [])) ∧
      (∀ e, readDomainEntry d p = some e →
        let broken := (e.enabled = true ∧ ∃ q, e.parent = some q ∧ (s.dom q).entry.enabled = false) ∨
          (e.enabled = false ∧ ∃ c, c ≠ d ∧ (s.dom c).entry.enabled = true ∧ (s.dom c).entry.parent = some d)
        let active := (s.dom d).state ≠ .off ∧ (e.enabled ≠ (s.dom d).entry.enabled ∨ e.alwaysOn ≠ (s.dom d).entry.alwaysOn ∨
          e.parent ≠ (s.dom d).entry.parent)
        (broken → exec (.domainSet (byte d.val :: p)) s = .next (s.answered 0x10 .badField [])) ∧
        (¬ broken → active → exec (.domainSet (byte d.val :: p)) s = .next (s.answered 0x10 .domainActive [])) ∧
        (¬ broken → ¬ active → ∃ t, exec (.domainSet (byte d.val :: p)) s = .next t ∧
          t.replies 0x10 (if e.rampTimeout = 0 ∨ 2000 < e.rampTimeout then .clamped else .ok) [] ∧
          t.frame = (s.updDom d (fun x => { x with entry := { e with
            rampTimeout := if e.rampTimeout = 0 then 1 else if 2000 < e.rampTimeout then 2000 else e.rampTimeout } })).frame)))

/-- DOMAIN_CLEAR_FAULT returns the attempt count to 0 and leaves neither LATCHED nor FAULT_WAIT; it clears the children's flags where the
domain was LATCHED, and keeps the state of a domain that is ON or RAMPING and wanted (R34). That the children
are those whose entries name the domain now, whichever parent their flags were set under, is the model's choice (assumption log 41). -/
def Obligations.DomainFaultIsCleared : Prop :=
  ∀ (d : DomId) (s : State), Listening s →
    (∀ i : Byte, 11 < i.toNat → exec (.domainClearFault [i]) s = .next (s.answered 0x12 .badField [])) ∧
    (∃ t, exec (.domainClearFault [byte d.val]) s = .next t ∧ t.replies 0x12 .ok [] ∧ t.frame = s.frame ∧
      (t.dom d).attempts = 0 ∧ (t.dom d).state ≠ .latched ∧ (t.dom d).state ≠ .faultWait ∧
      ((s.dom d).state = .latched → ∀ c, (s.dom c).entry.parent = some d → (t.dom c).depReported = false) ∧
      (RampSound s → s.wanted d → ((s.dom d).state = .on ∨ (s.dom d).state = .ramping) →
        (t.dom d).state = (s.dom d).state ∧ (t.dom d).timer = (s.dom d).timer))

/-- Power-good in RAMPING: the timer ends, the slot is given back, and the domain goes ON if it is wanted; unwanted, it goes to HOLDOFF,
or to OFF with a hold-off of 0. Nothing of the frame changes (R26). The slot given back by a wanted domain goes to the eligible entry, one
with no parent or whose parent is ON, the new one among them, that has the highest priority, and among equals came first; with no entry
eligible the queue stays as it is (R40, R42, R43). -/
def Obligations.RampCompletes : Prop :=
  ∀ (d : DomId) (s : State) (n : Nat), Ready s → RampSound s → (s.dom d).state = .ramping → (s.dom d).pgPin = true →
    n = (s.dom d).pgQual →
    let eligible := fun e : DomId =>
      (s.dom e).entry.parent = none ∨ ∃ q, (s.dom e).entry.parent = some q ∧ (q = d ∨ (s.dom q).state = .on)
    let priority := fun e : DomId => (s.dom e).entry.rampPriority
    (s.wanted d → ∃ t, exec (.rampComplete d) s = .next t ∧ t.frame = (s.lapse n).frame ∧ (t.dom d).state = .on ∧
      (t.dom d).en = true ∧ (t.dom d).timer = 0 ∧ (t.dom d).attempts = (s.dom d).attempts ∧ t.rmp.slotA ≠ some d ∧ t.rmp.slotB ≠ some d ∧
      (ModeSound s → TreeSound s → DemandSound s →
        ((∀ e ∈ s.rmp.queue, ¬ eligible e) → t.rmp.queue = s.rmp.queue) ∧
        (∀ before e after, s.rmp.queue = before ++ e :: after → eligible e →
          (∀ f ∈ before, eligible f → priority f < priority e) → (∀ f ∈ after, eligible f → priority f ≤ priority e) →
          e ∉ t.rmp.queue ∧ (((t.dom e).state = .ramping ∧ (t.dom e).timer = (s.dom e).entry.rampTimeout) ∨ (t.dom e).state = .on)))) ∧
    (s.unwanted d → (s.dom d).entry.holdOff ≠ 0 → ∃ t, exec (.rampComplete d) s = .next t ∧ t.frame = (s.lapse n).frame ∧
      (t.dom d).state = .holdoff ∧ (t.dom d).en = true ∧ (t.dom d).timer = (s.dom d).entry.holdOff * 1000) ∧
    (s.unwanted d → (s.dom d).entry.holdOff = 0 → ∃ t, exec (.rampComplete d) s = .next t ∧ t.frame = (s.lapse n).frame ∧
      (t.dom d).state = .off ∧ (t.dom d).en = false ∧ (t.dom d).attempts = 0)

/-- The ramp timer's expiry in RAMPING raises the attempt count and records NO_POWER_GOOD; a wanted domain goes to FAULT_WAIT for its
retry delay, at the third failure to LATCHED with a second record; an unwanted one goes to OFF (R27, R36). A latch records
DEPENDENCY_BLOCKED after the failures for each QUEUED child not yet reported, in ascending order of index, and no other (R25); that a child's
flag set under a former parent counts as reported is the model's choice (assumption log 41). -/
def Obligations.RampTimeoutIsAFailure : Prop :=
  ∀ (d : DomId) (s : State) (n : Nat), Ready s → RampSound s → (s.dom d).state = .ramping → n = (s.dom d).timer →
    (s.wanted d → (s.dom d).attempts + 1 < 3 → ∃ t, exec (.rampTimeout d) s = .next t ∧ t.frame = (s.lapse n).frame ∧
      (t.dom d).state = .faultWait ∧ (t.dom d).en = false ∧ (t.dom d).timer = (s.dom d).entry.retryDelay * 1000 ∧
      (t.dom d).attempts = (s.dom d).attempts + 1 ∧
      (s.roomFor 1 → t.recorded s [(s.lapse n).recordOf .domainFault d.val 0 (some ((s.dom d).attempts + 1))])) ∧
    (s.wanted d → (s.dom d).attempts + 1 = 3 → ∃ t, exec (.rampTimeout d) s = .next t ∧ t.frame = (s.lapse n).frame ∧
      (t.dom d).state = .latched ∧ (t.dom d).en = false ∧ (t.dom d).attempts = 3 ∧
      (s.roomFor 2 → t.recorded s [(s.lapse n).recordOf .domainFault d.val 0 (some 3),
        (s.lapse n).recordOf .domainFault d.val 2 (some 3)]) ∧
      (PowerSound s →
        let children := domIds.filter (fun c => (s.dom c).entry.parent == some d && (s.dom c).state == .queued)
        let blocked := children.filter (fun c => !(s.dom c).depReported)
        (∀ c ∈ children, (t.dom c).state = .queued ∧ (t.dom c).depReported = true) ∧
        (s.roomFor (2 + blocked.length) → t.evq.events = s.evq.events ++ s.recordOf .domainFault d.val 0 (some 3) ::
          s.recordOf .domainFault d.val 2 (some 3) :: blocked.map (fun c => s.recordOf .dependencyBlocked c.val d.val none)))) ∧
    (s.unwanted d → ∃ t, exec (.rampTimeout d) s = .next t ∧ t.frame = (s.lapse n).frame ∧ (t.dom d).state = .off ∧
      (t.dom d).en = false ∧ (t.dom d).attempts = 0 ∧
      (s.roomFor 1 → t.recorded s [(s.lapse n).recordOf .domainFault d.val 0 (some ((s.dom d).attempts + 1))]))

/-- Power-good lost in ON or HOLDOFF: the domain's children are switched off, the attempt count rises and LOST is recorded, and the
domain goes where a ramp failure would take it, by the demand that is left after its descendants (R30, R27, R36). A latch records
DEPENDENCY_BLOCKED for each child that was QUEUED and not yet reported (R25). -/
def Obligations.PowerGoodLossIsAFailure : Prop :=
  ∀ (d : DomId) (s : State) (n : Nat), Ready s → RampSound s → ((s.dom d).state = .on ∨ (s.dom d).state = .holdoff) →
    (s.dom d).pgPin = false → n = (s.dom d).pgQual → s.lnk.resetDue = false →
    (s.wantedAtLoss d → (s.dom d).attempts + 1 < 3 → ∃ t, exec (.pgLoss d) s = .next t ∧ t.frame = (s.lapse n).frame ∧
      (t.dom d).state = .faultWait ∧ (t.dom d).en = false ∧ (t.dom d).timer = (s.dom d).entry.retryDelay * 1000 ∧
      (t.dom d).attempts = (s.dom d).attempts + 1 ∧ (∀ c, (s.dom c).entry.parent = some d → c ≠ d → (t.dom c).en = false) ∧
      (s.roomFor 1 → t.recorded s [(s.lapse n).recordOf .domainFault d.val 1 (some ((s.dom d).attempts + 1))])) ∧
    (s.wantedAtLoss d → (s.dom d).attempts + 1 = 3 → ∃ t, exec (.pgLoss d) s = .next t ∧ t.frame = (s.lapse n).frame ∧
      (t.dom d).state = .latched ∧ (t.dom d).en = false ∧ (t.dom d).attempts = 3 ∧
      (∀ c, (s.dom c).entry.parent = some d → c ≠ d → (t.dom c).en = false) ∧
      (s.roomFor 2 → t.recorded s [(s.lapse n).recordOf .domainFault d.val 1 (some 3),
        (s.lapse n).recordOf .domainFault d.val 2 (some 3)]) ∧
      (PowerSound s → s.roomFor 14 → ∀ c, (s.dom c).entry.parent = some d → (s.dom c).state = .queued → (s.dom c).depReported = false →
        (t.dom c).depReported = true ∧ s.recordOf .dependencyBlocked c.val d.val none ∈ t.evq.events)) ∧
    (s.unwantedAtLoss d → ∃ t, exec (.pgLoss d) s = .next t ∧ t.frame = (s.lapse n).frame ∧ (t.dom d).state = .off ∧
      (t.dom d).en = false ∧ (t.dom d).attempts = 0 ∧
      (s.roomFor 1 → t.recorded s [(s.lapse n).recordOf .domainFault d.val 1 (some ((s.dom d).attempts + 1))]))

/-- The hold-off's expiry switches an unwanted domain off; the retry timer's expiry takes a wanted one out of FAULT_WAIT into the Ramp
Queue, its attempt count kept. Nothing of the frame changes (R29, R31). -/
def Obligations.HoldOffAndRetryExpire : Prop :=
  ∀ (d : DomId) (s : State) (n : Nat), Ready s → RampSound s → n = (s.dom d).timer →
    ((s.dom d).state = .holdoff → s.unwanted d → (d = 0 → s.lnk.reply = none ∧ s.dmc.d0Held = none) →
      ∃ t, exec (.holdoffExpiry d) s = .next t ∧ t.frame = (s.lapse n).frame ∧ (t.dom d).state = .off ∧ (t.dom d).en = false ∧
        (t.dom d).attempts = 0) ∧
    ((s.dom d).state = .faultWait → s.wanted d → ∃ t, exec (.retryExpiry d) s = .next t ∧ t.frame = (s.lapse n).frame ∧
      ((t.dom d).state = .queued ∨ (t.dom d).state = .ramping ∨ (t.dom d).state = .on) ∧
      (t.dom d).attempts = (s.dom d).attempts)

/-- D0's switch-off waits for the reply: a hold-off that expires while a reply is being sent leaves D0 in HOLDOFF with EN on and its timer
ended, and the reply's end switches D0 off, and the link with it, if D0 is still unwanted (R35, R182). -/
def Obligations.D0WaitsForTheReply : Prop :=
  ∀ (s : State) (n : Nat), Ready s → RampSound s → (s.dom 0).state = .holdoff → s.unwanted 0 → s.lnk.reply.isSome = true →
    (n = (s.dom 0).timer → s.dmc.d0Held = none → ∃ t, exec (.holdoffExpiry 0) s = .next t ∧ t.frame = (s.lapse n).frame ∧
      (t.dom 0).state = .holdoff ∧ (t.dom 0).en = true ∧ (t.dom 0).timer = 0 ∧ t.dmc.d0Held = some .demandGone ∧
      t.lnk = (s.lapse n).lnk) ∧
    (n = s.lnk.replyLeft → s.dmc.d0Held = some .demandGone → s.lnk.resetDue = false → ∃ t, exec .replyEnd s = .next t ∧
      t.frame = (s.lapse n).frame ∧ (t.dom 0).state = .off ∧ (t.dom 0).en = false ∧ t.lnk.receiver = .dead ∧ t.lnk.inbound = [] ∧
      t.lnk.reply = none ∧ t.evq.attn = false)

/-! ## Wake lines and approach qualification -/

/-- LINE_SET writes the entry, its debounce clamped, and arms, disables or mutes the line as the change asks (R49, R50, R55, R62, R63). Out
of range are an index above 15, a trigger mode, role, class or partner that is not one of its kind, a STAGE1 line's own index as partner,
a limit above 15, and a window or a mute time of 0. A line that is enabled, or whose trigger mode changes while it stays enabled, is armed:
at its active level it triggers with the edge LEVEL, which the mode may ignore, a mute counts, and a RECORD line records (R54, R56). Under
the lock too, where the entry is not protected or SERVICE is high (R180). -/
def Obligations.LineSetIsTaken : Prop :=
  ∀ (l : LineId) (p : List Byte) (s : State), Listening s → p.length = 9 →
    (∀ f m d r c q n w t : Byte, p = [f, m, d, r, c, q, n, w, t] → (readLineEntry l p = none ↔
      4 < m.toNat ∨ 3 < r.toNat ∨ 7 < c.toNat ∨ 15 < q.toNat ∨ (r.toNat = 1 ∧ q.toNat = l.val) ∨ 15 < n.toNat ∨ w.toNat = 0 ∨
        t.toNat = 0)) ∧
    (∀ i : Byte, s.lnk.linkFault = false → 15 < i.toNat → exec (.lineSet (i :: p)) s = .next (s.answered 0x18 .badField [])) ∧
    (s.entryWritable (s.line l).entry.guarded →
      (readLineEntry l p = none → exec (.lineSet (byte l.val :: p)) s = .next (s.answered 0x18 .badField [])) ∧
      (∀ e, readLineEntry l p = some e →
        let old := (s.line l).entry
        let e' : LineEntry := { e with debounce := if 250 < e.debounce then 250 else e.debounce }
        let written := fun act : Activation => s.updLine l (fun x => { x with entry := e', act := act })
        let unmuting := (s.line l).mute.isSome = true ∨ e.nuisanceLimit = 0 ∨ (s.line l).nuisance < e.nuisanceLimit
        let armed := e.enabled = true ∧ (old.enabled = false ∨ (old.triggerMode ≠ e.triggerMode ∧ unmuting))
        let active := (e.triggerMode = .levelHigh ∧ (s.line l).debounced = true) ∨ (e.triggerMode = .levelLow ∧ (s.line l).debounced = false)
        ∃ t, exec (.lineSet (byte l.val :: p)) s = .next t ∧ t.replies 0x18 (if 250 < e.debounce then .clamped else .ok) [] ∧
          t.base = (s.updLine l (fun x => { x with entry := e' })).base ∧ (∀ k, k ≠ l → t.line k = s.line k) ∧
          (old.enabled = false → e.enabled = false → t.frame = (s.updLine l (fun x => { x with entry := e' })).frame) ∧
          (old.enabled = true → e.enabled = false → (t.line l).mute = none ∧ (t.line l).window = none ∧ (t.line l).nuisance = 0 ∧
            (t.line l).act = .inactive ∧ t.table = s.table ∧ t.apq = s.apq ∧
            ((s.line l).mute.isSome = true → s.roomFor 1 →
              t.recorded s [s.recordOf .lineUnmuted l.val 3 (some (s.line l).mutedTriggers)])) ∧
          (old.enabled = true → e.enabled = true → old.triggerMode = e.triggerMode → unmuting →
            t.frame = (s.updLine l (fun x => { x with entry := e' })).frame) ∧
          (old.enabled = true → e.enabled = true → old.triggerMode = e.triggerMode → (s.line l).mute = none →
            e.nuisanceLimit ≠ 0 → e.nuisanceLimit ≤ (s.line l).nuisance →
            t.frame = (s.updLine l (fun x => { x with entry := e', window := none, mute := some (e.muteTime * 60000) })).frame ∧
            (s.roomFor 1 → t.recorded s [s.recordOf .lineMuted l.val (s.line l).nuisance (some e.muteTime)])) ∧
          (armed → ¬ active → t.frame = (written .inactive).frame) ∧
          (armed → active → triggerIgnored s.mdc.mode e → t.frame = (written .pending).frame) ∧
          (armed → active → ¬ triggerIgnored s.mdc.mode e → (s.line l).mute.isSome = true → t.frame =
            ((written .spent).updLine l (fun x => { x with mutedTriggers := min 65535 (x.mutedTriggers + 1) })).frame) ∧
          (armed → active → ¬ triggerIgnored s.mdc.mode e → (s.line l).mute = none → e.role = .record →
            t.frame = (written .spent).frame ∧ (s.roomFor 1 → t.recorded s [s.recordOf .lineRecord l.val 2 none]))))

/-- LINE_UNMUTE in any mode, locked or with LINK_FAULT set: a muted line's mute ends with COMMANDED; on another line the window stops and
the nuisance counter returns to 0, with no record; an index above 15 is refused BAD_FIELD (R64). -/
def Obligations.LineUnmuteEndsTheMute : Prop :=
  ∀ (l : LineId) (s : State), Listening s →
    (∀ i : Byte, 15 < i.toNat → exec (.lineUnmute [i]) s = .next (s.answered 0x1A .badField [])) ∧
    ((s.line l).mute = none → exec (.lineUnmute [byte l.val]) s =
      .next ((s.updLine l (fun x => { x with window := none, nuisance := 0 })).answered 0x1A .ok [])) ∧
    ((s.line l).mute.isSome = true → ∃ t, exec (.lineUnmute [byte l.val]) s = .next t ∧ t.replies 0x1A .ok [] ∧
      t.frame = (s.updLine l (fun x => { x with mute := none, window := none, nuisance := 0, mutedTriggers := 0 })).frame ∧
      (s.roomFor 1 → t.recorded s [s.recordOf .lineUnmuted l.val 1 (some (s.line l).mutedTriggers)]))

/-- The ends of a wake line's times. The debounce interval at the debounced level makes no change; at another level it is a stable change,
which does what `StableChange` says: a disabled line only takes the level, a trigger that the mode ignores leaves the activation PENDING,
one that acts is recorded with its edge on a RECORD line and counted on a muted line, its activation SPENT, and a change to the inactive
level ends the activation (R52, R53, R54, R56, R58, R62). The nuisance window's expiry returns the counter to 0 (R61); the mute's records
LINE_UNMUTED with EXPIRED (R63). -/
def Obligations.WakeLineTimesEnd : Prop :=
  ∀ (l : LineId) (s : State) (n : Nat), Ready s →
    ((s.line l).interval = some n → (s.line l).pin = (s.line l).debounced → ∃ t, exec (.wlDebounceEnd l) s = .next t ∧
      t.frame = ((s.lapse n).updLine l (fun x => { x with interval := none })).frame) ∧
    ((s.line l).interval = some n → (s.line l).pin ≠ (s.line l).debounced →
      StableChange (.wlDebounceEnd l) s (s.lapse n) l (s.line l).pin) ∧
    ((s.line l).window = some n → ∃ t, exec (.nuisanceWindowExpiry l) s = .next t ∧
      t.frame = ((s.lapse n).updLine l (fun x => { x with window := none, nuisance := 0 })).frame) ∧
    ((s.line l).mute = some n → ∃ t, exec (.muteExpiry l) s = .next t ∧
      t.frame = ((s.lapse n).updLine l (fun x => { x with
        mute := none, window := none, nuisance := 0, mutedTriggers := 0 })).frame ∧
      (s.roomFor 1 → t.recorded s [s.recordOf .lineUnmuted l.val 0 (some (s.line l).mutedTriggers)]))

/-- What a trigger does by the line's role, outside RECORD and mutes. A DIRECT line asks ADM for its class in FULL: admitted, or refused
CLASS_DISABLED (R57, R97, R98). A STAGE1 line that is IDLE asks for LISTEN, or for FULL where its class has no listen profile; admitted in
LISTEN it becomes LISTENING (R67); it joins the LISTEN session that its class has (R68); while LISTENING it only counts the repeat (R69).
A STAGE2 line that no listening record names as its partner is ignored; one that the records of one session name upgrades it, in FULL
where no charge test stands against that, or is refused with its class (R70, R71, R100). That the upgraded set leaves out the domains
disabled then is the model's choice (assumption log 23), and so is that a session whose upgrade leaves it 0 ms of run time, its elapsed time
at the class's maximum, is still in the table after the event (assumption log 34). -/
def Obligations.TriggersActByRole : Prop :=
  ∀ (l : LineId) (s : State) (n : Nat), Ready s → FormsTrigger s l n → (s.line l).mute = none →
    let u := s.stableAt l n
    let e := (s.line l).entry
    let c := s.cls e.cls
    let asks := fun w : Profile => Admissible u e.cls ∧ u.yieldsNone c ∧ u.fits c (u.profileCost c w) = true
    let admits := fun (w : Profile) (apq : Nat → Apq) => ∃ t id, exec (.wlDebounceEnd l) s = .next t ∧
      t.admitted u u (lineRequest e.cls l w) id w (apq id) ∧
      (s.roomFor 1 → t.recorded s [s.recordOf .wakeAdmitted id w.code (some (tenths16 (u.profileCost c w)))])
    let refused := fun (x : ClassId) => ∃ t, exec (.wlDebounceEnd l) s = .next t ∧ t.frame = u.frame ∧
      (s.roomFor 1 → t.recorded s [s.recordOf .wakeRefused x.val 0x43 (some l.val)])
    (e.role = .direct → asks .full → admits .full (fun _ => u.apq)) ∧
    (e.role = .direct → c.enabled = false → refused e.cls) ∧
    (e.role = .stage1 → (u.approach l).listen = none →
      (c.listen = none → asks .full → admits .full (fun _ => u.apq)) ∧
      (∀ p, c.listen = some p → asks .listen → admits .listen (fun id => (u.updApproach l (fun a => { a with
        listen := some { session := id, partner := e.partner, window := p.amount * 100 } })).apq)) ∧
      (c.enabled = false → refused e.cls) ∧
      (∀ p x, c.listen = some p → c.enabled = true → tierPasses s.btm.tier c.minTier = true → u.sessionOf? e.cls = some x →
        x.profile = .listen → l ∉ x.listening →
        let window := min (p.amount * 100) (c.maxDuration * 1000 - x.elapsed)
        let added := window - x.remaining
        ∃ t, exec (.wlDebounceEnd l) s = .next t ∧
          (window = 0 → t.frame = u.frame ∧ (s.roomFor 1 → t.recorded s [s.recordOf .wakeCoalesced x.id 1 (some 0)])) ∧
          (window ≠ 0 → t.frame = ((u.updSession x.id (fun y => { y with
              listening := y.listening ++ [l], remaining := y.remaining + added,
              estimate := y.estimate + ceilDiv (x.listenCurrent.getD 0 * added) 1000 })).updApproach l (fun a => { a with
                listen := some { session := x.id, partner := e.partner, window := window } })).frame ∧
            (s.roomFor 1 → t.recorded s [s.recordOf .wakeCoalesced x.id 4 (some (secondsUp added))])))) ∧
    (e.role = .stage1 → (u.approach l).listen.isSome = true → ∃ t, exec (.wlDebounceEnd l) s = .next t ∧
      t.frame = (u.updApproach l (fun a => { a with repeats := min 65535 (a.repeats + 1) })).frame) ∧
    (e.role = .stage2 →
      let matched := fun x : Session => ∃ k r, (u.approach k).listen = some r ∧ r.partner = l ∧ r.session = x.id
      ((∀ x ∈ u.ssc.sessions, ¬ matched x) → ∃ t, exec (.wlDebounceEnd l) s = .next t ∧ t.frame = u.frame) ∧
      (∀ x ∈ u.ssc.sessions, SessionsSound s → matched x → (∀ y ∈ u.ssc.sessions, matched y → y = x) →
        let k := s.cls x.cls
        let cost := u.profileCost k .full
        (k.enabled = false → refused x.cls) ∧
        (k.enabled = true → tierPasses s.btm.tier k.minTier = true →
          (x.active = false ∨ s.exempt k = true ∨ cost ≤ u.headroom [x.id]) → ∃ t, exec (.wlDebounceEnd l) s = .next t ∧
            t.frame = ((u.updSession x.id (fun _ => u.upgradedSession x .full cost)).idleLines x.listening).frame ∧
            (s.roomFor 1 → t.recorded s [s.recordOf .sessionUpgraded x.id 1 (some (tenths16 (x.drawn + cost)))]))))

/-- A listen window's expiry records APPROACH_EXPIRED and returns the line to IDLE; a line that is enabled and not muted is counted once.
At the nuisance limit the count stops the window, mutes the line for its mute time and records LINE_MUTED (R60, R62). With another line
listening the session goes on without this one (R75); the last line's expiry closes the session (R76). -/
def Obligations.ApproachExpires : Prop :=
  ∀ (l : LineId) (r : Listen) (x : Session) (s : State), Ready s → (s.approach l).listen = some r →
    s.session? r.session = some x → x.active = true →
    let u := s.lapse r.window
    (∃ t, exec (.approachExpired l) s = .next t ∧ (t.approach l).listen = none ∧ (t.approach l).repeats = (s.approach l).repeats ∧
      (s.roomFor 1 → t.recorded s [s.recordOf .approachExpired l.val r.session none]) ∧
      ((s.line l).entry.enabled = false ∨ (s.line l).mute.isSome = true → t.wlu = u.wlu) ∧
      ((s.line l).entry.enabled = true → (s.line l).mute = none →
        (¬ (s.line l).atLimit → t.wlu = (u.updLine l Line.counted).wlu) ∧
        ((s.line l).atLimit → t.wlu = (u.updLine l Line.countedOut).wlu ∧
          (s.roomFor 2 → t.recorded s [s.recordOf .approachExpired l.val r.session none, s.muting l]))) ∧
      (x.listening.filter (· != l) ≠ [] →
        t.table = (u.updSession r.session (fun y => { y with listening := x.listening.filter (· != l) })).table) ∧
      (x.listening.filter (· != l) = [] → ∀ y ∈ t.ssc.sessions, y.id ≠ r.session))

/-! ## Classes and sessions -/

/-- CLASS_SET writes the class's entry; it is refused BAD_FIELD where a field is out of range, or where the minimum tier would change
under a session; a SUSPENDED session that has outstayed the new limit closes EXPIRED (R80, R81, R123). Under the lock too, where the
entry is not protected or SERVICE is high (R180). Out of range are an index or a priority above 7, a tier above 3, a set with a domain above
11, a full duration of 0 or above 3,600 s, a reduced one of 0, above 3,600 s or above the maximum, a listen window of 0, a cap of 0, a
maximum of 0, above 7,200 s or below the full duration, and an extension or suspension limit above 3,600 s; a profile that is not present
is not looked at. -/
def Obligations.ClassSetIsTaken : Prop :=
  ∀ (c : ClassId) (p : List Byte) (s : State), Listening s → p.length = 24 →
    (∀ f pr mt fs1 fs0 fd1 fd0 rs1 rs0 rd1 rd0 ls1 ls0 lw o1 o0 cc1 cc0 md1 md0 el1 el0 sl1 sl0 : Byte,
      p = [f, pr, mt, fs1, fs0, fd1, fd0, rs1, rs0, rd1, rd0, ls1, ls0, lw, o1, o0, cc1, cc0, md1, md0, el1, el0, sl1, sl0] →
      (readClassEntry p = none ↔
        7 < pr.toNat ∨ 3 < mt.toNat ∨ 4096 ≤ nat16 fs1 fs0 ∨ nat16 fd1 fd0 = 0 ∨ 3600 < nat16 fd1 fd0 ∨
        (f.getLsbD 5 = true ∧
          (4096 ≤ nat16 rs1 rs0 ∨ nat16 rd1 rd0 = 0 ∨ 3600 < nat16 rd1 rd0 ∨ nat16 md1 md0 < nat16 rd1 rd0)) ∨
        (f.getLsbD 6 = true ∧ (4096 ≤ nat16 ls1 ls0 ∨ lw.toNat = 0)) ∨ nat16 cc1 cc0 = 0 ∨ nat16 md1 md0 = 0 ∨ 7200 < nat16 md1 md0 ∨
        nat16 md1 md0 < nat16 fd1 fd0 ∨ 3600 < nat16 el1 el0 ∨ 3600 < nat16 sl1 sl0)) ∧
    (∀ i : Byte, s.lnk.linkFault = false → 7 < i.toNat → exec (.classSet (i :: p)) s = .next (s.answered 0x20 .badField [])) ∧
    (s.entryWritable (s.cls c).guarded →
      (readClassEntry p = none → exec (.classSet (byte c.val :: p)) s = .next (s.answered 0x20 .badField [])) ∧
      (∀ e, readClassEntry p = some e →
        let outstayed := fun x : Session => x.cls = c ∧ x.active = false ∧ e.suspensionLimit ≠ 0 ∧
          e.suspensionLimit * 1000 ≤ x.suspendedFor.getD 0
        (e.minTier ≠ (s.cls c).minTier → (s.sessionOf? c).isSome = true →
          exec (.classSet (byte c.val :: p)) s = .next (s.answered 0x20 .badField [])) ∧
        ((e.minTier = (s.cls c).minTier ∨ s.sessionOf? c = none) →
          ((∀ x ∈ s.ssc.sessions, ¬ outstayed x) →
            exec (.classSet (byte c.val :: p)) s = .next ((s.setClass c e).answered 0x20 .ok [])) ∧
          (∀ x ∈ s.ssc.sessions, SessionsSound s → outstayed x → ∃ t, exec (.classSet (byte c.val :: p)) s = .next t ∧
            t.replies 0x20 .ok [] ∧ t.cls c = e ∧ (∀ y ∈ t.ssc.sessions, y.id ≠ x.id) ∧
            (s.roomFor 1 → t.recorded s [s.recordOf .sessionClosed x.id 1 (some (tenths16 x.drawn))])))))

/-- CLASS_GET returns the class's entry and the id of its session, or 0, in every mode and whatever the lock; an index above 7 is refused
BAD_FIELD (R82). -/
def Obligations.ClassGetReportsTheEntry : Prop :=
  ∀ s : State, Listening s →
    (∀ c : ClassId, exec (.classGet [byte c.val]) s = .next (s.answered 0x21 .ok ([byte c.val] ++ classEntryBytes (s.cls c) ++
      [byte (match s.sessionOf? c with | some x => x.id | none => 0)]))) ∧
    (∀ b : Byte, 7 < b.toNat → exec (.classGet [b]) s = .next (s.answered 0x21 .badField []))

/-- SESSION_OPEN of an enabled class whose tier passes, with no session of the class, a place free and the cost within the headroom (or no
charge test), admits one new session in the profile asked for, under the counter's id or the next free one; an exclusive class too where
no session may be suspended for it. Where FULL does not fit and REDUCED does, it is admitted REDUCED (R93). It is refused BAD_FIELD for a
class index above 7, a profile that is neither FULL nor REDUCED, and a REDUCED that the class does not have; WRONG_MODE in DRIVE; and,
with its record, CLASS_DISABLED for a disabled class, TIER below the class's minimum tier, TABLE_FULL where six sessions stand and the class
is not essential or every session's is, and NO_CHARGE where no profile fits and the suspension slot is taken or no session may be
suspended (R84 to R95, R97, R98, R103). -/
def Obligations.SessionIsOpened : Prop :=
  ∀ (c : ClassId) (w : Profile) (s : State), Listening s →
    (∀ i b : Byte, 7 < i.toNat ∨ b.toNat = 0 ∨ 2 < b.toNat →
      exec (.sessionOpen [i, b]) s = .next (s.answered 0x40 .badField (openPayload 0 0 0 0))) ∧
    ((s.cls c).reduced = none → exec (.sessionOpen [byte c.val, 2]) s = .next (s.answered 0x40 .badField (openPayload 0 0 0 0))) ∧
    (w ≠ .listen → (w = .reduced → (s.cls c).reduced.isSome = true) →
      let ask := Instr.sessionOpen [byte c.val, byte w.code]
      let k := s.cls c
      let refused := fun why : Result => ∃ t, exec ask s = .next t ∧ t.frame = s.frame ∧ t.replies 0x40 why (openPayload 0 0 0 0) ∧
        (s.roomFor 1 → t.recorded s [s.recordOf .wakeRefused c.val why.code (some 512)])
      let admits := fun p : Profile => ∃ t id, exec ask s = .next t ∧ t.admitted s s (openRequest c w) id p s.apq ∧
        t.replies 0x40 .accepted (openPayload id p.code (tenths16 (s.profileCost k p)) 0) ∧
        (s.roomFor 1 → t.recorded s [s.recordOf .wakeAdmitted id p.code (some (tenths16 (s.profileCost k p)))])
      (s.mdc.mode = .drive → exec ask s = .next (s.answered 0x40 .wrongMode (openPayload 0 0 0 0))) ∧
      (s.mdc.mode ≠ .drive → k.enabled = false → refused .classDisabled) ∧
      (s.mdc.mode ≠ .drive → k.enabled = true → k.minTier.code < s.btm.tier.code → refused .tier) ∧
      (s.mdc.mode ≠ .drive → k.enabled = true → s.btm.tier.code ≤ k.minTier.code → s.sessionOf? c = none →
        (6 ≤ s.ssc.sessions.length → (k.essential = false ∨ ∀ x ∈ s.ssc.sessions, (s.cls x.cls).essential = true) → refused .tableFull) ∧
        (s.ssc.sessions.length < 6 → s.mdc.mode ≠ .handover → k.essential = false →
          (∀ p ∈ profilesTried k w, s.headroom [] < s.profileCost k p) →
          ((∃ x ∈ s.ssc.sessions, x.active = false) ∨ s.yielding k.priority = []) → refused .noCharge)) ∧
      (s.mdc.mode ≠ .drive → Admissible s c → s.yieldsNone k → s.fits k (s.profileCost k w) = true → admits w) ∧
      (s.mdc.mode = .parked ∨ s.mdc.mode = .cutoff → Admissible s c → s.yieldsNone k → k.essential = false → w = .full →
        k.reduced.isSome = true → s.headroom [] < s.profileCost k .full → s.profileCost k .reduced ≤ s.headroom [] → admits .reduced))

/-- How a SESSION_OPEN makes room for its session. An essential class that finds six sessions evicts the one whose class, of those that
are not essential, has the lowest priority, the earliest of equals (R88). Where no profile fits and none is SUSPENDED, the session of the
lowest suspendable class of lower priority is suspended if the profile asked for then fits (R94, R119). An exclusive class has the first
such session suspended, and the others closed PREEMPTED, or all of them where one is SUSPENDED already (R96); their order,
of which R97 part 3 and R118 say different things, is the model's choice (assumption log 32) and is not stated. -/
def Obligations.RoomIsMadeForASession : Prop :=
  ∀ (c : ClassId) (w : Profile) (s : State), Listening s → SessionsSound s → w ≠ .listen →
    (w = .reduced → (s.cls c).reduced.isSome = true) → s.mdc.mode ≠ .drive → (s.cls c).enabled = true →
    tierPasses s.btm.tier (s.cls c).minTier = true → s.sessionOf? c = none →
    let ask := Instr.sessionOpen [byte c.val, byte w.code]
    let k := s.cls c
    let cost := s.profileCost k w
    let admits := fun (t u v : State) (id : Nat) => exec ask s = .next t ∧ t.admitted u v (openRequest c w) id w u.apq ∧
      t.replies 0x40 .accepted (openPayload id w.code (tenths16 cost) 0)
    let admission := fun id : Nat => s.recordOf .wakeAdmitted id w.code (some (tenths16 cost))
    let closing := fun x : Session => s.recordOf .sessionClosed x.id 5 (some (tenths16 x.drawn))
    let waiting := fun id : Nat => fun x : Session => s.recordOf .sessionSuspended x.id id none
    let noneWaitsFor := fun gone : List Session => ∀ x ∈ gone, ∀ y ∈ s.ssc.sessions, y.suspendedBy ≠ some x.id
    (∀ x, s.ssc.sessions.length = 6 → k.essential = true → k.exclusive = false →
      s.ranksFirst x (s.ssc.sessions.filter (fun y => !(s.cls y.cls).essential)) → noneWaitsFor [x] →
      ∃ t id, admits t (s.without [x]) (s.without [x]) id ∧ (s.roomFor 2 → t.recorded s [closing x, admission id])) ∧
    (∀ x, s.ssc.sessions.length < 6 → s.mdc.mode ≠ .handover → k.essential = false → k.exclusive = false →
      (∀ p ∈ profilesTried k w, s.headroom [] < s.profileCost k p) → (∀ y ∈ s.ssc.sessions, y.active = true) →
      s.ranksFirst x (s.yielding k.priority) → cost ≤ s.headroom [x.id] →
      ∃ t id, admits t (s.updSession x.id (·.suspendedUnder id)) s id ∧ (s.roomFor 2 → t.recorded s [waiting id x, admission id])) ∧
    (∀ x, s.ssc.sessions.length < 6 → k.exclusive = true → s.fits k cost = true → (∀ y ∈ s.ssc.sessions, y.active = true) →
      s.ranksFirst x (s.yielding k.priority) → noneWaitsFor (s.yielding k.priority) →
      let others := (s.yielding k.priority).filter (· != x)
      ∃ t id, admits t ((s.without others).updSession x.id (·.suspendedUnder id)) s id ∧
        (s.roomFor 7 → t.recorded s [waiting id x] ∧ admission id ∈ t.evq.events ∧ ∀ y ∈ others, closing y ∈ t.evq.events)) ∧
    (s.ssc.sessions.length < 6 → k.exclusive = true → s.fits k cost = true → (∃ y ∈ s.ssc.sessions, y.active = false) →
      noneWaitsFor (s.yielding k.priority) →
      ∃ t id, admits t (s.without (s.yielding k.priority)) s id ∧
        (s.roomFor 6 → admission id ∈ t.evq.events ∧ ∀ y ∈ s.yielding k.priority, closing y ∈ t.evq.events))

/-- A SESSION_OPEN whose class has a session is coalesced with it. FULL, or REDUCED asked for REDUCED: its run time is lengthened towards
the profile's duration, within the class's maximum, for the added seconds at its set's current, if they fit (R109, R111); SUSPENDED it is
lengthened with no test (R112). REDUCED asked for FULL: it is widened if that fits, and else lengthened (R110). LISTEN: it is upgraded to
the profile asked for, where FULL does not fit and REDUCED does to REDUCED, after a suspension where that makes the profile asked for fit,
or refused NO_CHARGE (R71, R93, R94, R100); that its set then leaves out the domains disabled is the model's choice (assumption log 23),
and so is that a session whose upgrade leaves it 0 ms of run time is still in the table after the event (assumption log 34). Each is
recorded and answered as R113 says (R108). -/
def Obligations.RequestsAreCoalesced : Prop :=
  ∀ (c : ClassId) (w : Profile) (x : Session) (s : State), Listening s → SessionsSound s → w ≠ .listen →
    (w = .reduced → (s.cls c).reduced.isSome = true) → s.mdc.mode ≠ .drive → (s.cls c).enabled = true →
    tierPasses s.btm.tier (s.cls c).minTier = true → s.sessionOf? c = some x →
    let ask := Instr.sessionOpen [byte c.val, byte w.code]
    let k := s.cls c
    let does := fun (u : State) (why : Result) (payload : List Byte) (r : Event) => ∃ t, exec ask s = .next t ∧ t.frame = u.frame ∧
      t.replies 0x40 why payload ∧ (s.roomFor 1 → t.recorded s [r])
    let coalesced := fun (detail value : Nat) => s.recordOf .wakeCoalesced x.id detail (some value)
    let upgraded := fun (p : Profile) (estimate : Nat) => s.recordOf .sessionUpgraded x.id p.code (some (tenths16 estimate))
    let towards := fun d : Nat => min (d * 1000) (k.maxDuration * 1000 - x.elapsed) - x.remaining
    let added := towards (if x.profile = .reduced then (k.reduced.map (·.amount)).getD k.fullDuration else k.fullDuration)
    let seconds := secondsUp added
    let cost := s.sumCurrent x.set * seconds
    let payload := fun (estimate seconds : Nat) => openPayload x.id x.profile.code (tenths16 estimate) seconds
    let full := s.pricedSet k.fullSet
    let now := s.pricedSet x.set
    let wider := s.currentOf (full &&& ~~~now) * k.fullDuration + s.currentOf (full &&& now) * secondsUp (towards k.fullDuration)
    (x.profile ≠ .listen → x.active = true → (x.profile = .full ∨ w = .reduced ∨ s.fits k wider = false) →
      (added = 0 → does s .ok (payload x.estimate 0) (coalesced 1 0)) ∧
      (added ≠ 0 → s.fits k cost = true → does (s.updSession x.id (fun y => { y with
        remaining := y.remaining + added, estimate := y.estimate + cost })) .ok (payload (x.estimate + cost) seconds)
        (coalesced 0 seconds)) ∧
      (added ≠ 0 → s.fits k cost = false → does s .noCharge (openPayload x.id 0 0 0) (coalesced 2 0))) ∧
    (x.profile ≠ .listen → x.active = false →
      (added = 0 → does s .ok (payload x.estimate 0) (coalesced 1 0)) ∧
      (added ≠ 0 → does (s.updSession x.id (fun y => { y with remaining := y.remaining + added })) .ok (payload x.estimate seconds)
        (coalesced 3 seconds))) ∧
    (x.profile = .reduced → x.active = true → w = .full → s.fits k wider = true → does (s.updSession x.id (fun y => { y with
      profile := .full, set := s.enabledOf k.fullSet, remaining := y.remaining + towards k.fullDuration, estimate := y.estimate + wider }))
      .ok (openPayload x.id 1 (tenths16 (x.estimate + wider)) 0) (upgraded .full (x.estimate + wider))) ∧
    (x.profile = .listen →
      let price := s.profileCost k w
      ((x.active = false ∨ s.exempt k = true ∨ price ≤ s.headroom [x.id]) →
        does ((s.updSession x.id (fun _ => s.upgradedSession x w price)).idleLines x.listening) .ok
          (openPayload x.id w.code (tenths16 (x.drawn + price)) 0) (upgraded w (x.drawn + price))) ∧
      (x.active = true → s.exempt k = false → w = .full → k.reduced.isSome = true → s.headroom [x.id] < price →
        s.profileCost k .reduced ≤ s.headroom [x.id] →
        does ((s.updSession x.id (fun _ => s.upgradedSession x .reduced (s.profileCost k .reduced))).idleLines x.listening) .ok
          (openPayload x.id 2 (tenths16 (x.drawn + s.profileCost k .reduced)) 0)
          (upgraded .reduced (x.drawn + s.profileCost k .reduced))) ∧
      (∀ y, x.active = true → s.exempt k = false → (∀ p ∈ profilesTried k w, s.headroom [x.id] < s.profileCost k p) →
        (∀ z ∈ s.ssc.sessions, z.active = true) → s.ranksFirst y (s.yielding k.priority) → price ≤ s.headroom [y.id, x.id] →
        ∃ t, exec ask s = .next t ∧ t.replies 0x40 .ok (openPayload x.id w.code (tenths16 (x.drawn + price)) 0) ∧
          t.frame = (((s.updSession y.id (·.suspendedUnder x.id)).updSession x.id (fun _ =>
            s.upgradedSession x w price)).idleLines x.listening).frame ∧
          (s.roomFor 2 → t.recorded s [s.recordOf .sessionSuspended y.id x.id none, upgraded w (x.drawn + price)])) ∧
      (x.active = true → s.exempt k = false → (∀ p ∈ profilesTried k w, s.headroom [x.id] < s.profileCost k p) →
        ((∃ y ∈ s.ssc.sessions, y.active = false) ∨ s.yielding k.priority = []) →
        does s .noCharge (openPayload x.id 0 0 0) (s.recordOf .wakeRefused c.val 0x41 (some 512))))

/-- SESSION_EXTEND grants the smallest of the seconds asked for, the class's extension left and the run time left below its maximum; a
session that is not SUSPENDED pays for them after a fit test, and the windows of a LISTEN session grow with it (R114, R115, R74). Id 0 is
refused BAD_FIELD and an id that no session has NOT_FOUND. The reply always carries its payload, and R177 has the fields that do not apply
to the outcome 0: that these are all three at BAD_FIELD and NOT_FOUND, and the remaining time and the estimate at NO_CHARGE, is the model's
reading (assumption log 19). -/
def Obligations.SessionIsExtended : Prop :=
  ∀ (i h l : Byte) (s : State), Listening s →
    (i = 0 → exec (.sessionExtend [i, h, l]) s = .next (s.answered 0x41 .badField (extendPayload 0 0 0))) ∧
    (i ≠ 0 → s.session? i.toNat = none →
      exec (.sessionExtend [i, h, l]) s = .next (s.answered 0x41 .notFound (extendPayload 0 0 0))) ∧
    (∀ x, i ≠ 0 → s.session? i.toNat = some x →
      let c := s.cls x.cls
      let n := min (nat16 h l) (min (c.extensionLimit - x.extUsed) ((c.maxDuration * 1000 - x.elapsed - x.remaining) / 1000))
      let cost := s.sumCurrent x.set * n
      let result : Result := if n < nat16 h l then .clamped else .ok
      (n = 0 → exec (.sessionExtend [i, h, l]) s = .next (s.answered 0x41 result
        (extendPayload 0 (secondsUp x.remaining) (tenths16 x.estimate)))) ∧
      (n ≠ 0 → x.active = true → s.fits c cost = false →
        exec (.sessionExtend [i, h, l]) s = .next (s.answered 0x41 .noCharge (extendPayload n 0 0))) ∧
      (n ≠ 0 → x.active = true → s.fits c cost = true → exec (.sessionExtend [i, h, l]) s =
        .next (((s.updSession x.id (fun y => { y with
            remaining := y.remaining + n * 1000, extUsed := y.extUsed + n,
            estimate := if y.active then y.estimate + cost else y.estimate })).lengthenWindows x.listening (n * 1000)).answered
          0x41 result (extendPayload n (secondsUp (x.remaining + n * 1000)) (tenths16 (x.estimate + cost))))) ∧
      (n ≠ 0 → x.active = false → exec (.sessionExtend [i, h, l]) s =
        .next (((s.updSession x.id (fun y => { y with
            remaining := y.remaining + n * 1000, extUsed := y.extUsed + n,
            estimate := if y.active then y.estimate + cost else y.estimate })).lengthenWindows x.listening (n * 1000)).answered
          0x41 result (extendPayload n (secondsUp (x.remaining + n * 1000)) (tenths16 x.estimate)))))

/-- A session closes by SESSION_RELEASE, by the end of its run time, or by its suspension limit: its record leaves the table, its lines
return to IDLE, SESSION_CLOSED carries the reason and the charge drawn. Where no session waits for this one, nothing else of the
frame changes; a SPURIOUS release counts against the line of origin, if that is enabled and not muted, and at the nuisance limit mutes it
(R106, R116, R117, R123, R60, R62). A SESSION_RELEASE of id 0, or with a verdict above 1, is refused BAD_FIELD, and one of an id that no
session has is answered NOT_FOUND (R116). A release in CUTOFF that leaves a domain up for a LATCHED child alone leaves nothing powered that
no session demands, D0 apart, whose switch-off waits for the reply (R32, R33, R35; that all of them go is assumption log 8). -/
def Obligations.SessionCloses : Prop :=
  (∀ (i v : Byte) (s : State), Listening s →
    (i = 0 ∨ 1 < v.toNat → exec (.sessionRelease [i, v]) s = .next (s.answered 0x42 .badField [])) ∧
    (i ≠ 0 → v.toNat ≤ 1 → (∀ x ∈ s.ssc.sessions, x.id ≠ i.toNat) →
      exec (.sessionRelease [i, v]) s = .next (s.answered 0x42 .notFound []))) ∧
  (∀ (x : Session) (s : State), s.session? x.id = some x → (∀ y ∈ s.ssc.sessions, y.suspendedBy ≠ some x.id) →
    let left := fun u : State => State.idleLines { u with
      ssc := { u.ssc with sessions := u.ssc.sessions.filter (fun y => y.id != x.id) } } x.listening
    (∀ v : Byte, Listening s → 1 ≤ x.id → x.id ≤ 255 → (v = 0 ∨ (v = 1 ∧ ∀ l, x.origin ≠ .line l)) →
      ∃ t, exec (.sessionRelease [byte x.id, v]) s = .next t ∧ t.replies 0x42 .ok (be16 (tenths16 x.drawn)) ∧ t.frame = (left s).frame ∧
        (s.roomFor 1 → t.recorded s [s.closing 0 x]) ∧
        (s.mdc.mode = .cutoff → PowerSound s → RampSound s →
          (∃ c e, (s.dom c).entry.parent = some e ∧ (s.dom c).state = .latched ∧ (s.dom e).state ≠ .off ∧ (s.dom e).state ≠ .latched ∧
            (left s).sessionDemands e = false) →
          ∀ d, (left s).sessionDemands d = false → (t.dom d).en = true → d = 0)) ∧
    (∀ l : LineId, Listening s → 1 ≤ x.id → x.id ≤ 255 → x.origin = .line l →
      let counts := (s.line l).entry.enabled = true ∧ (s.line l).mute = none
      ∃ t, exec (.sessionRelease [byte x.id, 1]) s = .next t ∧ t.replies 0x42 .ok (be16 (tenths16 x.drawn)) ∧
        (s.roomFor 1 → t.recorded s [s.closing 0 x]) ∧
        (¬ counts → t.frame = (left s).frame) ∧
        (counts → ¬ (s.line l).atLimit → t.frame = ((left s).updLine l Line.counted).frame) ∧
        (counts → (s.line l).atLimit → t.frame = ((left s).updLine l Line.countedOut).frame ∧
          (s.roomFor 2 → t.recorded s [s.closing 0 x, s.muting l]))) ∧
    (∀ n, Ready s → x.active = true → x.profile ≠ .listen → n = x.remaining →
      ∃ t, exec (.sessionRunExpiry x.id) s = .next t ∧ t.frame = (left (s.lapse n)).frame ∧
        (s.roomFor 1 → t.recorded s [s.closing 1 x])) ∧
    (∀ n, Ready s → x.active = false → (s.cls x.cls).suspensionLimit ≠ 0 →
      n = (s.cls x.cls).suspensionLimit * 1000 - x.suspendedFor.getD 0 →
      ∃ t, exec (.suspensionLimitExpiry x.id) s = .next t ∧ t.frame = (left (s.lapse n)).frame ∧
        (s.roomFor 1 → t.recorded s [s.closing 1 x])))

/-- A SUSPENDED session's run time and windows stand still, and its suspended-for time counts (R119, R120). The closing of its suspender,
here by SESSION_RELEASE, re-admits it at the cost of what it has left, where its tier passes and the cost fits (R121, R122), and else
closes it RESUME_REFUSED. That the cost rounds the product of current and milliseconds up is the model's choice (assumption log 33). -/
def Obligations.SuspendedSessionComesBack : Prop :=
  (∀ (x : Session) (n : Nat) (s : State), s.held = false → SessionsSound s → x ∈ s.ssc.sessions → x.active = false →
    { x with suspendedFor := x.suspendedFor.map (· + n) } ∈ (s.lapse n).ssc.sessions ∧
    (∀ l r, (s.approach l).listen = some r → r.session = x.id → (s.lapse n).approach l = s.approach l)) ∧
  (∀ (v x : Session) (s : State), Listening s → SessionsSound s → v ∈ s.ssc.sessions → x ∈ s.ssc.sessions → x ≠ v →
    x.active = false → x.suspendedBy = some v.id → (∀ y ∈ s.ssc.sessions, y.suspendedBy = some v.id → y = x) →
    let u := s.without [v]
    let k := s.cls x.cls
    let set := s.enabledOf x.set
    let window := fun l : LineId => match (u.approach l).listen with | some r => r.window | none => 0
    let left := if x.profile = .listen then (x.listening.map window).foldr max 0 else x.remaining
    let cost := ceilDiv (s.sumCurrent set * left) 1000 + k.overhead
    let passes := s.btm.tier.code ≤ k.minTier.code ∧ (s.mdc.mode = .handover ∨ k.essential = true ∨ cost ≤ u.headroom [])
    let released := s.recordOf .sessionClosed v.id 0 (some (tenths16 v.drawn))
    ∃ t, exec (.sessionRelease [byte v.id, 0]) s = .next t ∧ t.replies 0x42 .ok (be16 (tenths16 v.drawn)) ∧
      (passes → t.frame = (u.updSession x.id (fun y => { y with
          state := .starting, set := set, suspendedBy := none, suspendedFor := none, estimate := x.drawn + cost })).frame ∧
        (s.roomFor 2 → t.recorded s [released, s.recordOf .sessionResumed x.id v.id none])) ∧
      (¬ passes → t.frame = (s.without [v, x]).frame ∧
        (s.roomFor 2 → t.recorded s [released, s.recordOf .sessionClosed x.id 6 (some (tenths16 x.drawn))])))

/-! ## Meter, tiers and reserve -/

/-- A sample, at the end of the period in force or of an interval that a change of period ended early: the readings saturate and are kept,
the reserve falls by the current over P in PARKED and CUTOFF only, and outside DRIVE each session is charged with the shares of the
domains it owns, with an excess or a weight of 0 with nothing (R126 to R130, R132, R134, R135). A session that then stands at or above its
class's cap closes CAP (R136), and a decrement that takes the reserve from above 0 to 0 records RESERVE_EXHAUSTED with METERED and leaves
only sessions of essential classes, the others closed RESERVE (R131). BTM counts a voltage below the next tier down's threshold as a fall, one at or above the
tier's own threshold plus the hysteresis as a rise, and any other as neither; the counter that reaches its confirmation steps the tier by
one, and both return to 0 (R144 to R146). -/
def Obligations.SampleIsTaken : Prop :=
  ∀ (i v : Int) (s : State) (n p : Nat) (c : Instr), Ready s →
    (c = .sample i v ∧ s.chm.earlyDue = false ∧ n = s.chm.period - s.chm.elapsed ∧ p = s.chm.period) ∨
      (c = .periodChangeSample i v ∧ s.chm.earlyDue = true ∧ n = 0 ∧ p = s.chm.elapsed) →
    let u := s.lapse n
    let cur := min 65535 i.toNat
    let vol := min 20000 v.toNat
    let b := s.btm
    let falls := (b.tier = .normal ∧ vol < b.conserve) ∨ (b.tier = .conserve ∧ vol < b.critical) ∨ (b.tier = .critical ∧ vol < b.cutoff)
    let rises := (b.tier = .conserve ∧ b.conserve + b.hysteresis ≤ vol) ∨ (b.tier = .critical ∧ b.critical + b.hysteresis ≤ vol) ∨
      (b.tier = .cutoff ∧ b.cutoff + b.hysteresis ≤ vol)
    ∃ t, exec c s = .next t ∧ t.chm.current = cur ∧ t.chm.voltage = vol ∧ t.chm.elapsed = 0 ∧ t.chm.earlyDue = false ∧
      t.chm.baseline = s.chm.baseline ∧ t.chm.floorMah = s.chm.floorMah ∧
      (s.mdc.mode = .parked ∨ s.mdc.mode = .cutoff →
        t.chm.reserve = s.chm.reserve - (s.chm.reserveRem + cur * p) / 1000 ∧ t.chm.reserveRem = (s.chm.reserveRem + cur * p) % 1000) ∧
      (s.mdc.mode = .drive ∨ s.mdc.mode = .handover →
        t.chm.reserve = s.chm.reserve ∧ t.chm.reserveRem = s.chm.reserveRem) ∧
      (RangesSound s →
        (falls → b.fall + 1 < b.fallConfirm → t.btm = { b with fall := b.fall + 1, rise := 0 }) ∧
        (falls → b.fall + 1 = b.fallConfirm →
          t.btm = { b with tier := t.btm.tier, fall := 0, rise := 0 } ∧ t.btm.tier.code = b.tier.code + 1) ∧
        (rises → b.rise + 1 < b.riseConfirm → t.btm = { b with fall := 0, rise := b.rise + 1 }) ∧
        (rises → b.rise + 1 = b.riseConfirm →
          t.btm = { b with tier := t.btm.tier, fall := 0, rise := 0 } ∧ t.btm.tier.code + 1 = b.tier.code) ∧
        (¬ falls → ¬ rises → t.btm = { b with fall := 0, rise := 0 })) ∧
      (s.mdc.mode = .drive → t.table = u.table) ∧
      (s.mdc.mode ≠ .drive → (s.mdc.mode = .cutoff → ∀ l, (s.line l).act ≠ .pending) →
        (∀ y ∈ t.ssc.sessions, ∃ x ∈ s.ssc.sessions, y.id = x.id ∧ y.drawn * 1000 + y.drawnRem = s.chargedTo cur p x) ∧
        (SessionsSound s → ∀ x ∈ s.ssc.sessions, s.capped cur p x →
          (∀ y ∈ t.ssc.sessions, y.id ≠ x.id) ∧
          (s.roomFor 6 → s.closing 2 { x with drawn := s.chargedTo cur p x / 1000 } ∈ t.evq.events)) ∧
        (SessionsSound s → s.exhausts cur p →
          (∀ y ∈ t.ssc.sessions, (s.cls y.cls).essential = true) ∧
          (s.roomFor 7 → s.recordOf .reserveExhausted s.mdc.mode.code 0 none ∈ t.evq.events ∧
            ∀ x ∈ s.ssc.sessions, (s.cls x.cls).essential = false → ¬ s.capped cur p x →
              s.closing 3 { x with drawn := s.chargedTo cur p x / 1000 } ∈ t.evq.events)))

/-- What follows a tier step at a sample, the one at the period's end or the one that a change of period brings early. TIER_CHANGED carries
the tiers and the voltage (R146). A step down outside DRIVE leaves no session whose class's minimum tier is above the new tier; each that the
sample has not closed before with CAP or RESERVE closes TIER (R118, R147). A step to the tier CUTOFF enters the mode CUTOFF from HANDOVER
and PARKED, the holds released, the handover timer stopped, and nothing powered that no session demands, D0 apart while a reply is sent
(R11, R148). A step up from CUTOFF in CUTOFF enters PARKED (R149); every other step leaves the mode (R148, R149), and in DRIVE nothing else
follows (R150). -/
def Obligations.TierStepsAreTaken : Prop :=
  ∀ (i v : Int) (s : State) (n p : Nat) (c : Instr), Ready s →
    (c = .sample i v ∧ s.chm.earlyDue = false ∧ n = s.chm.period - s.chm.elapsed ∧ p = s.chm.period) ∨
      (c = .periodChangeSample i v ∧ s.chm.earlyDue = true ∧ n = 0 ∧ p = s.chm.elapsed) →
    let cur := min 65535 i.toNat
    ∃ t, exec c s = .next t ∧
      let changed := fun m : Mode => fun cause : Nat => s.recordOf .modeChanged m.code cause none
      (t.btm.tier ≠ s.btm.tier → SessionsSound s → s.roomFor 8 →
        s.recordOf .tierChanged t.btm.tier.code s.btm.tier.code (some (min 20000 v.toNat)) ∈ t.evq.events) ∧
      (s.mdc.mode = .drive → t.mdc = { (s.lapse n).mdc with sub := none } ∧ t.table = (s.lapse n).table) ∧
      (s.btm.tier.code < t.btm.tier.code → s.mdc.mode ≠ .drive →
        (∀ y ∈ t.ssc.sessions, t.btm.tier.code ≤ (s.cls y.cls).minTier.code) ∧
        (SessionsSound s → s.roomFor 8 → ∀ x ∈ s.ssc.sessions, (s.cls x.cls).minTier.code < t.btm.tier.code → ¬ s.capped cur p x →
          ((s.cls x.cls).essential = true ∨ ¬ s.exhausts cur p) →
          s.closing 4 { x with drawn := s.chargedTo cur p x / 1000 } ∈ t.evq.events)) ∧
      (s.btm.tier.code < t.btm.tier.code → t.btm.tier = .cutoff → s.mdc.mode = .handover ∨ s.mdc.mode = .parked →
        t.mdc.mode = .cutoff ∧ t.mdc.driveHold = false ∧ t.mdc.handoverHold = false ∧ t.mdc.alwaysHold = false ∧
        t.mdc.handoverTimer = none ∧ t.mdc.sub = none ∧ t.chm.period = 2000 ∧
        (RampSound s → ∀ d, (t.dom d).en = true → t.sessionDemands d = true ∨ (d = 0 ∧ s.lnk.reply.isSome = true)) ∧
        (SessionsSound s → s.roomFor 9 → changed .cutoff 4 ∈ t.evq.events)) ∧
      (t.btm.tier.code < s.btm.tier.code → s.btm.tier = .cutoff → s.mdc.mode = .cutoff →
        t.mdc.mode = .parked ∧ t.mdc.driveHold = false ∧ t.mdc.handoverHold = false ∧ t.mdc.alwaysHold = true ∧
        (SessionsSound s → s.roomFor 9 → changed .parked 5 ∈ t.evq.events)) ∧
      ((t.btm.tier = s.btm.tier ∨ t.btm.tier = .normal ∨ t.btm.tier = .conserve ∨ (t.btm.tier = .critical ∧ s.btm.tier = .conserve)) →
        t.mdc.mode = s.mdc.mode)

/-- The shares of a sample's excess: each domain of the active set gets floor(E × I / W), the one of the largest current and then of the
lowest index the rest, so that the shares come to exactly E (R133). -/
def Obligations.SharesComeToTheExcess : Prop :=
  ∀ (s : State) (e : Nat), 0 < e → 0 < s.weight →
    (s.activeSet.map (s.share e)).sum = e ∧
    (s.activeSet.map (fun d => e * (s.dom d).entry.runCurrent / s.weight)).sum ≤ e ∧
    e - (s.activeSet.map (fun d => e * (s.dom d).entry.runCurrent / s.weight)).sum < s.activeSet.length ∧
    (∃ h ∈ s.activeSet, 0 < (s.dom h).entry.runCurrent ∧
      (∀ d ∈ s.activeSet, (s.dom d).entry.runCurrent < (s.dom h).entry.runCurrent ∨
        ((s.dom d).entry.runCurrent = (s.dom h).entry.runCurrent ∧ h ≤ d)) ∧
      s.share e h = e * (s.dom h).entry.runCurrent / s.weight +
        (e - (s.activeSet.map (fun d => e * (s.dom d).entry.runCurrent / s.weight)).sum) ∧
      (∀ d ∈ s.activeSet, d ≠ h → s.share e d = e * (s.dom d).entry.runCurrent / s.weight))

/-- TIER_SET writes the six settings, its hysteresis clamped, and clears both counters; METER_SET writes I_q and the floor; a value out of
range is refused BAD_FIELD (R137, R142, R143). -/
def Obligations.MeterAndTierSettingsAreTaken : Prop :=
  ∀ s : State, Listening s →
    (∀ a b c d e f g h nf nr : Byte, s.writable →
      let ok := 8000 ≤ nat16 e f ∧ nat16 e f < nat16 c d ∧ nat16 c d < nat16 a b ∧ nat16 a b ≤ 15000 ∧ 1 ≤ nf.toNat ∧ nf.toNat ≤ 32 ∧
        1 ≤ nr.toNat
      let hy := if nat16 g h < 50 then 50 else if 1000 < nat16 g h then 1000 else nat16 g h
      (¬ ok → exec (.tierSet [a, b, c, d, e, f, g, h, nf, nr]) s = .next (s.answered 0x28 .badField [])) ∧
      (ok → exec (.tierSet [a, b, c, d, e, f, g, h, nf, nr]) s = .next (({ s with
          btm := { s.btm with conserve := nat16 a b, critical := nat16 c d, cutoff := nat16 e f, hysteresis := hy,
                              fallConfirm := nf.toNat, riseConfirm := nr.toNat, fall := 0, rise := 0 } }).answered
        0x28 (if hy = nat16 g h then .ok else .clamped) ([a, b, c, d, e, f] ++ be16 hy ++ [nf, nr])))) ∧
    (∀ a b c d : Byte, s.lnk.linkFault = false →
      (2000 < nat16 a b → exec (.meterSet [a, b, c, d]) s = .next (s.answered 0x29 .badField [])) ∧
      (nat16 a b ≤ 2000 → exec (.meterSet [a, b, c, d]) s =
        .next (({ s with chm.baseline := nat16 a b, chm.floorMah := nat16 c d }).answered 0x29 .ok [])))

/-- RESERVE_ADJUST adds its signed delta to the reserve within 0 and 235,926,000 mAs; taken to 0 from above, the reserve is exhausted:
RESERVE_EXHAUSTED with ADJUSTED, and then each session of a class that is not essential closes RESERVE, in table order, and none is left. In
DRIVE and CUTOFF it is refused
WRONG_MODE (R131, R138). -/
def Obligations.ReserveIsAdjusted : Prop :=
  ∀ (a b : Byte) (s : State), Listening s →
    let sum : Int := (s.chm.reserve : Int) + (a ++ b : BitVec 16).toInt * 3600
    let r : Nat := if sum < 0 then 0 else if 235926000 < sum then 235926000 else sum.toNat
    let result : Result := if (r : Int) = sum then .ok else .clamped
    (s.mdc.mode = .drive ∨ s.mdc.mode = .cutoff → exec (.reserveAdjust [a, b]) s = .next (s.answered 0x51 .wrongMode [])) ∧
    (s.mdc.mode = .handover ∨ s.mdc.mode = .parked → (s.chm.reserve = 0 ∨ r ≠ 0) →
      exec (.reserveAdjust [a, b]) s = .next (({ s with chm.reserve := r }).answered 0x51 result (be32 (tenths r)))) ∧
    (s.mdc.mode = .handover ∨ s.mdc.mode = .parked → s.chm.reserve ≠ 0 → r = 0 →
      ∃ t, exec (.reserveAdjust [a, b]) s = .next t ∧ t.replies 0x51 result (be32 0) ∧ t.chm.reserve = 0 ∧
        t.chm.reserveRem = s.chm.reserveRem ∧ (∀ x ∈ t.ssc.sessions, (s.cls x.cls).essential = true) ∧
        (s.roomFor 1 → t.recorded s [s.recordOf .reserveExhausted s.mdc.mode.code 1 none]) ∧
        (let gone := s.ssc.sessions.filter (fun x => !(s.cls x.cls).essential)
         SessionsSound s → s.roomFor (1 + gone.length) →
           t.recorded s (s.recordOf .reserveExhausted s.mdc.mode.code 1 none :: gone.map (s.closing 3))))

/-! ## Schedule and clock -/

/-- SCHED_ADD places an entry by its due time and id; one that is past due is evaluated at once: in DRIVE it is held PENDING or skipped,
elsewhere its latest occurrence fires, a FULL request with the origin SCHEDULE, or is missed. Its refusals come in the order BAD_FIELD,
DUPLICATE_ID, FULL (R155, R158 to R162, R164). Out of range are the id 0, a period from 1 to 59 s or above 604,800 s, a class above 7, a
lateness limit above 3,600 s, and a skip-in-drive byte above 1. -/
def Obligations.ScheduleEntryIsAdded : Prop :=
  ∀ (p : List Byte) (s : State), Listening s → s.lnk.linkFault = false → p.length = 13 →
    (∀ i u3 u2 u1 u0 p3 p2 p1 p0 c l1 l0 f : Byte, p = [i, u3, u2, u1, u0, p3, p2, p1, p0, c, l1, l0, f] → (readSchedEntry p = none ↔
      i.toNat = 0 ∨ (1 ≤ nat32 p3 p2 p1 p0 ∧ nat32 p3 p2 p1 p0 ≤ 59) ∨ 604800 < nat32 p3 p2 p1 p0 ∨ 7 < c.toNat ∨
        3600 < nat16 l1 l0 ∨ 1 < f.toNat)) ∧
    (readSchedEntry p = none → exec (.schedAdd p) s = .next (s.answered 0x30 .badField [])) ∧
    (∀ e, readSchedEntry p = some e →
      ((∃ x ∈ s.wsc.sched, x.id = e.id) → exec (.schedAdd p) s = .next (s.answered 0x30 .duplicateId [])) ∧
      ((∀ x ∈ s.wsc.sched, x.id ≠ e.id) →
        (16 ≤ s.wsc.sched.length → exec (.schedAdd p) s = .next (s.answered 0x30 .full [])) ∧
        (s.wsc.sched.length < 16 → s.wsc.seconds < e.due →
          exec (.schedAdd p) s = .next (({ s with wsc.sched := placeEntry e s.wsc.sched }).answered 0x30 .ok [])) ∧
        (s.wsc.sched.length < 16 → e.due ≤ s.wsc.seconds → s.mdc.mode = .drive → e.skipInDrive = false →
          ∃ t, exec (.schedAdd p) s = .next t ∧ t.replies 0x30 .ok [] ∧
            t.frame = { s with wsc.sched := placeEntry { e with pending := true } s.wsc.sched }.frame) ∧
        (s.wsc.sched.length < 16 → e.due ≤ s.wsc.seconds → s.mdc.mode = .drive → e.skipInDrive = true → e.period = 0 →
          ∃ t, exec (.schedAdd p) s = .next t ∧ t.replies 0x30 .ok [] ∧ t.frame = s.frame ∧
            (s.roomFor 1 → t.recorded s [s.recordOf .schedSkipped e.id e.cls.val none])) ∧
        (s.wsc.sched.length < 16 → e.due ≤ s.wsc.seconds → s.mdc.mode ≠ .drive →
          ∃ t, exec (.schedAdd p) s = .next t ∧ t.replies 0x30 .ok [] ∧
            t.evaluated { s with wsc.sched := placeEntry e s.wsc.sched } [] e)))

/-- SCHED_CANCEL removes the entry of an id, the others keeping their order, in every mode, whatever the lock and LINK_FAULT, with no
record; an id that no entry holds is answered NOT_FOUND, and 0 is refused BAD_FIELD (R156). SCHED_LIST returns the entries from a place
on, at most the four that one reply holds, with the number of entries and the part seconds; a start above 15 is refused BAD_FIELD
(R157). -/
def Obligations.ScheduleIsCancelledAndListed : Prop :=
  ∀ (i : Byte) (s : State), Listening s →
    (i = 0 → exec (.schedCancel [i]) s = .next (s.answered 0x31 .badField [])) ∧
    (i ≠ 0 → (∀ e ∈ s.wsc.sched, e.id ≠ i.toNat) → exec (.schedCancel [i]) s = .next (s.answered 0x31 .notFound [])) ∧
    (i ≠ 0 → (∃ e ∈ s.wsc.sched, e.id = i.toNat) → exec (.schedCancel [i]) s =
      .next (({ s with wsc.sched := s.wsc.sched.filter (fun e => e.id != i.toNat) }).answered 0x31 .ok [])) ∧
    (15 < i.toNat → exec (.schedList [i]) s = .next (s.answered 0x32 .badField [])) ∧
    (i.toNat ≤ 15 → exec (.schedList [i]) s = .next (s.answered 0x32 .ok
      ([byte s.wsc.sched.length, byte (min 4 (s.wsc.sched.length - i.toNat))] ++ be32 s.wsc.seconds ++
        ((s.wsc.sched.drop i.toNat).take 4).flatMap schedEntryBytes)))

/-- CLOCK_SET sets the seconds and clears the fraction, and evaluates every entry whose due time is at or before them; a rise of the seconds
adds 1, or returns to 0 after 4,294,967,295, and evaluates those due at the new seconds (R152, R153, R158). In DRIVE an entry that is not
skipped is held PENDING (R161); otherwise a single occurrence leaves the Schedule, and a repeating entry takes the first due time after
the new seconds, or leaves it where that lies above 4,294,967,295 (R159, R160). An entry that is not due stays. An entry that alone is due
outside DRIVE fires, a FULL request with the origin SCHEDULE, or is missed (R159, R162, R164). -/
def Obligations.ClockMovesTheSchedule : Prop :=
  ∀ s : State,
    let moves := fun (t u : State) (isDue : SchedEntry → Prop) =>
      let now := u.wsc.seconds
      t.wsc.seconds = now ∧ t.wsc.fraction = 0 ∧ t.wsc.riseDue = false ∧ ((∀ e ∈ s.wsc.sched, ¬ isDue e) → t.frame = u.frame) ∧
      (ScheduleSound s → ∀ e ∈ s.wsc.sched,
        let held := s.mdc.mode = .drive ∧ e.skipInDrive = false
        let passed := (now - e.due) / e.period
        let next := e.due + (passed + 1) * e.period
        (¬ isDue e → e ∈ t.wsc.sched) ∧
        (isDue e → held → { e with pending := true } ∈ t.wsc.sched) ∧
        (isDue e → ¬ held → e.period = 0 ∨ 4294967295 < next → ∀ x ∈ t.wsc.sched, x.id ≠ e.id) ∧
        (isDue e → ¬ held → e.period ≠ 0 → next ≤ 4294967295 → { e with due := next, pending := false } ∈ t.wsc.sched) ∧
        (isDue e → (∀ x ∈ s.wsc.sched, isDue x → x = e) → s.mdc.mode ≠ .drive → t.evaluated u [] e))
    (∀ a b c d : Byte, Listening s → s.lnk.linkFault = false → ∃ t, exec (.clockSet [a, b, c, d]) s = .next t ∧ t.replies 0x33 .ok [] ∧
      moves t { s with wsc.seconds := nat32 a b c d, wsc.fraction := 0, wsc.riseDue := false } (fun e => e.due ≤ nat32 a b c d)) ∧
    (∀ n, Ready s → n = (if s.wsc.riseDue then 0 else 1000 - s.wsc.fraction) →
      let now := (s.wsc.seconds + 1) % 4294967296
      ∃ t, exec .partSecondRise s = .next t ∧
        moves t { s.lapse n with wsc := { s.wsc with seconds := now, fraction := 0, riseDue := false } } (fun e => e.due = now))

/-! ## Event Queue and attention line -/

/-- A record joins the newest end while the queue holds fewer than 24; at 24 KEEP_OLDEST drops it and KEEP_NEWEST drops the oldest, and
the lost count rises by 1, saturating at 255 (R166, R167). In PULSE mode, with D0 ON, an event that keeps a record while the attention
condition holds starts the 1 ms pulse, or starts it again, ATTN deasserted; with the condition not held before, or the record dropped, it
starts none (R172): said of the record of a mute's expiry. So does the end of the reply of an EVENTS_READ that left records, which the read
notes. The end of the pulse gives ATTN the level of the condition, unless a record kept in the same event begins the pulse anew (R171,
R172); in LEVEL mode no pulse runs on (R173). -/
def Obligations.RecordsAndPulsesKeepTheirRules : Prop :=
  (∀ (k : RecordKind) (a b : Nat) (v : Option Nat) (s : State),
    (s.evq.events.length < 24 →
      (s.record k a b v).evq = { s.evq with events := s.evq.events ++ [s.recordOf k a b v] }) ∧
    (24 ≤ s.evq.events.length → s.evq.policy = .keepOldest →
      (s.record k a b v).evq = { s.evq with lost := min 255 (s.evq.lost + 1) }) ∧
    (24 ≤ s.evq.events.length → s.evq.policy = .keepNewest →
      (s.record k a b v).evq = { s.evq with events := s.evq.events.drop 1 ++ [s.recordOf k a b v], lost := min 255 (s.evq.lost + 1) })) ∧
  (∀ (s : State) (l : LineId) (n : Nat), Ready s → (s.line l).mute = some n → (s.dom 0).state = .on →
    let condition := s.evq.events ≠ [] ∨ s.lnk.linkFault = true
    let kept := s.evq.events.length < 24 ∨ s.evq.policy = .keepNewest
    ∃ t, exec (.muteExpiry l) s = .next t ∧ ((t.dom 0).state = .on →
      (s.evq.attnMode = .pulse → condition → kept → t.evq.pulse = some 1 ∧ t.evq.attn = false) ∧
      (s.evq.attnMode = .pulse → ¬ (condition ∧ kept) →
        t.evq.pulse = (s.lapse n).evq.pulse ∧ (s.evq.pulse = none → t.evq.attn = true)) ∧
      (s.evq.attnMode = .level → t.evq.pulse = none ∧ t.evq.attn = true))) ∧
  (∀ (s : State) (m : Byte), Listening s → 1 ≤ m.toNat → m.toNat ≤ 8 →
    ∃ t, exec (.eventsRead [m]) s = .next t ∧ (t.evq.readPulse = true ↔ t.evq.events ≠ [])) ∧
  (∀ s : State, Ready s → s.lnk.reply.isSome = true → s.lnk.resetDue = false → s.dmc.d0Held = none → s.lnk.inbound = [] →
    (s.dom 0).state = .on → s.evq.events ≠ [] → s.evq.attnMode = .pulse → s.evq.readPulse = true →
    ∃ t, exec .replyEnd s = .next t ∧ t.evq.readPulse = false ∧ ((t.dom 0).state = .on → t.evq.pulse = some 1 ∧ t.evq.attn = false)) ∧
  (∀ (s : State) (n : Nat), Ready s → s.evq.pulse = some n → s.evq.events.length < 24 →
    ∃ t, exec .attnPulseEnd s = .next t ∧ t.frame = (s.lapse n).frame ∧ t.evq.attn = (t.attention && t.evq.pulse.isNone) ∧
      (t.evq.events = s.evq.events → t.evq.pulse = none ∧ t.evq.attn = t.attention) ∧
      (t.evq.events ≠ s.evq.events → s.evq.attnMode = .pulse → (t.dom 0).state = .on → s.evq.events ≠ [] ∨ s.lnk.linkFault = true →
        t.evq.pulse = some 1 ∧ t.evq.attn = false))
end

