-- ==== Sys2Proof/Laws/State.lean ====
section
/-! SUPPORT. One lemma per field per update of State, true by unfolding, and what a read gives after a write of a table entry. -/

namespace Sys2Proof.Machine

variable (s : State)

/-! ### updDom -/

@[simp] theorem updDom_pending (d : DomId) (f : Domain → Domain) : (s.updDom d f).pending = s.pending := rfl
@[simp] theorem updDom_held (d : DomId) (f : Domain → Domain) : (s.updDom d f).held = s.held := rfl
@[simp] theorem updDom_mdc (d : DomId) (f : Domain → Domain) : (s.updDom d f).mdc = s.mdc := rfl
@[simp] theorem updDom_rmp (d : DomId) (f : Domain → Domain) : (s.updDom d f).rmp = s.rmp := rfl
@[simp] theorem updDom_wlu (d : DomId) (f : Domain → Domain) : (s.updDom d f).wlu = s.wlu := rfl
@[simp] theorem updDom_apq (d : DomId) (f : Domain → Domain) : (s.updDom d f).apq = s.apq := rfl
@[simp] theorem updDom_adm (d : DomId) (f : Domain → Domain) : (s.updDom d f).adm = s.adm := rfl
@[simp] theorem updDom_ssc (d : DomId) (f : Domain → Domain) : (s.updDom d f).ssc = s.ssc := rfl
@[simp] theorem updDom_chm (d : DomId) (f : Domain → Domain) : (s.updDom d f).chm = s.chm := rfl
@[simp] theorem updDom_btm (d : DomId) (f : Domain → Domain) : (s.updDom d f).btm = s.btm := rfl
@[simp] theorem updDom_wsc (d : DomId) (f : Domain → Domain) : (s.updDom d f).wsc = s.wsc := rfl
@[simp] theorem updDom_evq (d : DomId) (f : Domain → Domain) : (s.updDom d f).evq = s.evq := rfl
@[simp] theorem updDom_lnk (d : DomId) (f : Domain → Domain) : (s.updDom d f).lnk = s.lnk := rfl
@[simp] theorem updDom_work (d : DomId) (f : Domain → Domain) : (s.updDom d f).work = s.work := rfl
@[simp] theorem updDom_freeIdx (d : DomId) (f : Domain → Domain) : (s.updDom d f).freeIdx = s.freeIdx := rfl

/-! ### updLine -/

@[simp] theorem updLine_pending (l : LineId) (f : Line → Line) : (s.updLine l f).pending = s.pending := rfl
@[simp] theorem updLine_held (l : LineId) (f : Line → Line) : (s.updLine l f).held = s.held := rfl
@[simp] theorem updLine_mdc (l : LineId) (f : Line → Line) : (s.updLine l f).mdc = s.mdc := rfl
@[simp] theorem updLine_dmc (l : LineId) (f : Line → Line) : (s.updLine l f).dmc = s.dmc := rfl
@[simp] theorem updLine_rmp (l : LineId) (f : Line → Line) : (s.updLine l f).rmp = s.rmp := rfl
@[simp] theorem updLine_apq (l : LineId) (f : Line → Line) : (s.updLine l f).apq = s.apq := rfl
@[simp] theorem updLine_adm (l : LineId) (f : Line → Line) : (s.updLine l f).adm = s.adm := rfl
@[simp] theorem updLine_ssc (l : LineId) (f : Line → Line) : (s.updLine l f).ssc = s.ssc := rfl
@[simp] theorem updLine_chm (l : LineId) (f : Line → Line) : (s.updLine l f).chm = s.chm := rfl
@[simp] theorem updLine_btm (l : LineId) (f : Line → Line) : (s.updLine l f).btm = s.btm := rfl
@[simp] theorem updLine_wsc (l : LineId) (f : Line → Line) : (s.updLine l f).wsc = s.wsc := rfl
@[simp] theorem updLine_evq (l : LineId) (f : Line → Line) : (s.updLine l f).evq = s.evq := rfl
@[simp] theorem updLine_lnk (l : LineId) (f : Line → Line) : (s.updLine l f).lnk = s.lnk := rfl
@[simp] theorem updLine_work (l : LineId) (f : Line → Line) : (s.updLine l f).work = s.work := rfl
@[simp] theorem updLine_freeIdx (l : LineId) (f : Line → Line) : (s.updLine l f).freeIdx = s.freeIdx := rfl

/-! ### updApproach -/

@[simp] theorem updApproach_pending (l : LineId) (f : Approach → Approach) : (s.updApproach l f).pending = s.pending := rfl
@[simp] theorem updApproach_held (l : LineId) (f : Approach → Approach) : (s.updApproach l f).held = s.held := rfl
@[simp] theorem updApproach_mdc (l : LineId) (f : Approach → Approach) : (s.updApproach l f).mdc = s.mdc := rfl
@[simp] theorem updApproach_dmc (l : LineId) (f : Approach → Approach) : (s.updApproach l f).dmc = s.dmc := rfl
@[simp] theorem updApproach_rmp (l : LineId) (f : Approach → Approach) : (s.updApproach l f).rmp = s.rmp := rfl
@[simp] theorem updApproach_wlu (l : LineId) (f : Approach → Approach) : (s.updApproach l f).wlu = s.wlu := rfl
@[simp] theorem updApproach_adm (l : LineId) (f : Approach → Approach) : (s.updApproach l f).adm = s.adm := rfl
@[simp] theorem updApproach_ssc (l : LineId) (f : Approach → Approach) : (s.updApproach l f).ssc = s.ssc := rfl
@[simp] theorem updApproach_chm (l : LineId) (f : Approach → Approach) : (s.updApproach l f).chm = s.chm := rfl
@[simp] theorem updApproach_btm (l : LineId) (f : Approach → Approach) : (s.updApproach l f).btm = s.btm := rfl
@[simp] theorem updApproach_wsc (l : LineId) (f : Approach → Approach) : (s.updApproach l f).wsc = s.wsc := rfl
@[simp] theorem updApproach_evq (l : LineId) (f : Approach → Approach) : (s.updApproach l f).evq = s.evq := rfl
@[simp] theorem updApproach_lnk (l : LineId) (f : Approach → Approach) : (s.updApproach l f).lnk = s.lnk := rfl
@[simp] theorem updApproach_work (l : LineId) (f : Approach → Approach) : (s.updApproach l f).work = s.work := rfl
@[simp] theorem updApproach_freeIdx (l : LineId) (f : Approach → Approach) : (s.updApproach l f).freeIdx = s.freeIdx := rfl

/-! ### setClass -/

@[simp] theorem setClass_pending (c : ClassId) (e : ClassEntry) : (s.setClass c e).pending = s.pending := rfl
@[simp] theorem setClass_held (c : ClassId) (e : ClassEntry) : (s.setClass c e).held = s.held := rfl
@[simp] theorem setClass_mdc (c : ClassId) (e : ClassEntry) : (s.setClass c e).mdc = s.mdc := rfl
@[simp] theorem setClass_dmc (c : ClassId) (e : ClassEntry) : (s.setClass c e).dmc = s.dmc := rfl
@[simp] theorem setClass_rmp (c : ClassId) (e : ClassEntry) : (s.setClass c e).rmp = s.rmp := rfl
@[simp] theorem setClass_wlu (c : ClassId) (e : ClassEntry) : (s.setClass c e).wlu = s.wlu := rfl
@[simp] theorem setClass_apq (c : ClassId) (e : ClassEntry) : (s.setClass c e).apq = s.apq := rfl
@[simp] theorem setClass_ssc (c : ClassId) (e : ClassEntry) : (s.setClass c e).ssc = s.ssc := rfl
@[simp] theorem setClass_chm (c : ClassId) (e : ClassEntry) : (s.setClass c e).chm = s.chm := rfl
@[simp] theorem setClass_btm (c : ClassId) (e : ClassEntry) : (s.setClass c e).btm = s.btm := rfl
@[simp] theorem setClass_wsc (c : ClassId) (e : ClassEntry) : (s.setClass c e).wsc = s.wsc := rfl
@[simp] theorem setClass_evq (c : ClassId) (e : ClassEntry) : (s.setClass c e).evq = s.evq := rfl
@[simp] theorem setClass_lnk (c : ClassId) (e : ClassEntry) : (s.setClass c e).lnk = s.lnk := rfl
@[simp] theorem setClass_work (c : ClassId) (e : ClassEntry) : (s.setClass c e).work = s.work := rfl
@[simp] theorem setClass_freeIdx (c : ClassId) (e : ClassEntry) : (s.setClass c e).freeIdx = s.freeIdx := rfl

/-! ### updSession -/

@[simp] theorem updSession_pending (id : Nat) (f : Session → Session) : (s.updSession id f).pending = s.pending := rfl
@[simp] theorem updSession_held (id : Nat) (f : Session → Session) : (s.updSession id f).held = s.held := rfl
@[simp] theorem updSession_mdc (id : Nat) (f : Session → Session) : (s.updSession id f).mdc = s.mdc := rfl
@[simp] theorem updSession_dmc (id : Nat) (f : Session → Session) : (s.updSession id f).dmc = s.dmc := rfl
@[simp] theorem updSession_rmp (id : Nat) (f : Session → Session) : (s.updSession id f).rmp = s.rmp := rfl
@[simp] theorem updSession_wlu (id : Nat) (f : Session → Session) : (s.updSession id f).wlu = s.wlu := rfl
@[simp] theorem updSession_apq (id : Nat) (f : Session → Session) : (s.updSession id f).apq = s.apq := rfl
@[simp] theorem updSession_adm (id : Nat) (f : Session → Session) : (s.updSession id f).adm = s.adm := rfl
@[simp] theorem updSession_chm (id : Nat) (f : Session → Session) : (s.updSession id f).chm = s.chm := rfl
@[simp] theorem updSession_btm (id : Nat) (f : Session → Session) : (s.updSession id f).btm = s.btm := rfl
@[simp] theorem updSession_wsc (id : Nat) (f : Session → Session) : (s.updSession id f).wsc = s.wsc := rfl
@[simp] theorem updSession_evq (id : Nat) (f : Session → Session) : (s.updSession id f).evq = s.evq := rfl
@[simp] theorem updSession_lnk (id : Nat) (f : Session → Session) : (s.updSession id f).lnk = s.lnk := rfl
@[simp] theorem updSession_work (id : Nat) (f : Session → Session) : (s.updSession id f).work = s.work := rfl
@[simp] theorem updSession_freeIdx (id : Nat) (f : Session → Session) : (s.updSession id f).freeIdx = s.freeIdx := rfl

/-! ### startPulse -/

@[simp] theorem startPulse_pending : (s.startPulse).pending = s.pending := rfl
@[simp] theorem startPulse_held : (s.startPulse).held = s.held := rfl
@[simp] theorem startPulse_mdc : (s.startPulse).mdc = s.mdc := rfl
@[simp] theorem startPulse_dmc : (s.startPulse).dmc = s.dmc := rfl
@[simp] theorem startPulse_rmp : (s.startPulse).rmp = s.rmp := rfl
@[simp] theorem startPulse_wlu : (s.startPulse).wlu = s.wlu := rfl
@[simp] theorem startPulse_apq : (s.startPulse).apq = s.apq := rfl
@[simp] theorem startPulse_adm : (s.startPulse).adm = s.adm := rfl
@[simp] theorem startPulse_ssc : (s.startPulse).ssc = s.ssc := rfl
@[simp] theorem startPulse_chm : (s.startPulse).chm = s.chm := rfl
@[simp] theorem startPulse_btm : (s.startPulse).btm = s.btm := rfl
@[simp] theorem startPulse_wsc : (s.startPulse).wsc = s.wsc := rfl
@[simp] theorem startPulse_lnk : (s.startPulse).lnk = s.lnk := rfl
@[simp] theorem startPulse_work : (s.startPulse).work = s.work := rfl
@[simp] theorem startPulse_freeIdx : (s.startPulse).freeIdx = s.freeIdx := rfl

/-! ### removeEntry -/

@[simp] theorem removeEntry_pending (id : Nat) : (s.removeEntry id).pending = s.pending := rfl
@[simp] theorem removeEntry_held (id : Nat) : (s.removeEntry id).held = s.held := rfl
@[simp] theorem removeEntry_mdc (id : Nat) : (s.removeEntry id).mdc = s.mdc := rfl
@[simp] theorem removeEntry_dmc (id : Nat) : (s.removeEntry id).dmc = s.dmc := rfl
@[simp] theorem removeEntry_rmp (id : Nat) : (s.removeEntry id).rmp = s.rmp := rfl
@[simp] theorem removeEntry_wlu (id : Nat) : (s.removeEntry id).wlu = s.wlu := rfl
@[simp] theorem removeEntry_apq (id : Nat) : (s.removeEntry id).apq = s.apq := rfl
@[simp] theorem removeEntry_adm (id : Nat) : (s.removeEntry id).adm = s.adm := rfl
@[simp] theorem removeEntry_ssc (id : Nat) : (s.removeEntry id).ssc = s.ssc := rfl
@[simp] theorem removeEntry_chm (id : Nat) : (s.removeEntry id).chm = s.chm := rfl
@[simp] theorem removeEntry_btm (id : Nat) : (s.removeEntry id).btm = s.btm := rfl
@[simp] theorem removeEntry_evq (id : Nat) : (s.removeEntry id).evq = s.evq := rfl
@[simp] theorem removeEntry_lnk (id : Nat) : (s.removeEntry id).lnk = s.lnk := rfl
@[simp] theorem removeEntry_work (id : Nat) : (s.removeEntry id).work = s.work := rfl
@[simp] theorem removeEntry_freeIdx (id : Nat) : (s.removeEntry id).freeIdx = s.freeIdx := rfl

/-! ### setPending -/

@[simp] theorem setPending_pending (id : Nat) (p : Bool) : (s.setPending id p).pending = s.pending := rfl
@[simp] theorem setPending_held (id : Nat) (p : Bool) : (s.setPending id p).held = s.held := rfl
@[simp] theorem setPending_mdc (id : Nat) (p : Bool) : (s.setPending id p).mdc = s.mdc := rfl
@[simp] theorem setPending_dmc (id : Nat) (p : Bool) : (s.setPending id p).dmc = s.dmc := rfl
@[simp] theorem setPending_rmp (id : Nat) (p : Bool) : (s.setPending id p).rmp = s.rmp := rfl
@[simp] theorem setPending_wlu (id : Nat) (p : Bool) : (s.setPending id p).wlu = s.wlu := rfl
@[simp] theorem setPending_apq (id : Nat) (p : Bool) : (s.setPending id p).apq = s.apq := rfl
@[simp] theorem setPending_adm (id : Nat) (p : Bool) : (s.setPending id p).adm = s.adm := rfl
@[simp] theorem setPending_ssc (id : Nat) (p : Bool) : (s.setPending id p).ssc = s.ssc := rfl
@[simp] theorem setPending_chm (id : Nat) (p : Bool) : (s.setPending id p).chm = s.chm := rfl
@[simp] theorem setPending_btm (id : Nat) (p : Bool) : (s.setPending id p).btm = s.btm := rfl
@[simp] theorem setPending_evq (id : Nat) (p : Bool) : (s.setPending id p).evq = s.evq := rfl
@[simp] theorem setPending_lnk (id : Nat) (p : Bool) : (s.setPending id p).lnk = s.lnk := rfl
@[simp] theorem setPending_work (id : Nat) (p : Bool) : (s.setPending id p).work = s.work := rfl
@[simp] theorem setPending_freeIdx (id : Nat) (p : Bool) : (s.setPending id p).freeIdx = s.freeIdx := rfl

/-! ### linkUp -/

@[simp] theorem linkUp_pending : (s.linkUp).pending = s.pending := rfl
@[simp] theorem linkUp_held : (s.linkUp).held = s.held := rfl
@[simp] theorem linkUp_mdc : (s.linkUp).mdc = s.mdc := rfl
@[simp] theorem linkUp_dmc : (s.linkUp).dmc = s.dmc := rfl
@[simp] theorem linkUp_rmp : (s.linkUp).rmp = s.rmp := rfl
@[simp] theorem linkUp_wlu : (s.linkUp).wlu = s.wlu := rfl
@[simp] theorem linkUp_apq : (s.linkUp).apq = s.apq := rfl
@[simp] theorem linkUp_adm : (s.linkUp).adm = s.adm := rfl
@[simp] theorem linkUp_ssc : (s.linkUp).ssc = s.ssc := rfl
@[simp] theorem linkUp_chm : (s.linkUp).chm = s.chm := rfl
@[simp] theorem linkUp_btm : (s.linkUp).btm = s.btm := rfl
@[simp] theorem linkUp_wsc : (s.linkUp).wsc = s.wsc := rfl
@[simp] theorem linkUp_evq : (s.linkUp).evq = s.evq := rfl
@[simp] theorem linkUp_work : (s.linkUp).work = s.work := rfl
@[simp] theorem linkUp_freeIdx : (s.linkUp).freeIdx = s.freeIdx := rfl

/-! ### linkLoss -/

@[simp] theorem linkLoss_pending : (s.linkLoss).pending = s.pending := rfl
@[simp] theorem linkLoss_held : (s.linkLoss).held = s.held := rfl
@[simp] theorem linkLoss_mdc : (s.linkLoss).mdc = s.mdc := rfl
@[simp] theorem linkLoss_rmp : (s.linkLoss).rmp = s.rmp := rfl
@[simp] theorem linkLoss_wlu : (s.linkLoss).wlu = s.wlu := rfl
@[simp] theorem linkLoss_apq : (s.linkLoss).apq = s.apq := rfl
@[simp] theorem linkLoss_adm : (s.linkLoss).adm = s.adm := rfl
@[simp] theorem linkLoss_ssc : (s.linkLoss).ssc = s.ssc := rfl
@[simp] theorem linkLoss_chm : (s.linkLoss).chm = s.chm := rfl
@[simp] theorem linkLoss_btm : (s.linkLoss).btm = s.btm := rfl
@[simp] theorem linkLoss_wsc : (s.linkLoss).wsc = s.wsc := rfl
@[simp] theorem linkLoss_work : (s.linkLoss).work = s.work := rfl
@[simp] theorem linkLoss_freeIdx : (s.linkLoss).freeIdx = s.freeIdx := rfl

/-! ### freeSlot -/

@[simp] theorem freeSlot_pending (d : DomId) : (s.freeSlot d).pending = s.pending := rfl
@[simp] theorem freeSlot_held (d : DomId) : (s.freeSlot d).held = s.held := rfl
@[simp] theorem freeSlot_mdc (d : DomId) : (s.freeSlot d).mdc = s.mdc := rfl
@[simp] theorem freeSlot_dmc (d : DomId) : (s.freeSlot d).dmc = s.dmc := rfl
@[simp] theorem freeSlot_wlu (d : DomId) : (s.freeSlot d).wlu = s.wlu := rfl
@[simp] theorem freeSlot_apq (d : DomId) : (s.freeSlot d).apq = s.apq := rfl
@[simp] theorem freeSlot_adm (d : DomId) : (s.freeSlot d).adm = s.adm := rfl
@[simp] theorem freeSlot_ssc (d : DomId) : (s.freeSlot d).ssc = s.ssc := rfl
@[simp] theorem freeSlot_chm (d : DomId) : (s.freeSlot d).chm = s.chm := rfl
@[simp] theorem freeSlot_btm (d : DomId) : (s.freeSlot d).btm = s.btm := rfl
@[simp] theorem freeSlot_wsc (d : DomId) : (s.freeSlot d).wsc = s.wsc := rfl
@[simp] theorem freeSlot_evq (d : DomId) : (s.freeSlot d).evq = s.evq := rfl
@[simp] theorem freeSlot_lnk (d : DomId) : (s.freeSlot d).lnk = s.lnk := rfl
@[simp] theorem freeSlot_work (d : DomId) : (s.freeSlot d).work = s.work := rfl
@[simp] theorem freeSlot_freeIdx (d : DomId) : (s.freeSlot d).freeIdx = s.freeIdx := rfl

/-! ### enqueueArrivals -/

@[simp] theorem enqueueArrivals_pending : (s.enqueueArrivals).pending = s.pending := rfl
@[simp] theorem enqueueArrivals_held : (s.enqueueArrivals).held = s.held := rfl
@[simp] theorem enqueueArrivals_mdc : (s.enqueueArrivals).mdc = s.mdc := rfl
@[simp] theorem enqueueArrivals_dmc : (s.enqueueArrivals).dmc = s.dmc := rfl
@[simp] theorem enqueueArrivals_wlu : (s.enqueueArrivals).wlu = s.wlu := rfl
@[simp] theorem enqueueArrivals_apq : (s.enqueueArrivals).apq = s.apq := rfl
@[simp] theorem enqueueArrivals_adm : (s.enqueueArrivals).adm = s.adm := rfl
@[simp] theorem enqueueArrivals_ssc : (s.enqueueArrivals).ssc = s.ssc := rfl
@[simp] theorem enqueueArrivals_chm : (s.enqueueArrivals).chm = s.chm := rfl
@[simp] theorem enqueueArrivals_btm : (s.enqueueArrivals).btm = s.btm := rfl
@[simp] theorem enqueueArrivals_wsc : (s.enqueueArrivals).wsc = s.wsc := rfl
@[simp] theorem enqueueArrivals_evq : (s.enqueueArrivals).evq = s.evq := rfl
@[simp] theorem enqueueArrivals_lnk : (s.enqueueArrivals).lnk = s.lnk := rfl
@[simp] theorem enqueueArrivals_work : (s.enqueueArrivals).work = s.work := rfl
@[simp] theorem enqueueArrivals_freeIdx : (s.enqueueArrivals).freeIdx = s.freeIdx := rfl

/-! ### refreshSessions -/

@[simp] theorem refreshSessions_pending : (s.refreshSessions).pending = s.pending := rfl
@[simp] theorem refreshSessions_held : (s.refreshSessions).held = s.held := rfl
@[simp] theorem refreshSessions_mdc : (s.refreshSessions).mdc = s.mdc := rfl
@[simp] theorem refreshSessions_dmc : (s.refreshSessions).dmc = s.dmc := rfl
@[simp] theorem refreshSessions_rmp : (s.refreshSessions).rmp = s.rmp := rfl
@[simp] theorem refreshSessions_wlu : (s.refreshSessions).wlu = s.wlu := rfl
@[simp] theorem refreshSessions_apq : (s.refreshSessions).apq = s.apq := rfl
@[simp] theorem refreshSessions_adm : (s.refreshSessions).adm = s.adm := rfl
@[simp] theorem refreshSessions_chm : (s.refreshSessions).chm = s.chm := rfl
@[simp] theorem refreshSessions_btm : (s.refreshSessions).btm = s.btm := rfl
@[simp] theorem refreshSessions_wsc : (s.refreshSessions).wsc = s.wsc := rfl
@[simp] theorem refreshSessions_evq : (s.refreshSessions).evq = s.evq := rfl
@[simp] theorem refreshSessions_lnk : (s.refreshSessions).lnk = s.lnk := rfl
@[simp] theorem refreshSessions_work : (s.refreshSessions).work = s.work := rfl
@[simp] theorem refreshSessions_freeIdx : (s.refreshSessions).freeIdx = s.freeIdx := rfl

/-! ### setReceiver -/

@[simp] theorem setReceiver_pending (r : Receiver) : (s.setReceiver r).pending = s.pending := rfl
@[simp] theorem setReceiver_held (r : Receiver) : (s.setReceiver r).held = s.held := rfl
@[simp] theorem setReceiver_mdc (r : Receiver) : (s.setReceiver r).mdc = s.mdc := rfl
@[simp] theorem setReceiver_dmc (r : Receiver) : (s.setReceiver r).dmc = s.dmc := rfl
@[simp] theorem setReceiver_rmp (r : Receiver) : (s.setReceiver r).rmp = s.rmp := rfl
@[simp] theorem setReceiver_wlu (r : Receiver) : (s.setReceiver r).wlu = s.wlu := rfl
@[simp] theorem setReceiver_apq (r : Receiver) : (s.setReceiver r).apq = s.apq := rfl
@[simp] theorem setReceiver_adm (r : Receiver) : (s.setReceiver r).adm = s.adm := rfl
@[simp] theorem setReceiver_ssc (r : Receiver) : (s.setReceiver r).ssc = s.ssc := rfl
@[simp] theorem setReceiver_chm (r : Receiver) : (s.setReceiver r).chm = s.chm := rfl
@[simp] theorem setReceiver_btm (r : Receiver) : (s.setReceiver r).btm = s.btm := rfl
@[simp] theorem setReceiver_wsc (r : Receiver) : (s.setReceiver r).wsc = s.wsc := rfl
@[simp] theorem setReceiver_evq (r : Receiver) : (s.setReceiver r).evq = s.evq := rfl
@[simp] theorem setReceiver_work (r : Receiver) : (s.setReceiver r).work = s.work := rfl
@[simp] theorem setReceiver_freeIdx (r : Receiver) : (s.setReceiver r).freeIdx = s.freeIdx := rfl

/-! ### endEvent -/

@[simp] theorem endEvent_pending : (s.endEvent).pending = s.pending := rfl
@[simp] theorem endEvent_held : (s.endEvent).held = s.held := rfl
@[simp] theorem endEvent_mdc : (s.endEvent).mdc = s.mdc := rfl
@[simp] theorem endEvent_dmc : (s.endEvent).dmc = s.dmc := rfl
@[simp] theorem endEvent_rmp : (s.endEvent).rmp = s.rmp := rfl
@[simp] theorem endEvent_wlu : (s.endEvent).wlu = s.wlu := rfl
@[simp] theorem endEvent_apq : (s.endEvent).apq = s.apq := rfl
@[simp] theorem endEvent_adm : (s.endEvent).adm = s.adm := rfl
@[simp] theorem endEvent_ssc : (s.endEvent).ssc = s.ssc := rfl
@[simp] theorem endEvent_chm : (s.endEvent).chm = s.chm := rfl
@[simp] theorem endEvent_btm : (s.endEvent).btm = s.btm := rfl
@[simp] theorem endEvent_wsc : (s.endEvent).wsc = s.wsc := rfl
@[simp] theorem endEvent_evq : (s.endEvent).evq = s.evq := rfl
@[simp] theorem endEvent_lnk : (s.endEvent).lnk = s.lnk := rfl
@[simp] theorem endEvent_freeIdx : (s.endEvent).freeIdx = s.freeIdx := rfl

/-! ### sendReply -/

@[simp] theorem sendReply_pending (type : Byte) (a : Answer) : (s.sendReply type a).pending = s.pending := rfl
@[simp] theorem sendReply_held (type : Byte) (a : Answer) : (s.sendReply type a).held = s.held := rfl
@[simp] theorem sendReply_mdc (type : Byte) (a : Answer) : (s.sendReply type a).mdc = s.mdc := rfl
@[simp] theorem sendReply_dmc (type : Byte) (a : Answer) : (s.sendReply type a).dmc = s.dmc := rfl
@[simp] theorem sendReply_rmp (type : Byte) (a : Answer) : (s.sendReply type a).rmp = s.rmp := rfl
@[simp] theorem sendReply_wlu (type : Byte) (a : Answer) : (s.sendReply type a).wlu = s.wlu := rfl
@[simp] theorem sendReply_apq (type : Byte) (a : Answer) : (s.sendReply type a).apq = s.apq := rfl
@[simp] theorem sendReply_adm (type : Byte) (a : Answer) : (s.sendReply type a).adm = s.adm := rfl
@[simp] theorem sendReply_ssc (type : Byte) (a : Answer) : (s.sendReply type a).ssc = s.ssc := rfl
@[simp] theorem sendReply_chm (type : Byte) (a : Answer) : (s.sendReply type a).chm = s.chm := rfl
@[simp] theorem sendReply_btm (type : Byte) (a : Answer) : (s.sendReply type a).btm = s.btm := rfl
@[simp] theorem sendReply_wsc (type : Byte) (a : Answer) : (s.sendReply type a).wsc = s.wsc := rfl
@[simp] theorem sendReply_evq (type : Byte) (a : Answer) : (s.sendReply type a).evq = s.evq := rfl
@[simp] theorem sendReply_work (type : Byte) (a : Answer) : (s.sendReply type a).work = s.work := rfl
@[simp] theorem sendReply_freeIdx (type : Byte) (a : Answer) : (s.sendReply type a).freeIdx = s.freeIdx := rfl

/-! ### decrement -/

@[simp] theorem decrement_pending (i p : Nat) : (s.decrement i p).pending = s.pending := rfl
@[simp] theorem decrement_held (i p : Nat) : (s.decrement i p).held = s.held := rfl
@[simp] theorem decrement_mdc (i p : Nat) : (s.decrement i p).mdc = s.mdc := rfl
@[simp] theorem decrement_dmc (i p : Nat) : (s.decrement i p).dmc = s.dmc := rfl
@[simp] theorem decrement_rmp (i p : Nat) : (s.decrement i p).rmp = s.rmp := rfl
@[simp] theorem decrement_wlu (i p : Nat) : (s.decrement i p).wlu = s.wlu := rfl
@[simp] theorem decrement_apq (i p : Nat) : (s.decrement i p).apq = s.apq := rfl
@[simp] theorem decrement_adm (i p : Nat) : (s.decrement i p).adm = s.adm := rfl
@[simp] theorem decrement_ssc (i p : Nat) : (s.decrement i p).ssc = s.ssc := rfl
@[simp] theorem decrement_btm (i p : Nat) : (s.decrement i p).btm = s.btm := rfl
@[simp] theorem decrement_wsc (i p : Nat) : (s.decrement i p).wsc = s.wsc := rfl
@[simp] theorem decrement_evq (i p : Nat) : (s.decrement i p).evq = s.evq := rfl
@[simp] theorem decrement_lnk (i p : Nat) : (s.decrement i p).lnk = s.lnk := rfl
@[simp] theorem decrement_work (i p : Nat) : (s.decrement i p).work = s.work := rfl
@[simp] theorem decrement_freeIdx (i p : Nat) : (s.decrement i p).freeIdx = s.freeIdx := rfl

/-! ### startHandover -/

@[simp] theorem startHandover_pending : (s.startHandover).pending = s.pending := rfl
@[simp] theorem startHandover_held : (s.startHandover).held = s.held := rfl
@[simp] theorem startHandover_dmc : (s.startHandover).dmc = s.dmc := rfl
@[simp] theorem startHandover_rmp : (s.startHandover).rmp = s.rmp := rfl
@[simp] theorem startHandover_wlu : (s.startHandover).wlu = s.wlu := rfl
@[simp] theorem startHandover_apq : (s.startHandover).apq = s.apq := rfl
@[simp] theorem startHandover_adm : (s.startHandover).adm = s.adm := rfl
@[simp] theorem startHandover_ssc : (s.startHandover).ssc = s.ssc := rfl
@[simp] theorem startHandover_chm : (s.startHandover).chm = s.chm := rfl
@[simp] theorem startHandover_btm : (s.startHandover).btm = s.btm := rfl
@[simp] theorem startHandover_wsc : (s.startHandover).wsc = s.wsc := rfl
@[simp] theorem startHandover_evq : (s.startHandover).evq = s.evq := rfl
@[simp] theorem startHandover_lnk : (s.startHandover).lnk = s.lnk := rfl
@[simp] theorem startHandover_work : (s.startHandover).work = s.work := rfl
@[simp] theorem startHandover_freeIdx : (s.startHandover).freeIdx = s.freeIdx := rfl

/-! ### stopHandover -/

@[simp] theorem stopHandover_pending : (s.stopHandover).pending = s.pending := rfl
@[simp] theorem stopHandover_held : (s.stopHandover).held = s.held := rfl
@[simp] theorem stopHandover_dmc : (s.stopHandover).dmc = s.dmc := rfl
@[simp] theorem stopHandover_rmp : (s.stopHandover).rmp = s.rmp := rfl
@[simp] theorem stopHandover_wlu : (s.stopHandover).wlu = s.wlu := rfl
@[simp] theorem stopHandover_apq : (s.stopHandover).apq = s.apq := rfl
@[simp] theorem stopHandover_adm : (s.stopHandover).adm = s.adm := rfl
@[simp] theorem stopHandover_ssc : (s.stopHandover).ssc = s.ssc := rfl
@[simp] theorem stopHandover_chm : (s.stopHandover).chm = s.chm := rfl
@[simp] theorem stopHandover_btm : (s.stopHandover).btm = s.btm := rfl
@[simp] theorem stopHandover_wsc : (s.stopHandover).wsc = s.wsc := rfl
@[simp] theorem stopHandover_evq : (s.stopHandover).evq = s.evq := rfl
@[simp] theorem stopHandover_lnk : (s.stopHandover).lnk = s.lnk := rfl
@[simp] theorem stopHandover_work : (s.stopHandover).work = s.work := rfl
@[simp] theorem stopHandover_freeIdx : (s.stopHandover).freeIdx = s.freeIdx := rfl

/-! ### idleLine -/

@[simp] theorem idleLine_pending (l : LineId) : (s.idleLine l).pending = s.pending := rfl
@[simp] theorem idleLine_held (l : LineId) : (s.idleLine l).held = s.held := rfl
@[simp] theorem idleLine_mdc (l : LineId) : (s.idleLine l).mdc = s.mdc := rfl
@[simp] theorem idleLine_dmc (l : LineId) : (s.idleLine l).dmc = s.dmc := rfl
@[simp] theorem idleLine_rmp (l : LineId) : (s.idleLine l).rmp = s.rmp := rfl
@[simp] theorem idleLine_wlu (l : LineId) : (s.idleLine l).wlu = s.wlu := rfl
@[simp] theorem idleLine_adm (l : LineId) : (s.idleLine l).adm = s.adm := rfl
@[simp] theorem idleLine_ssc (l : LineId) : (s.idleLine l).ssc = s.ssc := rfl
@[simp] theorem idleLine_chm (l : LineId) : (s.idleLine l).chm = s.chm := rfl
@[simp] theorem idleLine_btm (l : LineId) : (s.idleLine l).btm = s.btm := rfl
@[simp] theorem idleLine_wsc (l : LineId) : (s.idleLine l).wsc = s.wsc := rfl
@[simp] theorem idleLine_evq (l : LineId) : (s.idleLine l).evq = s.evq := rfl
@[simp] theorem idleLine_lnk (l : LineId) : (s.idleLine l).lnk = s.lnk := rfl
@[simp] theorem idleLine_work (l : LineId) : (s.idleLine l).work = s.work := rfl
@[simp] theorem idleLine_freeIdx (l : LineId) : (s.idleLine l).freeIdx = s.freeIdx := rfl

/-! ### Reads after writes -/

/-- The entry of a changed table. -/
@[simp] theorem getElem_mapVec {α β : Type} {n : Nat} (f : α → β) (v : Vector α n) (i : Nat) (h : i < n) : (mapVec f v)[i] = f v[i] := by
  simp [mapVec, Vector.getElem_mk]

@[simp] theorem dom_updDom_self (d : DomId) (f : Domain → Domain) : (s.updDom d f).dom d = f (s.dom d) := by
  simp [State.dom, State.updDom]

theorem dom_updDom_ne (d e : DomId) (f : Domain → Domain) (h : e ≠ d) : (s.updDom d f).dom e = s.dom e := by
  have : d.val ≠ e.val := fun h' => h (Fin.ext h'.symm)
  simp [State.dom, State.updDom, Vector.getElem_set_ne, this]

theorem dom_updDom (d e : DomId) (f : Domain → Domain) : (s.updDom d f).dom e = if e = d then f (s.dom d) else s.dom e := by
  split
  · next h => rw [h, dom_updDom_self]
  · next h => exact dom_updDom_ne s d e f h

@[simp] theorem line_updLine_self (l : LineId) (f : Line → Line) : (s.updLine l f).line l = f (s.line l) := by
  simp [State.line, State.updLine]

theorem line_updLine_ne (l k : LineId) (f : Line → Line) (h : k ≠ l) : (s.updLine l f).line k = s.line k := by
  have : l.val ≠ k.val := fun h' => h (Fin.ext h'.symm)
  simp [State.line, State.updLine, Vector.getElem_set_ne, this]

theorem line_updLine (l k : LineId) (f : Line → Line) : (s.updLine l f).line k = if k = l then f (s.line l) else s.line k := by
  split
  · next h => rw [h, line_updLine_self]
  · next h => exact line_updLine_ne s l k f h

@[simp] theorem approach_updApproach_self (l : LineId) (f : Approach → Approach) :
    (s.updApproach l f).approach l = f (s.approach l) := by
  simp [State.approach, State.updApproach]

theorem approach_updApproach_ne (l k : LineId) (f : Approach → Approach) (h : k ≠ l) :
    (s.updApproach l f).approach k = s.approach k := by
  have : l.val ≠ k.val := fun h' => h (Fin.ext h'.symm)
  simp [State.approach, State.updApproach, Vector.getElem_set_ne, this]

@[simp] theorem cls_setClass_self (c : ClassId) (e : ClassEntry) : (s.setClass c e).cls c = e := by
  simp [State.cls, State.setClass]

theorem cls_setClass_ne (c k : ClassId) (e : ClassEntry) (h : k ≠ c) : (s.setClass c e).cls k = s.cls k := by
  have : c.val ≠ k.val := fun h' => h (Fin.ext h'.symm)
  simp [State.cls, State.setClass, Vector.getElem_set_ne, this]

end Sys2Proof.Machine
end

