-- ==== Sys2Proof/Laws/Fixed.lean ====
section
/-! SUPPORT. What the shared operations leave unchanged, by the views `State.base` and `State.deep` of Safety.lean. One lemma per shared
operation. -/

namespace Sys2Proof.Machine

theorem deep_base {s t : State} (h : s.deep = t.deep) : s.base = t.base := congrArg Prod.fst h
theorem deep_wlu {s t : State} (h : s.deep = t.deep) : s.wlu = t.wlu := congrArg (fun p => p.2.1) h
theorem deep_wsc {s t : State} (h : s.deep = t.deep) : s.wsc = t.wsc := congrArg (fun p => p.2.2) h

/-! ### What equal bases say, field by field -/

section Fields
variable {s t : State} (h : s.base = t.base)
include h
theorem base_pending : s.pending = t.pending := congrArg Base.pending h
theorem base_held : s.held = t.held := congrArg Base.held h
theorem base_freeIdx : s.freeIdx = t.freeIdx := congrArg Base.freeIdx h
theorem base_mode : s.mdc.mode = t.mdc.mode := congrArg (fun b => b.mdc.mode) h
theorem base_driveHold : s.mdc.driveHold = t.mdc.driveHold := congrArg (fun b => b.mdc.driveHold) h
theorem base_handoverHold : s.mdc.handoverHold = t.mdc.handoverHold := congrArg (fun b => b.mdc.handoverHold) h
theorem base_alwaysHold : s.mdc.alwaysHold = t.mdc.alwaysHold := congrArg (fun b => b.mdc.alwaysHold) h
theorem base_handoverTimer : s.mdc.handoverTimer = t.mdc.handoverTimer := congrArg (fun b => b.mdc.handoverTimer) h
theorem base_handoverTimeout : s.mdc.handoverTimeout = t.mdc.handoverTimeout := congrArg (fun b => b.mdc.handoverTimeout) h
theorem base_parkedFlag : s.mdc.parkedFlag = t.mdc.parkedFlag := congrArg (fun b => b.mdc.parkedFlag) h
theorem base_ign : s.mdc.ign = t.mdc.ign := congrArg (fun b => b.mdc.ign) h
theorem base_service : s.mdc.service = t.mdc.service := congrArg (fun b => b.mdc.service) h
theorem base_adm : s.adm = t.adm := congrArg Base.adm h
theorem base_btm : s.btm = t.btm := congrArg Base.btm h
theorem base_reserve : s.chm.reserve = t.chm.reserve := congrArg (fun b => b.chm.reserve) h
theorem base_reserveRem : s.chm.reserveRem = t.chm.reserveRem := congrArg (fun b => b.chm.reserveRem) h
theorem base_floor : s.chm.floorMah = t.chm.floorMah := congrArg (fun b => b.chm.floorMah) h
theorem base_baseline : s.chm.baseline = t.chm.baseline := congrArg (fun b => b.chm.baseline) h
theorem base_current : s.chm.current = t.chm.current := congrArg (fun b => b.chm.current) h
theorem base_voltage : s.chm.voltage = t.chm.voltage := congrArg (fun b => b.chm.voltage) h
theorem base_elapsed : s.chm.elapsed = t.chm.elapsed := congrArg (fun b => b.chm.elapsed) h
theorem base_seconds : s.wsc.seconds = t.wsc.seconds := congrArg (fun b => b.wsc.seconds) h
theorem base_fraction : s.wsc.fraction = t.wsc.fraction := congrArg (fun b => b.wsc.fraction) h
theorem base_riseDue : s.wsc.riseDue = t.wsc.riseDue := congrArg (fun b => b.wsc.riseDue) h
theorem base_limit : s.lnk.limit = t.lnk.limit := congrArg Base.limit h
theorem base_linkFault : s.lnk.linkFault = t.lnk.linkFault := congrArg Base.linkFault h
theorem base_locked : s.lnk.locked = t.lnk.locked := congrArg Base.locked h
theorem base_resetDue : s.lnk.resetDue = t.lnk.resetDue := congrArg Base.resetDue h
theorem base_policy : s.evq.policy = t.evq.policy := congrArg Base.policy h
theorem base_attnMode : s.evq.attnMode = t.evq.attnMode := congrArg Base.attnMode h

theorem base_dom (d : DomId) :
    (s.dom d).entry = (t.dom d).entry ∧ (s.dom d).pgPin = (t.dom d).pgPin ∧ (s.dom d).pgQual = (t.dom d).pgQual := by
  have h' := congrArg (fun b => b.doms[d.val]) h
  simpa [State.base, State.dom] using h'

theorem base_entry (d : DomId) : (s.dom d).entry = (t.dom d).entry := (base_dom h d).1

theorem base_line (l : LineId) :
    (s.line l).entry = (t.line l).entry ∧ (s.line l).pin = (t.line l).pin ∧
    (s.line l).debounced = (t.line l).debounced ∧ (s.line l).interval = (t.line l).interval := by
  have h' := congrArg (fun b => b.lines[l.val]) h
  simpa [State.base, State.line] using h'
end Fields

/-! ### Plain updates -/

@[simp] theorem updDom_base (s : State) (d : DomId) (f : Domain → Domain)
    (h : ∀ x, (f x).entry = x.entry ∧ (f x).pgPin = x.pgPin ∧ (f x).pgQual = x.pgQual) : (s.updDom d f).base = s.base := by
  have hv : (s.updDom d f).dmc.domains.map (fun x => (x.entry, x.pgPin, x.pgQual)) =
      s.dmc.domains.map (fun x => (x.entry, x.pgPin, x.pgQual)) := by
    ext i hi
    · by_cases he : d.val = i
      · subst he; simp [State.updDom, State.dom, h]
      · simp [State.updDom, Vector.getElem_set_ne, he]
    all_goals
      by_cases he : d.val = i
      · subst he; simp [State.updDom, State.dom, h]
      · simp [State.updDom, Vector.getElem_set_ne, he]
  unfold State.base
  rw [hv]
  rfl

@[simp] theorem updDom_deep (s : State) (d : DomId) (f : Domain → Domain)
    (h : ∀ x, (f x).entry = x.entry ∧ (f x).pgPin = x.pgPin ∧ (f x).pgQual = x.pgQual) : (s.updDom d f).deep = s.deep := by
  unfold State.deep
  rw [updDom_base s d f h]
  simp

@[simp] theorem updLine_base (s : State) (l : LineId) (f : Line → Line)
    (h : ∀ x, (f x).entry = x.entry ∧ (f x).pin = x.pin ∧ (f x).debounced = x.debounced ∧ (f x).interval = x.interval) :
    (s.updLine l f).base = s.base := by
  have hv : (s.updLine l f).wlu.lines.map (fun x => (x.entry, x.pin, x.debounced, x.interval)) =
      s.wlu.lines.map (fun x => (x.entry, x.pin, x.debounced, x.interval)) := by
    ext i hi
    all_goals
      by_cases he : l.val = i
      · subst he; simp [State.updLine, State.line, h]
      · simp [State.updLine, Vector.getElem_set_ne, he]
  unfold State.base
  rw [hv]
  rfl

/-- A fold of operations that keep a view of the state keeps it. -/
theorem foldl_keeps {α β : Type} (v : State → β) (f : State → α → State) (h : ∀ s a, v (f s a) = v s) (l : List α) (s : State) :
    v (l.foldl f s) = v s := by
  induction l generalizing s with
  | nil => rfl
  | cons a l ih => rw [List.foldl_cons, ih, h]

/-! ### Domains (Machine/Domains.lean) -/

@[simp] theorem updApproach_deep (s : State) (l : LineId) (f : Approach → Approach) : (s.updApproach l f).deep = s.deep := rfl
@[simp] theorem updSession_deep (s : State) (id : Nat) (f : Session → Session) : (s.updSession id f).deep = s.deep := rfl
@[simp] theorem startPulse_deep (s : State) : s.startPulse.deep = s.deep := rfl
@[simp] theorem linkUp_deep (s : State) : s.linkUp.deep = s.deep := rfl
@[simp] theorem linkLoss_deep (s : State) : s.linkLoss.deep = s.deep := rfl
@[simp] theorem freeSlot_deep (s : State) (d : DomId) : (s.freeSlot d).deep = s.deep := rfl
@[simp] theorem enqueueArrivals_deep (s : State) : s.enqueueArrivals.deep = s.deep := rfl
@[simp] theorem refreshSessions_deep (s : State) : s.refreshSessions.deep = s.deep := rfl

@[simp] theorem endEvent_deep (s : State) : s.endEvent.deep = s.deep := rfl

@[simp] theorem noteAppend_deep (s : State) : s.noteAppend.deep = s.deep := by
  unfold State.noteAppend; split <;> rfl

@[simp] theorem record_deep (s : State) (k : RecordKind) (a b : Nat) (v : Option Nat) : (s.record k a b v).deep = s.deep := by
  unfold State.record
  dsimp only
  split
  · exact noteAppend_deep s
  · split
    · rfl
    · exact noteAppend_deep s

@[simp] theorem refreshAttn_deep (s : State) : s.refreshAttn.deep = s.deep := by
  unfold State.refreshAttn; dsimp only; split <;> split <;> rfl

@[simp] theorem takePeriod_deep (s : State) (p : Nat) : (s.takePeriod p).deep = s.deep := by
  unfold State.takePeriod; split
  · rfl
  · split <;> rfl

@[simp] theorem refreshSub_deep (s : State) : s.refreshSub.deep = s.deep := by
  unfold State.refreshSub; dsimp only; rw [takePeriod_deep]; rfl

@[simp] theorem linkFollows_deep (s : State) (a b : DomState) : (s.linkFollows a b).deep = s.deep := by
  unfold State.linkFollows; split
  · rfl
  · split <;> rfl

@[simp] theorem setState_deep (s : State) (d : DomId) (n : DomState) (t : Nat) : (s.setState d n t).deep = s.deep := by
  unfold State.setState; dsimp only
  have key : ∀ u : State, (if d = 0 then (u.updDom d (fun x => { x with state := n, en := n.enOn, timer := t })).linkFollows
      (s.dom d).state n else u.updDom d (fun x => { x with state := n, en := n.enOn, timer := t })).deep = u.deep := by
    intro u
    split
    · simp
    · simp
  rw [key]
  split <;> split <;> rfl

@[simp] theorem enterOff_deep (s : State) (d : DomId) : (s.enterOff d).deep = s.deep := by
  unfold State.enterOff; simp

@[simp] theorem noteBlocked_deep (s : State) (d : DomId) : (s.noteBlocked d).deep = s.deep := by
  unfold State.noteBlocked; split
  · rfl
  · show (s.updDom d (fun x => { x with depReported := true })).deep = _
    simp

@[simp] theorem enterQueued_deep (s : State) (d : DomId) : (s.enterQueued d).deep = s.deep := by
  unfold State.enterQueued; dsimp only; split <;> simp

@[simp] theorem enterLatched_deep (s : State) (d : DomId) : (s.enterLatched d).deep = s.deep := by
  unfold State.enterLatched
  dsimp only
  rw [foldl_keeps State.deep _ (fun u e => by split <;> simp), setState_deep]

@[simp] theorem clearLatch_deep (s : State) (d : DomId) : (s.clearLatch d).deep = s.deep := by
  unfold State.clearLatch
  dsimp only
  rw [foldl_keeps State.deep _ (fun u e => by split <;> simp), enterOff_deep]

@[simp] theorem enterHoldoff_deep (s : State) (d : DomId) : (s.enterHoldoff d).deep = s.deep := setState_deep s d _ _

@[simp] theorem powerOff_deep (s : State) (d : DomId) (c : HeldCause) : (s.powerOff d c).deep = s.deep := by
  unfold State.powerOff; split
  · show (s.updDom 0 (fun x => { x with timer := 0 })).deep = _
    simp
  · simp

@[simp] theorem forceOff_deep (s : State) (d : DomId) : (s.forceOff d).deep = s.deep := by
  unfold State.forceOff; split <;> simp

@[simp] theorem forceCutoff_deep (s : State) : s.forceCutoff.deep = s.deep := by
  unfold State.forceCutoff
  exact foldl_keeps State.deep _ (fun u d => by split <;> simp) _ s

@[simp] theorem transition_deep (s : State) (d : DomId) : (s.transition d).deep = s.deep := by
  unfold State.transition; (repeat' split) <;> simp

@[simp] theorem transitionOf_deep (s : State) (d : DomId) : (s.transitionOf d).deep = s.deep := by
  unfold State.transitionOf
  split
  · split
    · rfl
    · rw [transition_deep]; rfl
  · simp

@[simp] theorem settle_deep (s : State) : s.settle.deep = s.deep := foldl_keeps State.deep _ transitionOf_deep _ s

@[simp] theorem demandChanged_deep (s : State) : s.demandChanged.deep = s.deep := by unfold State.demandChanged; simp

@[simp] theorem forceReset_deep (s : State) : s.forceReset.deep = s.deep := by
  unfold State.forceReset
  dsimp only
  rw [foldl_keeps State.deep _ (fun u d => by simp), foldl_keeps State.deep _ (fun u d => by (repeat' split) <;> simp)]

@[simp] theorem rampDone_deep (s : State) (d : DomId) : (s.rampDone d).deep = s.deep := by
  unfold State.rampDone; (repeat' split) <;> simp

@[simp] theorem afterFault_deep (s : State) (d : DomId) : (s.afterFault d).deep = s.deep := by
  unfold State.afterFault; (repeat' split) <;> simp

@[simp] theorem countFault_deep (s : State) (d : DomId) (n : Nat) : (s.countFault d n).deep = s.deep := by
  unfold State.countFault; dsimp only; simp

@[simp] theorem rampFailed_deep (s : State) (d : DomId) : (s.rampFailed d).deep = s.deep := by unfold State.rampFailed; simp

@[simp] theorem dropDescendant_deep (s : State) (d : DomId) : (s.dropDescendant d).deep = s.deep := by
  unfold State.dropDescendant; (repeat' split) <;> simp

@[simp] theorem pgLost_deep (s : State) (d : DomId) : (s.pgLost d).deep = s.deep := by
  unfold State.pgLost; dsimp only
  rw [afterFault_deep, countFault_deep, foldl_keeps State.deep _ dropDescendant_deep]

@[simp] theorem grant_deep (s : State) (d : DomId) : (s.grant d).deep = s.deep := by
  unfold State.grant; dsimp only
  split <;> exact setState_deep s d _ _

@[simp] theorem grantAndRamp_deep (s : State) (d : DomId) : (s.grantAndRamp d).deep = s.deep := by
  unfold State.grantAndRamp; dsimp only; split <;> simp

@[simp] theorem grants_deep (n : Nat) (s : State) : (State.grants n s).deep = s.deep := by
  induction n generalizing s with
  | zero => rfl
  | succ n ih => unfold State.grants; (repeat' split) <;> simp [ih]

@[simp] theorem refreshOwners_deep (s : State) : s.refreshOwners.deep = s.deep := by
  unfold State.refreshOwners
  exact foldl_keeps State.deep _ (fun u d => by simp) _ s

@[simp] theorem recordBlocked_deep (s : State) : s.recordBlocked.deep = s.deep := by
  unfold State.recordBlocked; dsimp only
  rw [foldl_keeps State.deep _ (fun u d => by split <;> simp)]; rfl

/-! ### Sessions and admission (Machine/Sessions.lean) -/

@[simp] theorem idleLines_deep (s : State) (ls : List LineId) : (s.idleLines ls).deep = s.deep :=
  foldl_keeps State.deep State.idleLine (fun _ _ => rfl) ls s

@[simp] theorem noteClosed_deep (s : State) (id : Nat) : (s.noteClosed id).deep = s.deep := by
  unfold State.noteClosed; dsimp only; (repeat' split) <;> rfl

@[simp] theorem closeSession_deep (s : State) (id : Nat) (w : CloseReason) : (s.closeSession id w).deep = s.deep := by
  unfold State.closeSession
  split
  · rfl
  · dsimp only; split <;> simp <;> rfl

@[simp] theorem closeWhere_deep (s : State) (p : Session → Bool) (w : CloseReason) : (s.closeWhere p w).deep = s.deep := by
  unfold State.closeWhere; exact foldl_keeps State.deep _ (fun u x => closeSession_deep u _ _) _ s

@[simp] theorem suspend_deep (s : State) (a b : Nat) : (s.suspend a b).deep = s.deep := by unfold State.suspend; simp

@[simp] theorem resume_deep (s : State) (r : Resume) : (s.resume r).deep = s.deep := by
  unfold State.resume; split
  · rfl
  · split
    · rfl
    · dsimp only; split <;> simp

@[simp] theorem resumeNow_deep (s : State) : s.resumeNow.deep = s.deep := by
  unfold State.resumeNow; split
  · rw [resume_deep]; rfl
  · rfl

@[simp] theorem refuse_deep (s : State) (r : Request) (w : Result) (id : Nat) : (s.refuse r w id).1.deep = s.deep := by
  unfold State.refuse; simp

@[simp] theorem takeId_deep (s : State) : s.takeId.1.deep = s.deep := rfl

theorem makePlace_deep (s t : State) (c : ClassEntry) (h : s.makePlace c = some t) : t.deep = s.deep := by
  unfold State.makePlace at h
  (repeat' split at h) <;> first | (cases h; rfl) | (cases h; simp) | cases h

@[simp] theorem exclude_deep (s : State) (p n : Nat) : (s.exclude p n).deep = s.deep := by
  unfold State.exclude; dsimp only
  have hc : ∀ (l : List Session) (u : State),
      (l.foldl (fun s x => s.closeSession x.id .preempted) u).deep = u.deep :=
    fun l u => foldl_keeps State.deep _ (fun u x => closeSession_deep u _ _) l u
  split
  · rfl
  · split
    · exact hc _ _
    · rw [hc]; simp

@[simp] theorem createSession_deep (s : State) (r : Request) (id : Nat) (p : Profile) (c : Nat) :
    (s.createSession r id p c).deep = s.deep := by
  unfold State.createSession; dsimp only; rw [record_deep]
  split <;> simp <;> rfl

@[simp] theorem decideNew_deep (s : State) (r : Request) : (s.decideNew r).1.deep = s.deep := by
  unfold State.decideNew; dsimp only
  split
  · simp
  · next t ht =>
    have h := makePlace_deep s t _ ht
    split
    · rw [refuse_deep, h]
    · split <;> split <;> split <;> simp [h]

@[simp] theorem recordCoalesced_deep (s : State) (id : Nat) (o : CoalesceOutcome) (n : Nat) :
    (s.recordCoalesced id o n).1.deep = s.deep := by unfold State.recordCoalesced; simp

@[simp] theorem lengthen_deep (s : State) (x : Session) : (s.lengthen x).1.deep = s.deep := by
  unfold State.lengthen; dsimp only; (repeat' split) <;> simp

@[simp] theorem lengthenHeld_deep (s : State) (x : Session) : (s.lengthenHeld x).1.deep = s.deep := by
  unfold State.lengthenHeld; dsimp only; split <;> simp

@[simp] theorem widen_deep (s : State) (x : Session) : (s.widen x).1.deep = s.deep := by
  unfold State.widen; dsimp only; split <;> simp

@[simp] theorem applyUpgrade_deep (s : State) (x : Session) (p : Profile) (c : Nat) : (s.applyUpgrade x p c).1.deep = s.deep := by
  unfold State.applyUpgrade; dsimp only; split <;> simp

@[simp] theorem upgrade_deep (s : State) (r : Request) (x : Session) : (s.upgrade r x).1.deep = s.deep := by
  unfold State.upgrade; dsimp only
  split
  · simp
  · split
    · simp
    · split
      · simp
      · rw [applyUpgrade_deep]; split <;> simp

@[simp] theorem join_deep (s : State) (x : Session) (l p : LineId) : (s.join x l p).1.deep = s.deep := by
  unfold State.join; dsimp only; split <;> simp

@[simp] theorem coalesce_deep (s : State) (r : Request) (x : Session) : (s.coalesce r x).1.deep = s.deep := by
  unfold State.coalesce; (repeat' split) <;> simp

@[simp] theorem decideRequest_deep (s : State) (r : Request) : (s.decideRequest r).1.deep = s.deep := by
  unfold State.decideRequest; dsimp only; (repeat' split) <;> simp

/-- The end of an event changes domain states, sessions, the ramp queue and slots, records, owners, the sub-state and the period; it
leaves the mode, the tables, the lines, the schedule, the reserve, the tier, the clock and the settings as they are. -/
@[simp] theorem finish_deep (s : State) : s.finish.deep = s.deep := by
  unfold State.finish; simp

/-! ### Lines and schedule: `base` only -/

theorem deep_to_base {s t : State} (h : t.deep = s.deep) : t.base = s.base := deep_base h

@[simp] theorem finish_base (s : State) : s.finish.base = s.base := deep_base (finish_deep s)
@[simp] theorem demandChanged_base (s : State) : s.demandChanged.base = s.base := deep_base (demandChanged_deep s)
@[simp] theorem record_base (s : State) (k : RecordKind) (a b : Nat) (v : Option Nat) : (s.record k a b v).base = s.base :=
  deep_base (record_deep s k a b v)
@[simp] theorem closeSession_base (s : State) (id : Nat) (w : CloseReason) : (s.closeSession id w).base = s.base :=
  deep_base (closeSession_deep s id w)
@[simp] theorem closeWhere_base (s : State) (p : Session → Bool) (w : CloseReason) : (s.closeWhere p w).base = s.base :=
  deep_base (closeWhere_deep s p w)
@[simp] theorem decideRequest_base (s : State) (r : Request) : (s.decideRequest r).1.base = s.base :=
  deep_base (decideRequest_deep s r)
@[simp] theorem upgrade_base (s : State) (r : Request) (x : Session) : (s.upgrade r x).1.base = s.base :=
  deep_base (upgrade_deep s r x)
@[simp] theorem idleLine_base (s : State) (l : LineId) : (s.idleLine l).base = s.base := rfl
@[simp] theorem updApproach_base (s : State) (l : LineId) (f : Approach → Approach) : (s.updApproach l f).base = s.base := rfl
@[simp] theorem updSession_base (s : State) (id : Nat) (f : Session → Session) : (s.updSession id f).base = s.base := rfl
@[simp] theorem refreshSub_base (s : State) : s.refreshSub.base = s.base := deep_base (refreshSub_deep s)
@[simp] theorem refreshAttn_base (s : State) : s.refreshAttn.base = s.base := deep_base (refreshAttn_deep s)
@[simp] theorem removeEntry_base (s : State) (id : Nat) : (s.removeEntry id).base = s.base := rfl
@[simp] theorem setPending_base (s : State) (id : Nat) (p : Bool) : (s.setPending id p).base = s.base := rfl

@[simp] theorem muteLine_base (s : State) (l : LineId) : (s.muteLine l).base = s.base := by
  unfold State.muteLine; dsimp only; rw [record_base]; simp

@[simp] theorem muteIfReached_base (s : State) (l : LineId) : (s.muteIfReached l).base = s.base := by
  unfold State.muteIfReached; dsimp only; split <;> simp

@[simp] theorem countNuisance_base (s : State) (l : LineId) : (s.countNuisance l).base = s.base := by
  unfold State.countNuisance; dsimp only; split
  · rw [muteIfReached_base]; simp
  · rfl

@[simp] theorem endMute_base (s : State) (l : LineId) (c : UnmuteCause) : (s.endMute l c).base = s.base := by
  unfold State.endMute; simp

@[simp] theorem stage1Trigger_base (s : State) (l : LineId) : (s.stage1Trigger l).base = s.base := by
  unfold State.stage1Trigger; dsimp only; split <;> simp

@[simp] theorem stage2Trigger_base (s : State) (l : LineId) : (s.stage2Trigger l).base = s.base := by
  unfold State.stage2Trigger
  exact foldl_keeps State.base _ (fun u x => by split <;> simp) _ s

@[simp] theorem roleTrigger_base (s : State) (l : LineId) (e : Edge) : (s.roleTrigger l e).base = s.base := by
  unfold State.roleTrigger; dsimp only; split <;> simp

@[simp] theorem trigger_base (s : State) (l : LineId) (e : Edge) : (s.trigger l e).base = s.base := by
  unfold State.trigger; dsimp only
  have h1 : ∀ u : State, (u.updLine l (fun x => { x with act := .spent })).base = u.base :=
    fun u => by simp
  have h2 : ∀ u : State, (u.updLine l (fun x => { x with mutedTriggers := min 65535 (x.mutedTriggers + 1) })).base = u.base :=
    fun u => by simp
  (repeat' split) <;> simp [h1, h2]

@[simp] theorem arm_base (s : State) (l : LineId) : (s.arm l).base = s.base := by
  unfold State.arm; dsimp only
  split
  · rw [trigger_base]; simp
  · simp

@[simp] theorem triggerPending_base (s : State) : s.triggerPending.base = s.base := by
  unfold State.triggerPending
  exact foldl_keeps State.base _ (fun u l => by dsimp only; split <;> simp) _ s

@[simp] theorem windowExpired_base (s : State) (l : LineId) (r : Listen) : (s.windowExpired l r).base = s.base := by
  unfold State.windowExpired; dsimp only; (repeat' split) <;> simp

@[simp] theorem disableLine_base (s : State) (l : LineId) : (s.disableLine l).base = s.base := by
  unfold State.disableLine; dsimp only
  split <;> simp

@[simp] theorem resetLines_base (s : State) : s.resetLines.base = s.base := by
  unfold State.resetLines
  exact foldl_keeps State.base _ (fun u l => by simp) _ s

@[simp] theorem advance_base (s : State) (e : SchedEntry) (d : Nat) : (s.advance e d).base = s.base := by
  unfold State.advance; dsimp only; split <;> rfl

@[simp] theorem recordMissed_deep (s : State) (e : SchedEntry) (n : Nat) : (s.recordMissed e n).deep = s.deep := by
  unfold State.recordMissed; split <;> simp

@[simp] theorem recordMissed_base (s : State) (e : SchedEntry) (n : Nat) : (s.recordMissed e n).base = s.base := by
  unfold State.recordMissed; split <;> simp

@[simp] theorem evaluateLate_base (s : State) (e : SchedEntry) : (s.evaluateLate e).base = s.base := by
  unfold State.evaluateLate; dsimp only; rw [advance_base]; split <;> simp

@[simp] theorem evaluateInDrive_base (s : State) (e : SchedEntry) : (s.evaluateInDrive e).base = s.base := by
  unfold State.evaluateInDrive; dsimp only; split <;> simp

@[simp] theorem evaluate_base (s : State) (id : Nat) : (s.evaluate id).base = s.base := by
  unfold State.evaluate; (repeat' split) <;> simp

@[simp] theorem evaluateWhere_base (s : State) (p : SchedEntry → Bool) : (s.evaluateWhere p).base = s.base := by
  unfold State.evaluateWhere; exact foldl_keeps State.base _ (fun u e => evaluate_base u _) _ s

@[simp] theorem evaluatePastDue_base (s : State) : s.evaluatePastDue.base = s.base := by unfold State.evaluatePastDue; simp

end Sys2Proof.Machine
end

