-- ==== Sys2Proof/Laws/Modes.lean ====
section
/-! SUPPORT. What entering a mode and software reset do to the base of the state (Machine/Modes.lean): the mode, the holds, the handover
timer; everything else of the base stays. -/

namespace Sys2Proof.Machine

@[simp] theorem setMode_base (s : State) (m : Mode) (c : ModeCause) : (s.setMode m c).base = { s with mdc.mode := m }.base := by
  unfold State.setMode; simp

theorem setHolds_base (s : State) (a b c : Bool) : (s.setHolds a b c).base = { s with mdc.driveHold := a, mdc.handoverHold := b, mdc.alwaysHold := c }.base := by
  unfold State.setHolds; simp

@[simp] theorem idleAll_base (s : State) : s.idleAll.base = s.base := by
  unfold State.idleAll; exact deep_base (idleLines_deep s _)

@[simp] theorem forceReset_base (s : State) : s.forceReset.base = s.base := deep_base (forceReset_deep s)

@[simp] theorem forceCutoff_base (s : State) : s.forceCutoff.base = s.base := deep_base (forceCutoff_deep s)

theorem enterCutoff_base (s : State) : s.enterCutoff.base =
   { s with mdc := { s.mdc with mode := .cutoff, handoverTimer := none, driveHold := false, handoverHold := false, alwaysHold := false } }.base := by
  unfold State.enterCutoff; dsimp only
  rw [refreshSub_base, forceCutoff_base, setHolds_base]
  have h := setMode_base s .cutoff .tierCutoff
  generalize s.setMode .cutoff .tierCutoff = u at h
  simp only [State.base, Base.mk.injEq] at h ⊢
  simp_all [State.stopHandover]

theorem enterDrive_base (s : State) : s.enterDrive.base =
   { s with mdc := { s.mdc with mode := .drive, handoverTimer := none, driveHold := true, handoverHold := false, alwaysHold := true } }.base := by
  unfold State.enterDrive; dsimp only
  rw [setHolds_base]
  have h : (((s.setMode .drive .ignitionOn).stopHandover.closeWhere (fun _ => true) .ignition).idleAll).base =
    { s with mdc := { s.mdc with mode := .drive, handoverTimer := none } }.base := by
    rw [idleAll_base, closeWhere_base]
    have h := setMode_base s .drive .ignitionOn
    generalize s.setMode .drive .ignitionOn = u at h
    simp only [State.base, Base.mk.injEq] at h ⊢
    simp_all [State.stopHandover]
  generalize ((s.setMode .drive .ignitionOn).stopHandover.closeWhere (fun _ => true) .ignition).idleAll = u at h
  simp only [State.base, Base.mk.injEq] at h ⊢
  simp_all

theorem enterParked_base (s : State) (c : ModeCause) : (s.enterParked c).base =
   { s with mdc := { s.mdc with mode := .parked, handoverTimer := none, driveHold := false, handoverHold := false, alwaysHold := true } }.base := by
  unfold State.enterParked; dsimp only
  rw [triggerPending_base, refreshSub_base, setHolds_base]
  have h := setMode_base s .parked c
  generalize s.setMode .parked c = u at h
  simp only [State.base, Base.mk.injEq] at h ⊢
  simp_all [State.stopHandover]

theorem enterHandover_base (s : State) : s.enterHandover.base =
   { s with mdc := if s.btm.tier = Tier.cutoff
      then { s.mdc with mode := .cutoff, handoverTimer := none, driveHold := false, handoverHold := false, alwaysHold := false }
      else { s.mdc with mode := .handover, driveHold := false, handoverHold := true, alwaysHold := true, handoverTimer := if s.mdc.parkedFlag then some (s.mdc.handoverTimeout * 1000) else none } }.base := by
  unfold State.enterHandover; dsimp only
  have h : (((s.setMode .handover .ignitionOff).setHolds false true true).startHandover.evaluateWhere SchedEntry.pending).base =
     { s with mdc := { s.mdc with mode := .handover, driveHold := false, handoverHold := true, alwaysHold := true, handoverTimer := if s.mdc.parkedFlag then some (s.mdc.handoverTimeout * 1000) else none } }.base := by
    rw [evaluateWhere_base]
    have h := setHolds_base (s.setMode .handover .ignitionOff) false true true
    have h2 := setMode_base s .handover .ignitionOff
    generalize (s.setMode .handover .ignitionOff).setHolds false true true = v at h
    generalize s.setMode .handover .ignitionOff = u at h h2
    simp only [State.base, Base.mk.injEq] at h h2 ⊢
    simp_all [State.startHandover]
  generalize ((s.setMode .handover .ignitionOff).setHolds false true true).startHandover.evaluateWhere SchedEntry.pending = u at h
  have hb := base_btm h
  split
  · next hc =>
    rw [hb] at hc
    rw [if_pos hc, enterCutoff_base]
    simp only [State.base, Base.mk.injEq] at h ⊢
    simp_all
  · next hc =>
    rw [hb] at hc
    rw [if_neg hc, h]

/-- Software reset's part of the base: mode, holds and handover timer by the debounced IGN state, the tier counters, LINK_FAULT and the
schedule; CUTOFF is entered at once from HANDOVER with the tier CUTOFF (R15, R183). -/
theorem softwareReset_base (s : State) : s.softwareReset.base =
    { s with
      mdc := if !s.mdc.ign.debounced && s.btm.tier = Tier.cutoff
        then { s.mdc with mode := .cutoff, handoverTimer := none, driveHold := false, handoverHold := false, alwaysHold := false }
        else { s.mdc with mode := if s.mdc.ign.debounced then .drive else .handover, driveHold := s.mdc.ign.debounced, handoverHold := !s.mdc.ign.debounced, alwaysHold := true, handoverTimer := if !s.mdc.ign.debounced && s.mdc.parkedFlag then some (s.mdc.handoverTimeout * 1000) else none }
      btm := { s.btm with fall := 0, rise := 0 }
      lnk := { s.lnk with linkFault := false, resetDue := false } }.base := by
  have h1 : s.resetRunning.base =
      { s with mdc.driveHold := false, mdc.handoverHold := false, mdc.alwaysHold := false }.base := by
    have h : ((s.closeWhere (fun _ => true) .reset).resetLines).base = s.base := by simp
    unfold State.resetRunning
    rw [forceReset_base]
    generalize (s.closeWhere (fun _ => true) .reset).resetLines = u at h
    simp only [State.base, Base.mk.injEq] at h ⊢
    simp_all
  have h2 : ∀ u : State, u.resetHolds.base = { u with
      mdc := { u.mdc with
        mode := if u.mdc.ign.debounced then .drive else .handover, driveHold := u.mdc.ign.debounced,
        handoverHold := !u.mdc.ign.debounced, alwaysHold := true,
        handoverTimer := if !u.mdc.ign.debounced && u.mdc.parkedFlag then some (u.mdc.handoverTimeout * 1000) else none }
      btm := { u.btm with fall := 0, rise := 0 } }.base := by
    intro u
    have h := setHolds_base u.resetMode u.mdc.ign.debounced (!u.mdc.ign.debounced) true
    have hi := base_ign h
    unfold State.resetHolds; dsimp only
    generalize u.resetMode.setHolds u.mdc.ign.debounced (!u.mdc.ign.debounced) true = v at h hi
    have hi' : v.mdc.ign = u.mdc.ign := hi
    rw [hi']
    cases hd : u.mdc.ign.debounced <;> rw [hd] at h <;>
      simp only [State.base, Base.mk.injEq, State.resetMode, hd] at h ⊢ <;>
      simp_all [State.stopHandover, State.startHandover]
  have h4 : ∀ u : State, u.resetLink.resetEvents.base =
      { u with lnk := { u.lnk with linkFault := false, resetDue := false } }.base := by
    intro u; unfold State.resetEvents; rw [record_base]; rfl
  unfold State.softwareReset; dsimp only
  have h5 := h4 s.resetRunning.resetHolds
  have h6 := h2 s.resetRunning
  generalize s.resetRunning.resetHolds = v at h5 h6
  generalize v.resetLink.resetEvents = w at h5
  generalize s.resetRunning = u at h1 h6
  have hw : w.base = { s with
      mdc := { s.mdc with
        mode := if s.mdc.ign.debounced then .drive else .handover, driveHold := s.mdc.ign.debounced,
        handoverHold := !s.mdc.ign.debounced, alwaysHold := true,
        handoverTimer := if !s.mdc.ign.debounced && s.mdc.parkedFlag then some (s.mdc.handoverTimeout * 1000) else none }
      btm := { s.btm with fall := 0, rise := 0 }
      lnk := { s.lnk with linkFault := false, resetDue := false } }.base := by
    simp only [State.base, Base.mk.injEq] at h1 h5 h6 ⊢
    simp_all
  have hm := base_mode hw
  have ht := congrArg (fun b => b.tier) (base_btm hw)
  dsimp only at hm ht
  have hc : (w.mdc.mode = .handover && w.btm.tier = .cutoff) = (!s.mdc.ign.debounced && s.btm.tier = .cutoff) := by
    rw [hm, ht]; cases s.mdc.ign.debounced <;> simp
  rw [hc]
  cases hb : (!s.mdc.ign.debounced && decide (s.btm.tier = .cutoff))
  · simpa using hw
  · simp only [if_true]
    rw [enterCutoff_base]
    simp only [State.base, Base.mk.injEq] at hw ⊢
    simp_all

/-- Ending the mutes of the muted lines leaves the base. -/
theorem endMutes_base (s : State) (c : UnmuteCause) :
    (lineIds.foldl (fun s l => if (s.line l).mute.isSome then s.endMute l c else s) s).base = s.base :=
  foldl_keeps State.base _ (fun u l => by split <;> simp) _ s

/-- PARK's settings: the reserve, its remainder and the flag (R9). -/
theorem parkSettings_base (s : State) (n : Nat) : (s.parkSettings n).base =
    { s with chm := { s.chm with reserve := n * 3600, reserveRem := 0 }, mdc := { s.mdc with parkedFlag := true } }.base := by
  have h := endMutes_base { s with chm.reserve := n * 3600, chm.reserveRem := 0 } .park
  unfold State.parkSettings; dsimp only
  generalize lineIds.foldl (fun s l => if (s.line l).mute.isSome then s.endMute l .park else s)
    { s with chm.reserve := n * 3600, chm.reserveRem := 0 } = u at h
  simp only [State.base, Base.mk.injEq] at h ⊢
  simp_all

@[simp] theorem softwareReset_held (s : State) : s.softwareReset.held = s.held := (base_held (softwareReset_base s)).trans rfl
@[simp] theorem softwareReset_pending (s : State) : s.softwareReset.pending = s.pending :=
  (base_pending (softwareReset_base s)).trans rfl

@[simp] theorem pulseAfterRead_base (s : State) : s.pulseAfterRead.base = s.base := by
  unfold State.pulseAfterRead; dsimp only; split <;> rfl

@[simp] theorem releaseD0_base (s : State) : s.releaseD0.base = s.base := by
  unfold State.releaseD0; dsimp only
  split
  · rw [demandChanged_base]; exact deep_base (enterOff_deep ..)
  · rfl

/-- The end of a reply: the base is that of the software reset if one was due, and the reset is no longer due. -/
theorem replySent_base (s : State) :
    s.replySent.base = { (if s.lnk.resetDue then s.softwareReset else s) with lnk.resetDue := false }.base := by
  unfold State.replySent; dsimp only
  rw [finish_base, pulseAfterRead_base, releaseD0_base]
  rfl

@[simp] theorem replySent_held (s : State) : s.replySent.held = s.held := by
  rw [base_held (replySent_base s)]
  show (if s.lnk.resetDue then s.softwareReset else s).held = s.held
  split <;> simp

end Sys2Proof.Machine
end

