-- ==== Sys2Proof/Laws/StepKeeps.lean ====
section
/-! SUPPORT. What a step can do, said once: `Kept P` lists what must keep a property P, one field per kind of work; `step_keeps` says that
then every step keeps P. -/

namespace Sys2Proof.Machine

open Host (Outcome)

/-- P is kept by every piece of work that a command consists of. The hypotheses of a field are what the step has checked. -/
structure Kept (P : State → Prop) : Prop where
  lapse : ∀ s n, P s → P (s.lapse n)
  request : ∀ s type p rest, s.held = false → s.lnk.reply = none → s.lnk.inbound = .frame type p :: rest → P s →
    P ({ s with lnk.inbound := rest }.takeFrame type p)
  notice : ∀ s e rest, s.held = false → s.lnk.reply = none → s.lnk.inbound = .notice e :: rest → P s →
    P ({ s with lnk.inbound := rest }.takeNotice e)
  arrive : ∀ s e, s.linkLive = true → P s → P (s.arrive e)
  receiver : ∀ s r, s.lnk.receiver ≠ .dead → r ≠ .dead → P s → P (s.setReceiver r)
  replySent : ∀ s, s.held = false → s.lnk.reply.isSome = true → P s → P s.replySent
  ignPin : ∀ s i, i = (if s.held then s.mdc.ign.pinChangeHeld true else s.mdc.ign.pinChange true) ∨
    i = (if s.held then s.mdc.ign.pinChangeHeld false else s.mdc.ign.pinChange false) → P s → P { s with mdc.ign := i }
  servicePin : ∀ s i, P s → P { s with mdc.service := i }
  pgPin : ∀ s d b, P s → P (s.updDom d (fun x => if s.held then { x with pgPin := b } else x.pgChange b))
  wlPinHeld : ∀ s l b, s.held = true → P s → P (s.updLine l (fun x => { x with pin := b }))
  holdInReset : ∀ s, P s → P s.holdInReset
  leaveReset : ∀ s, s.held = true → P s → P s.powerOn.finish
  ignSettles : ∀ s, s.held = false → P s → P s.ignSettles.finish
  wlChange : ∀ s l b, s.held = false → P s → P (s.wlChange l b).finish
  wlSettles : ∀ s l, s.held = false → P s → P (s.wlSettles l).finish
  rampDone : ∀ s d, s.held = false → (s.dom d).state = .ramping → P s → P (s.rampDone d).demandChanged.finish
  pgLost : ∀ s d, s.held = false → (s.dom d).state.live = true → P s →
    P (State.finish (if (s.pgLost d).demandChanged.lnk.resetDue && (s.pgLost d).demandChanged.lnk.reply.isNone
      then (s.pgLost d).demandChanged.softwareReset else (s.pgLost d).demandChanged))
  rampFailed : ∀ s d, s.held = false → (s.dom d).state = .ramping → P s → P (s.rampFailed d).demandChanged.finish
  holdoff : ∀ s d, s.held = false → (s.dom d).state = .holdoff → P s → P (s.powerOff d .demandGone).demandChanged.finish
  retry : ∀ s d, s.held = false → (s.dom d).state = .faultWait → P s → P (s.enterQueued d).demandChanged.finish
  nuisanceWindow : ∀ s l, s.held = false → P s → P (s.updLine l (fun x => { x with window := none, nuisance := 0 })).finish
  endMute : ∀ s l, s.held = false → P s → P (s.endMute l .expired).finish
  windowExpired : ∀ s l r, s.held = false → (s.approach l).listen = some r → P s → P (s.windowExpired l r).finish
  handoverTimeout : ∀ s, s.held = false → s.mdc.handoverTimer.isSome = true → P s → P (s.enterParked .handoverTimeout).finish
  sample : ∀ s i v p, s.held = false → P s → P (s.sampleWork i v p).finish
  closeSession : ∀ s id, s.held = false → P s → P (s.closeSession id .expired).finish
  secondRises : ∀ s, s.held = false → P s → P s.secondRises.finish
  finish : ∀ s, s.held = false → P s → P s.finish
  pulseEnd : ∀ s, s.held = false → P s → P (State.finish { s with evq.pulse := none })

/-! ### What a lapse leaves -/

@[simp] theorem lapse_held (s : State) (n : Nat) : (s.lapse n).held = s.held := by
  unfold State.lapse; (repeat' split) <;> rfl

theorem lapse_dom_state (s : State) (n : Nat) (d : DomId) : ((s.lapse n).dom d).state = (s.dom d).state := by
  unfold State.lapse; (repeat' split) <;> simp [State.dom, Domain.lapse]

theorem lapse_handoverTimer (s : State) (n : Nat) : (s.lapse n).mdc.handoverTimer.isSome = s.mdc.handoverTimer.isSome := by
  unfold State.lapse; (repeat' split) <;> simp [Mdc.lapse, countDown]

theorem lapse_reply (s : State) (n : Nat) : (s.lapse n).lnk.reply = s.lnk.reply := by
  unfold State.lapse; (repeat' split) <;> rfl

/-! ### Inversion of the two kinds of event -/

/-- A timed event that answers a next state leaves the device as it was, or is taken after the time left has passed. -/
theorem timed_next {s t : State} {left : Option Nat} {work : State → State} (h : s.timed left work = .next t) :
    t = s ∨ ∃ n, left = some n ∧ s.held = false ∧ t = (work (s.lapse n)).finish := by
  unfold State.timed at h
  split at h
  · injection h with h; exact .inl h.symm
  · next hh =>
    split at h
    · injection h with h; exact .inl h.symm
    · next n => injection h with h; exact .inr ⟨n, rfl, by simpa using hh, h.symm⟩

theorem takeNext_keeps {P : State → Prop} (k : Kept P) {s : State} (hh : s.held = false) (h : P s) : P s.takeNext := by
  unfold State.takeNext
  split
  · exact h
  · next hr =>
    have hr' : s.lnk.reply = none := by simpa using hr
    split
    · exact h
    · next t p rest he =>
      exact k.request s t p rest hh hr' he h
    · next e rest he =>
      exact k.notice s e rest hh hr' he h

theorem receive_keeps {P : State → Prop} (k : Kept P) {s : State} (e : Inbound) (hh : s.held = false) (h : P s) :
    P (s.receive e) := by
  unfold State.receive
  split
  · next hl =>
    refine takeNext_keeps k ?_ (k.arrive s e hl h)
    unfold State.arrive; split <;> exact hh
  · exact h

theorem lrx_keeps {P : State → Prop} (k : Kept P) {s : State} (b : Byte) (hh : s.held = false) (h : P s) : P (s.lrx b) := by
  unfold State.lrx
  split
  · exact h
  · next hr =>
    split
    · exact k.receiver s _ (by simp [hr]) (by simp) h
    · exact h
  · next hr =>
    split
    · exact k.receiver s _ (by simp [hr]) (by simp) h
    · exact receive_keeps k _ hh (k.receiver s _ (by simp [hr]) (by simp) h)
  · next hr =>
    unfold State.bodyByte
    split
    · exact receive_keeps k _ hh (k.receiver s _ (by simp [hr]) (by simp) h)
    · exact k.receiver s _ (by simp [hr]) (by simp) h
  · next hr => exact k.receiver s _ (by simp [hr]) (by simp) h

theorem gapExpired_keeps {P : State → Prop} (k : Kept P) {s : State} (hh : s.held = false) (h : P s) : P s.gapExpired := by
  unfold State.gapExpired
  split
  · exact h
  · exact h
  · next hr => exact receive_keeps k _ hh (k.receiver s _ (by simp [hr]) (by simp) h)
  · next hr => exact receive_keeps k _ hh (k.receiver s _ (by simp [hr]) (by simp) h)
  · next hr => exact k.receiver s _ (by simp [hr]) (by simp) h

theorem linkRequest_keeps {P : State → Prop} (k : Kept P) {s t : State} {type : Byte} {p : List Byte} (h : P s)
    (he : linkRequest type p s = .next t) : P t := by
  unfold linkRequest at he
  split at he
  · cases he
  · split at he
    · injection he with he; exact he ▸ h
    · next hh => injection he with he; exact he ▸ receive_keeps k _ (by simpa using hh) h

theorem timed_keeps {P : State → Prop} (k : Kept P) {s t : State} {left : Option Nat} {work : State → State}
    (hw : ∀ n, left = some n → s.held = false → P (s.lapse n) → P (work (s.lapse n)).finish) (h : P s)
    (he : s.timed left work = .next t) : P t := by
  obtain rfl | ⟨n, hl, hh, rfl⟩ := timed_next he
  · exact h
  · exact hw n hl hh (k.lapse s n h)

theorem execUnknownTypeFrame_keeps {P : State → Prop} (k : Kept P) {s t : State} (ty : Byte) (p : List Byte) (h : P s)
    (he : execUnknownTypeFrame ty p s = .next t) : P t := by
  have hl : ∀ n, (s.lapse n).held = s.held := fun n => lapse_held s n
  unfold execUnknownTypeFrame at he
  split at he
  · cases he
  · exact linkRequest_keeps k h he

theorem execFrameErrorNotice_keeps {P : State → Prop} (k : Kept P) {s t : State} (e : FrameError) (h : P s)
    (he : execFrameErrorNotice e s = .next t) : P t := by
  have hl : ∀ n, (s.lapse n).held = s.held := fun n => lapse_held s n
  unfold execFrameErrorNotice at he
  split at he
  · injection he with he; exact he ▸ h
  · next hh => injection he with he; exact he ▸ receive_keeps k _ (by simpa using hh) h

theorem execLrxByte_keeps {P : State → Prop} (k : Kept P) {s t : State} (b : Byte) (h : P s)
    (he : execLrxByte b s = .next t) : P t := by
  have hl : ∀ n, (s.lapse n).held = s.held := fun n => lapse_held s n
  unfold execLrxByte at he
  split at he
  · injection he with he; exact he ▸ h
  · next hh => injection he with he; exact he ▸ lrx_keeps k _ (by simpa using hh) h

theorem execGapTimeout_keeps {P : State → Prop} (k : Kept P) {s t : State} (h : P s)
    (he : execGapTimeout s = .next t) : P t := by
  have hl : ∀ n, (s.lapse n).held = s.held := fun n => lapse_held s n
  unfold execGapTimeout at he
  split at he
  · injection he with he; exact he ▸ h
  · next hh =>
    split at he
    · injection he with he; exact he ▸ h
    · injection he with he; exact he ▸ gapExpired_keeps k (by simpa using hh) (k.lapse s _ h)

theorem execReplyEnd_keeps {P : State → Prop} (k : Kept P) {s t : State} (h : P s)
    (he : execReplyEnd s = .next t) : P t := by
  have hl : ∀ n, (s.lapse n).held = s.held := fun n => lapse_held s n
  unfold execReplyEnd at he
  split at he
  · injection he with he; exact he ▸ h
  · next hh =>
    have hh' : s.held = false := by simpa using hh
    split at he
    · injection he with he; exact he ▸ h
    · next n hn =>
      injection he with he
      subst he
      have hr : (s.lapse n).lnk.reply.isSome = true := by
        rw [lapse_reply]; unfold State.leftReply at hn; split at hn
        · assumption
        · cases hn
      have hP := k.lapse s n h
      exact takeNext_keeps k (by rw [replySent_held, hl]; exact hh') (k.replySent _ (by rw [hl]; exact hh') hr hP)

theorem execIgnLevelChange_keeps {P : State → Prop} (k : Kept P) {s t : State} (b : Bool) (h : P s)
    (he : execIgnLevelChange b s = .next t) : P t := by
  have hl : ∀ n, (s.lapse n).held = s.held := fun n => lapse_held s n
  unfold execIgnLevelChange at he
  injection he with he
  subst he
  cases b
  · exact k.ignPin s _ (.inr rfl) h
  · exact k.ignPin s _ (.inl rfl) h

theorem execServiceLevelChange_keeps {P : State → Prop} (k : Kept P) {s t : State} (b : Bool) (h : P s)
    (he : execServiceLevelChange b s = .next t) : P t := by
  have hl : ∀ n, (s.lapse n).held = s.held := fun n => lapse_held s n
  unfold execServiceLevelChange at he
  injection he with he
  exact he ▸ k.servicePin s _ h

theorem execPowerOnReset_keeps {P : State → Prop} (k : Kept P) {s t : State} (h : P s)
    (he : execPowerOnReset s = .next t) : P t := by
  have hl : ∀ n, (s.lapse n).held = s.held := fun n => lapse_held s n
  unfold execPowerOnReset at he
  injection he with he
  exact he ▸ k.holdInReset s h

theorem execLeaveReset_keeps {P : State → Prop} (k : Kept P) {s t : State} (h : P s)
    (he : execLeaveReset s = .next t) : P t := by
  have hl : ∀ n, (s.lapse n).held = s.held := fun n => lapse_held s n
  unfold execLeaveReset at he
  split at he
  · injection he with he; exact he ▸ h
  · next n hn =>
    injection he with he
    subst he
    refine k.leaveReset _ ?_ (k.lapse s n h)
    rw [hl]
    unfold State.leftReset at hn
    split at hn
    · assumption
    · cases hn

theorem execPgPinChange_keeps {P : State → Prop} (k : Kept P) {s t : State} (d : DomId) (b : Bool) (h : P s)
    (he : execPgPinChange d b s = .next t) : P t := by
  have hl : ∀ n, (s.lapse n).held = s.held := fun n => lapse_held s n
  unfold execPgPinChange at he
  injection he with he
  exact he ▸ k.pgPin s d b h

theorem execWlPinChange_keeps {P : State → Prop} (k : Kept P) {s t : State} (l : LineId) (b : Bool) (h : P s)
    (he : execWlPinChange l b s = .next t) : P t := by
  have hl : ∀ n, (s.lapse n).held = s.held := fun n => lapse_held s n
  unfold execWlPinChange at he
  split at he
  · next hh => injection he with he; exact he ▸ k.wlPinHeld s l b hh h
  · next hh =>
    unfold State.outside at he
    split at he
    · injection he with he; exact he ▸ h
    · injection he with he; exact he ▸ k.wlChange s l b (by simpa using hh) h

theorem execIgnDebounceEnd_keeps {P : State → Prop} (k : Kept P) {s t : State} (h : P s)
    (he : execIgnDebounceEnd s = .next t) : P t := by
  have hl : ∀ n, (s.lapse n).held = s.held := fun n => lapse_held s n
  unfold execIgnDebounceEnd at he
  obtain rfl | ⟨n, -, hh, rfl⟩ := timed_next he
  · exact h
  have hp := k.lapse s n h
  exact k.ignSettles _ (by rw [hl]; exact hh) hp

theorem execServiceDebounceEnd_keeps {P : State → Prop} (k : Kept P) {s t : State} (h : P s)
    (he : execServiceDebounceEnd s = .next t) : P t := by
  have hl : ∀ n, (s.lapse n).held = s.held := fun n => lapse_held s n
  unfold execServiceDebounceEnd at he
  obtain rfl | ⟨n, -, hh, rfl⟩ := timed_next he
  · exact h
  have hp := k.lapse s n h
  exact k.finish _ (by show (s.lapse n).held = false; rw [hl]; exact hh)
    (k.servicePin _ _ hp)

theorem execRampComplete_keeps {P : State → Prop} (k : Kept P) {s t : State} (d : DomId) (h : P s)
    (he : execRampComplete d s = .next t) : P t := by
  have hl : ∀ n, (s.lapse n).held = s.held := fun n => lapse_held s n
  unfold execRampComplete at he
  obtain rfl | ⟨n, hn, hh, rfl⟩ := timed_next he
  · exact h
  have hp := k.lapse s n h
  refine k.rampDone _ d (by rw [hl]; exact hh) ?_ hp
  rw [lapse_dom_state]
  unfold State.leftRampComplete at hn
  split at hn
  · next hc => simp at hc; exact hc.1
  · cases hn

theorem execPgLoss_keeps {P : State → Prop} (k : Kept P) {s t : State} (d : DomId) (h : P s)
    (he : execPgLoss d s = .next t) : P t := by
  have hl : ∀ n, (s.lapse n).held = s.held := fun n => lapse_held s n
  unfold execPgLoss at he
  obtain rfl | ⟨n, hn, hh, rfl⟩ := timed_next he
  · exact h
  have hp := k.lapse s n h
  refine k.pgLost _ d (by rw [hl]; exact hh) ?_ hp
  rw [lapse_dom_state]
  unfold State.leftPgLoss at hn
  split at hn
  · next hc => simp at hc; exact hc.1
  · cases hn

theorem execRampTimeout_keeps {P : State → Prop} (k : Kept P) {s t : State} (d : DomId) (h : P s)
    (he : execRampTimeout d s = .next t) : P t := by
  have hl : ∀ n, (s.lapse n).held = s.held := fun n => lapse_held s n
  unfold execRampTimeout at he
  obtain rfl | ⟨n, hn, hh, rfl⟩ := timed_next he
  · exact h
  have hp := k.lapse s n h
  refine k.rampFailed _ d (by rw [hl]; exact hh) ?_ hp
  rw [lapse_dom_state]
  unfold State.leftRamp at hn
  split at hn
  · assumption
  · cases hn

theorem execHoldoffExpiry_keeps {P : State → Prop} (k : Kept P) {s t : State} (d : DomId) (h : P s)
    (he : execHoldoffExpiry d s = .next t) : P t := by
  have hl : ∀ n, (s.lapse n).held = s.held := fun n => lapse_held s n
  unfold execHoldoffExpiry at he
  obtain rfl | ⟨n, hn, hh, rfl⟩ := timed_next he
  · exact h
  have hp := k.lapse s n h
  refine k.holdoff _ d (by rw [hl]; exact hh) ?_ hp
  rw [lapse_dom_state]
  unfold State.leftHoldoff at hn
  split at hn
  · next hc => rw [Bool.and_eq_true] at hc; exact of_decide_eq_true hc.1
  · cases hn

theorem execRetryExpiry_keeps {P : State → Prop} (k : Kept P) {s t : State} (d : DomId) (h : P s)
    (he : execRetryExpiry d s = .next t) : P t := by
  have hl : ∀ n, (s.lapse n).held = s.held := fun n => lapse_held s n
  unfold execRetryExpiry at he
  obtain rfl | ⟨n, hn, hh, rfl⟩ := timed_next he
  · exact h
  have hp := k.lapse s n h
  refine k.retry _ d (by rw [hl]; exact hh) ?_ hp
  rw [lapse_dom_state]
  unfold State.leftRetry at hn
  split at hn
  · assumption
  · cases hn

theorem execWlDebounceEnd_keeps {P : State → Prop} (k : Kept P) {s t : State} (l : LineId) (h : P s)
    (he : execWlDebounceEnd l s = .next t) : P t := by
  have hl : ∀ n, (s.lapse n).held = s.held := fun n => lapse_held s n
  unfold execWlDebounceEnd at he
  obtain rfl | ⟨n, -, hh, rfl⟩ := timed_next he
  · exact h
  have hp := k.lapse s n h
  exact k.wlSettles _ l (by rw [hl]; exact hh) hp

theorem execNuisanceWindowExpiry_keeps {P : State → Prop} (k : Kept P) {s t : State} (l : LineId) (h : P s)
    (he : execNuisanceWindowExpiry l s = .next t) : P t := by
  have hl : ∀ n, (s.lapse n).held = s.held := fun n => lapse_held s n
  unfold execNuisanceWindowExpiry at he
  obtain rfl | ⟨n, -, hh, rfl⟩ := timed_next he
  · exact h
  have hp := k.lapse s n h
  exact k.nuisanceWindow _ l (by rw [hl]; exact hh) hp

theorem execMuteExpiry_keeps {P : State → Prop} (k : Kept P) {s t : State} (l : LineId) (h : P s)
    (he : execMuteExpiry l s = .next t) : P t := by
  have hl : ∀ n, (s.lapse n).held = s.held := fun n => lapse_held s n
  unfold execMuteExpiry at he
  obtain rfl | ⟨n, -, hh, rfl⟩ := timed_next he
  · exact h
  have hp := k.lapse s n h
  exact k.endMute _ l (by rw [hl]; exact hh) hp

theorem execApproachExpired_keeps {P : State → Prop} (k : Kept P) {s t : State} (l : LineId) (h : P s)
    (he : execApproachExpired l s = .next t) : P t := by
  have hl : ∀ n, (s.lapse n).held = s.held := fun n => lapse_held s n
  unfold execApproachExpired at he
  obtain rfl | ⟨n, -, hh, rfl⟩ := timed_next he
  · exact h
  have hp := k.lapse s n h
  refine ?_
  split
  · next r hr => exact k.windowExpired _ l r (by rw [hl]; exact hh) hr hp
  · exact k.finish _ (by rw [hl]; exact hh) hp

theorem execHandoverTimeout_keeps {P : State → Prop} (k : Kept P) {s t : State} (h : P s)
    (he : execHandoverTimeout s = .next t) : P t := by
  have hl : ∀ n, (s.lapse n).held = s.held := fun n => lapse_held s n
  unfold execHandoverTimeout at he
  obtain rfl | ⟨n, hn, hh, rfl⟩ := timed_next he
  · exact h
  have hp := k.lapse s n h
  refine k.handoverTimeout _ (by rw [hl]; exact hh) ?_ hp
  rw [lapse_handoverTimer, hn]; rfl

theorem execSample_keeps {P : State → Prop} (k : Kept P) {s t : State} (i v : Int) (h : P s)
    (he : execSample i v s = .next t) : P t := by
  have hl : ∀ n, (s.lapse n).held = s.held := fun n => lapse_held s n
  unfold execSample at he
  obtain rfl | ⟨n, -, hh, rfl⟩ := timed_next he
  · exact h
  have hp := k.lapse s n h
  exact k.sample _ i v _ (by rw [hl]; exact hh) hp

theorem execPeriodChangeSample_keeps {P : State → Prop} (k : Kept P) {s t : State} (i v : Int) (h : P s)
    (he : execPeriodChangeSample i v s = .next t) : P t := by
  have hl : ∀ n, (s.lapse n).held = s.held := fun n => lapse_held s n
  unfold execPeriodChangeSample at he
  obtain rfl | ⟨n, -, hh, rfl⟩ := timed_next he
  · exact h
  have hp := k.lapse s n h
  exact k.sample _ i v _ (by rw [hl]; exact hh) hp

theorem execSessionRunExpiry_keeps {P : State → Prop} (k : Kept P) {s t : State} (id : Nat) (h : P s)
    (he : execSessionRunExpiry id s = .next t) : P t := by
  have hl : ∀ n, (s.lapse n).held = s.held := fun n => lapse_held s n
  unfold execSessionRunExpiry at he
  obtain rfl | ⟨n, -, hh, rfl⟩ := timed_next he
  · exact h
  have hp := k.lapse s n h
  exact k.closeSession _ id (by rw [hl]; exact hh) hp

theorem execSuspensionLimitExpiry_keeps {P : State → Prop} (k : Kept P) {s t : State} (id : Nat) (h : P s)
    (he : execSuspensionLimitExpiry id s = .next t) : P t := by
  have hl : ∀ n, (s.lapse n).held = s.held := fun n => lapse_held s n
  unfold execSuspensionLimitExpiry at he
  obtain rfl | ⟨n, -, hh, rfl⟩ := timed_next he
  · exact h
  have hp := k.lapse s n h
  exact k.closeSession _ id (by rw [hl]; exact hh) hp

theorem execPartSecondRise_keeps {P : State → Prop} (k : Kept P) {s t : State} (h : P s)
    (he : execPartSecondRise s = .next t) : P t := by
  have hl : ∀ n, (s.lapse n).held = s.held := fun n => lapse_held s n
  unfold execPartSecondRise at he
  obtain rfl | ⟨n, -, hh, rfl⟩ := timed_next he
  · exact h
  have hp := k.lapse s n h
  exact k.secondRises _ (by rw [hl]; exact hh) hp

theorem execAttnPulseEnd_keeps {P : State → Prop} (k : Kept P) {s t : State} (h : P s)
    (he : execAttnPulseEnd s = .next t) : P t := by
  have hl : ∀ n, (s.lapse n).held = s.held := fun n => lapse_held s n
  unfold execAttnPulseEnd at he
  obtain rfl | ⟨n, -, hh, rfl⟩ := timed_next he
  · exact h
  have hp := k.lapse s n h
  exact k.pulseEnd _ (by rw [hl]; exact hh) hp

/-- A command keeps what every piece of its work keeps. -/
theorem exec_keeps {P : State → Prop} (k : Kept P) {c : Instr} {s t : State} (h : P s) (he : exec c s = .next t) : P t := by
  cases c
  case unknownTypeFrame ty p => exact execUnknownTypeFrame_keeps k ty p h he
  case frameErrorNotice e => exact execFrameErrorNotice_keeps k e h he
  case lrxByte b => exact execLrxByte_keeps k b h he
  case gapTimeout => exact execGapTimeout_keeps k h he
  case replyEnd => exact execReplyEnd_keeps k h he
  case ignLevelChange b => exact execIgnLevelChange_keeps k b h he
  case serviceLevelChange b => exact execServiceLevelChange_keeps k b h he
  case powerOnReset => exact execPowerOnReset_keeps k h he
  case leaveReset => exact execLeaveReset_keeps k h he
  case pgPinChange d b => exact execPgPinChange_keeps k d b h he
  case wlPinChange l b => exact execWlPinChange_keeps k l b h he
  case ignDebounceEnd => exact execIgnDebounceEnd_keeps k h he
  case serviceDebounceEnd => exact execServiceDebounceEnd_keeps k h he
  case rampComplete d => exact execRampComplete_keeps k d h he
  case pgLoss d => exact execPgLoss_keeps k d h he
  case rampTimeout d => exact execRampTimeout_keeps k d h he
  case holdoffExpiry d => exact execHoldoffExpiry_keeps k d h he
  case retryExpiry d => exact execRetryExpiry_keeps k d h he
  case wlDebounceEnd l => exact execWlDebounceEnd_keeps k l h he
  case nuisanceWindowExpiry l => exact execNuisanceWindowExpiry_keeps k l h he
  case muteExpiry l => exact execMuteExpiry_keeps k l h he
  case approachExpired l => exact execApproachExpired_keeps k l h he
  case handoverTimeout => exact execHandoverTimeout_keeps k h he
  case sample i v => exact execSample_keeps k i v h he
  case periodChangeSample i v => exact execPeriodChangeSample_keeps k i v h he
  case sessionRunExpiry id => exact execSessionRunExpiry_keeps k id h he
  case suspensionLimitExpiry id => exact execSuspensionLimitExpiry_keeps k id h he
  case partSecondRise => exact execPartSecondRise_keeps k h he
  case attnPulseEnd => exact execAttnPulseEnd_keeps k h he
  all_goals exact linkRequest_keeps k h he

/-- A step keeps what every piece of work keeps. -/
theorem step_keeps {P : State → Prop} (k : Kept P) (pending : ∀ s q, P s → P { s with pending := q })
    (free : ∀ s n, P s → P { s with freeIdx := n }) {s t : State} (h : P s) (he : step s = .next t) : P t := by
  unfold step at he
  split at he
  · exact exec_keeps k (pending s _ h) he
  · unfold State.idle at he
    split at he
    · injection he with he; exact he ▸ k.lapse s 1 h
    · exact exec_keeps k (free s _ h) he

end Sys2Proof.Machine
end

