-- ==== Sys2Proof/Laws/Domestic.lean ====
section
/-! SUPPORT. `Domestic P` lists the primitive changes that the Domain Controller and the Ramp Arbiter make; one lemma per operation of
Machine/Domains.lean then says that the operation keeps P. For P "this field reads as before" these are frame lemmas. -/

namespace Sys2Proof.Machine

/-- A fold of operations that keep P keeps P. -/
theorem foldl_closed {P : State → Prop} {α : Type} (f : State → α → State) (h : ∀ s a, P s → P (f s a)) (l : List α) {s : State}
    (hs : P s) : P (l.foldl f s) := by
  induction l generalizing s with
  | nil => exact hs
  | cons a l ih => exact ih (h s a hs)

/-- P is kept by every primitive change that the operations on domains are made of. -/
structure Domestic (P : State → Prop) : Prop where
  setState : ∀ s d n t, P s → P (s.setState d n t)
  dom : ∀ s d f, (∀ x, (f x).state = x.state) → P s → P (s.updDom d f)
  rmp : ∀ s r, P s → P { s with rmp := r }
  d0Held : ∀ s c, P s → P { s with dmc.d0Held := c }
  work : ∀ s w, P s → P { s with work := w }
  record : ∀ s k a b v, Option.isSome v = k.carriesValue → P s → P (s.record k a b v)
  sub : ∀ s x, P s → P { s with mdc.sub := x }
  chm : ∀ s c, P s → P { s with chm := c }

/-- P is kept by any change of a domain, by link loss and by the link's start: so `setState` keeps it. -/
theorem setState_keeps {P : State → Prop} (dom : ∀ s d f, P s → P (s.updDom d f)) (rmp : ∀ s r, P s → P { s with rmp := r })
    (loss : ∀ s, P s → P s.linkLoss) (up : ∀ s, P s → P s.linkUp) (s : State) (d : DomId) (n : DomState) (t : Nat) (h : P s) :
    P (s.setState d n t) := by
  unfold State.setState; dsimp only
  have h1 : P (if (s.dom d).state = .ramping then s.freeSlot d else s) := by
    split
    · exact rmp s _ h
    · exact h
  generalize (if (s.dom d).state = .ramping then s.freeSlot d else s) = a at h1
  have h2 : P (if (s.dom d).state = .queued then { a with rmp.queue := a.rmp.queue.filter (· != d) } else a) := by
    split
    · exact rmp a _ h1
    · exact h1
  generalize (if (s.dom d).state = .queued then { a with rmp.queue := a.rmp.queue.filter (· != d) } else a) = b at h2
  have h3 := dom b d (fun x => { x with state := n, en := n.enOn, timer := t }) h2
  split
  · unfold State.linkFollows
    split
    · exact loss _ h3
    · split
      · exact up _ h3
      · exact h3
  · exact h3

namespace Domestic

variable {P : State → Prop} (k : Domestic P) {s : State}
include k

theorem enterOff (d : DomId) (h : P s) : P (s.enterOff d) := k.dom _ _ _ (fun _ => rfl) (k.setState _ _ _ _ h)

theorem noteBlocked (d : DomId) (h : P s) : P (s.noteBlocked d) := by
  unfold State.noteBlocked; split
  · exact h
  · exact k.work _ _ (k.dom _ _ _ (fun _ => rfl) h)

theorem enterQueued (d : DomId) (h : P s) : P (s.enterQueued d) := by
  unfold State.enterQueued; dsimp only; split
  · exact k.noteBlocked _ (k.setState _ _ _ _ h)
  · exact k.setState _ _ _ _ h

theorem enterLatched (d : DomId) (h : P s) : P (s.enterLatched d) :=
  foldl_closed _ (fun _ _ h => by split; exacts [k.noteBlocked _ h, h]) _ (k.setState _ _ _ _ h)

theorem clearLatch (d : DomId) (h : P s) : P (s.clearLatch d) :=
  foldl_closed _ (fun _ _ h => by split; exacts [k.dom _ _ _ (fun _ => rfl) h, h]) _ (k.enterOff _ h)

theorem enterHoldoff (d : DomId) (h : P s) : P (s.enterHoldoff d) := k.setState _ _ _ _ h

theorem powerOff (d : DomId) (c : HeldCause) (h : P s) : P (s.powerOff d c) := by
  unfold State.powerOff; split
  · exact k.d0Held _ _ (k.dom s 0 (fun x => { x with timer := 0 }) (fun _ => rfl) h)
  · exact k.enterOff _ h

theorem forceOff (d : DomId) (h : P s) : P (s.forceOff d) := by
  unfold State.forceOff; split <;> first | with_reducible exact h | with_reducible exact k.enterOff _ h | exact k.powerOff _ _ h

theorem forceCutoff (h : P s) : P s.forceCutoff :=
  foldl_closed _ (fun _ _ h => by split; exacts [h, k.forceOff _ h]) _ h

theorem transition (d : DomId) (h : P s) : P (s.transition d) := by
  unfold State.transition
  split
  · exact k.forceCutoff h
  · (repeat' split) <;> first
      | with_reducible exact h | with_reducible exact k.enterQueued _ h | with_reducible exact k.enterOff _ h
      | with_reducible exact k.powerOff _ _ h | with_reducible exact k.enterHoldoff _ h | exact k.setState _ _ _ _ h

theorem transitionOf (d : DomId) (h : P s) : P (s.transitionOf d) := by
  unfold State.transitionOf; split
  · split
    · exact h
    · exact k.transition _ (k.d0Held _ _ h)
  · exact k.transition _ h

theorem settle (h : P s) : P s.settle := foldl_closed _ (fun _ _ h => k.transitionOf _ h) _ h

theorem refreshSub (h : P s) : P s.refreshSub := by
  unfold State.refreshSub State.takePeriod; dsimp only
  have h1 := k.sub s s.subNow h
  split
  · exact h1
  · split <;> exact k.chm _ _ h1

theorem demandChanged (h : P s) : P s.demandChanged := k.refreshSub (k.settle h)

theorem forceReset (h : P s) : P s.forceReset := by
  unfold State.forceReset; dsimp only
  refine foldl_closed _ (fun t d h => k.dom t d (fun x => { x with depReported := false }) (fun _ => rfl) h) _ (foldl_closed _ (fun _ _ h => ?_) _ h)
  split
  · exact k.enterOff _ h
  · split
    · exact h
    · exact k.forceOff _ h

theorem rampDone (d : DomId) (h : P s) : P (s.rampDone d) := by
  unfold State.rampDone; split
  · exact k.setState _ _ _ _ h
  · split
    · exact k.enterOff _ h
    · exact k.enterHoldoff _ h

theorem afterFault (d : DomId) (h : P s) : P (s.afterFault d) := by
  unfold State.afterFault; split
  · exact k.enterOff _ h
  · split
    · exact k.setState _ _ _ _ h
    · exact k.record _ _ _ _ _ rfl (k.enterLatched _ h)

theorem countFault (d : DomId) (n : Nat) (h : P s) : P (s.countFault d n) := k.record _ _ _ _ _ rfl (k.dom _ _ _ (fun _ => rfl) h)

theorem rampFailed (d : DomId) (h : P s) : P (s.rampFailed d) := k.afterFault _ (k.countFault _ _ h)

theorem dropDescendant (d : DomId) (h : P s) : P (s.dropDescendant d) := by
  unfold State.dropDescendant; split
  · split
    · exact k.enterQueued _ h
    · exact k.enterOff _ h
  · split
    · exact k.enterQueued _ h
    · exact k.enterOff _ h
  · exact k.enterOff _ h
  all_goals exact h

theorem pgLost (d : DomId) (h : P s) : P (s.pgLost d) :=
  k.afterFault _ (k.countFault _ _ (foldl_closed _ (fun _ _ h => k.dropDescendant _ h) _ h))

theorem clearFault (d : DomId) (h : P s) : P (s.clearFault d) := by
  unfold State.clearFault; split
  · exact k.demandChanged (k.clearLatch _ h)
  · exact k.demandChanged (k.dom _ _ _ (fun _ => rfl) (k.enterQueued _ h))
  · exact k.dom _ _ _ (fun _ => rfl) h

theorem grant (d : DomId) (h : P s) : P (s.grant d) := by
  unfold State.grant; dsimp only; split <;> exact k.rmp _ _ (k.setState _ _ _ _ h)

theorem grantAndRamp (d : DomId) (h : P s) : P (s.grantAndRamp d) := by
  unfold State.grantAndRamp; dsimp only; split
  · exact k.rmp _ _ (k.demandChanged (k.rampDone _ (k.grant _ h)))
  · exact k.grant _ h

theorem grants (n : Nat) (h : P s) : P (State.grants n s) := by
  induction n generalizing s with
  | zero => exact h
  | succ n ih =>
    unfold State.grants
    split
    · split
      · exact ih (k.grantAndRamp _ h)
      · exact h
    · exact h

theorem refreshOwners (h : P s) : P s.refreshOwners :=
  foldl_closed _ (fun t d h => k.dom t d (fun x => { x with owner := s.ownerOf d }) (fun _ => rfl) h) _ h

theorem recordBlocked (h : P s) : P s.recordBlocked := by
  unfold State.recordBlocked; dsimp only
  refine foldl_closed _ (fun _ _ h => ?_) _ (k.work _ _ h)
  split
  · exact k.record _ _ _ _ _ rfl h
  · exact h

/-- The end of an event keeps P when the resumption, the sessions' states and ATTN do. -/
theorem finish (hr : P s.resumeNow) (hs : ∀ s, P s → P s.refreshSessions) (ha : ∀ s, P s → P s.refreshAttn) : P s.finish := by
  unfold State.finish
  exact k.work _ _ (ha _ (k.refreshSub (k.refreshOwners (hs _ (k.recordBlocked (k.grants _ (k.rmp _ _ (k.settle hr))))))))

end Domestic

/-! ### What the domains' operations leave of the sessions -/

theorem noteAppend_ssc (s : State) : s.noteAppend.ssc = s.ssc := by unfold State.noteAppend; split <;> rfl

@[simp] theorem record_ssc (s : State) (k : RecordKind) (a b : Nat) (v : Option Nat) : (s.record k a b v).ssc = s.ssc := by
  unfold State.record; dsimp only
  split
  · exact noteAppend_ssc s
  · split
    · rfl
    · exact noteAppend_ssc s

/-- No operation of the Domain Controller touches the Session Table. -/
theorem Domestic.sameSessions (x : Ssc) : Domestic (fun t => t.ssc = x) where
  setState := setState_keeps (fun _ _ _ h => h) (fun _ _ h => h) (fun _ h => h) (fun _ h => h)
  dom _ _ _ _ h := h
  rmp _ _ h := h
  d0Held _ _ h := h
  work _ _ h := h
  record s k a b v _ h := (record_ssc s k a b v).trans h
  sub _ _ h := h
  chm _ _ h := h

@[simp] theorem settle_ssc (s : State) : s.settle.ssc = s.ssc := (Domestic.sameSessions s.ssc).settle rfl
@[simp] theorem refreshSub_ssc (s : State) : s.refreshSub.ssc = s.ssc := (Domestic.sameSessions s.ssc).refreshSub rfl
@[simp] theorem demandChanged_ssc (s : State) : s.demandChanged.ssc = s.ssc := (Domestic.sameSessions s.ssc).demandChanged rfl
@[simp] theorem idleLines_ssc (s : State) (ls : List LineId) : (s.idleLines ls).ssc = s.ssc :=
  foldl_closed (P := fun t => t.ssc = s.ssc) State.idleLine (fun _ _ h => h) ls rfl
@[simp] theorem noteClosed_ssc (s : State) (id : Nat) : (s.noteClosed id).ssc = s.ssc := by
  unfold State.noteClosed; dsimp only; (repeat' split) <;> rfl

end Sys2Proof.Machine
end

