-- ==== Sys2Proof/Laws/Closed.lean ====
section
/-! SUPPORT. `Closed P` lists the primitive changes an event's work is made of; one lemma per shared operation then says that the
operation keeps P. With `Closed.finish` and `Kept` (Laws/StepKeeps.lean) an invariant needs a proof per primitive, not per command. -/

namespace Sys2Proof.Machine

/-- The session keeps its id, class and remainder, and does not become SUSPENDED. -/
structure SameSession (x y : Session) : Prop where
  id : y.id = x.id
  cls : y.cls = x.cls
  rem : y.drawnRem = x.drawnRem
  active : x.active = true → y.active = true

/-- The ids and classes of the Session Table. -/
def State.keys (s : State) : List (Nat × ClassId) := s.ssc.sessions.map (fun x => (x.id, x.cls))

/-- P is kept by every primitive change of sessions, lines, schedule, modes and records, and by DMC's settling of a change of demand. -/
structure Closed (P : State → Prop) : Prop where
  settle : ∀ s, P s → P s.settle
  record : ∀ s k a b v, Option.isSome v = k.carriesValue → P s → P (s.record k a b v)
  refreshSub : ∀ s, P s → P s.refreshSub
  mdc : ∀ s m, P s → P { s with mdc := m }
  line : ∀ s l f, P s → P (s.updLine l f)
  apq : ∀ s a, P s → P { s with apq := a }
  session : ∀ s id f, (∀ x, SameSession x (f x)) → P s → P (s.updSession id f)
  suspended : ∀ s a b, s.slotTaken = false → P s →
    P (s.updSession a (fun x => { x with state := .suspended, suspendedBy := some b, suspendedFor := some 0 }))
  removed : ∀ s id, P s → P { s with ssc.sessions := s.ssc.sessions.filter (fun y => y.id != id) }
  takeId : ∀ s, P s → P s.takeId.1
  created : ∀ s v c u x, P v → v.makePlace c = some u → P u → u.sessionOf? x.cls = none → x.id = u.takeId.2 → s.keys.Sublist u.keys →
    x.active = true → x.drawnRem = 0 → P s → P { s with ssc.sessions := s.ssc.sessions ++ [x] }
  charged : ∀ s (g : Nat → Nat) p, P s → P { s with ssc.sessions := s.ssc.sessions.map (fun x => x.charge (g x.id) p) }
  chm : ∀ s x, P s → P { s with chm := x }
  btm : ∀ s x, P s → P { s with btm := x }
  advance : ∀ s e d, (∃ x ∈ s.wsc.sched, x.id = e.id) → P s → P (s.advance e d)
  setPending : ∀ s id p, P s → P (s.setPending id p)
  noSched : ∀ s, P s → P { s with wsc.sched := [] }
  clock : ∀ s n, n ≤ 4294967295 → P s → P { s with wsc.seconds := n, wsc.fraction := 0, wsc.riseDue := false }
  resume : ∀ s r, P s → P { s with work.resume := r }
  forceCutoff : ∀ s, P s → P s.forceCutoff

/-! ### The ids and classes of the Session Table -/

theorem suspend_keys (s : State) (a b : Nat) : (s.suspend a b).keys = s.keys := by
  unfold State.suspend State.keys
  dsimp only
  simp only [record_ssc, demandChanged_ssc]
  unfold State.updSession
  simp only [List.map_map]
  refine List.map_congr_left (fun x _ => ?_)
  simp only [Function.comp]; split <;> rfl

theorem closeSession_sessions (s : State) (id : Nat) (w : CloseReason) :
    (s.closeSession id w).ssc.sessions = s.ssc.sessions.filter (fun y => y.id != id) := by
  unfold State.closeSession
  split
  · next hn =>
    symm; rw [List.filter_eq_self]
    intro x hx
    have := (List.find?_eq_none.1 hn) x hx
    simpa using this
  · simp only [noteClosed_ssc, record_ssc, idleLines_ssc]
    split
    · rw [demandChanged_ssc]
    · rw [refreshSub_ssc]

theorem closeSession_keys (s : State) (id : Nat) (w : CloseReason) : (s.closeSession id w).keys.Sublist s.keys := by
  unfold State.keys; rw [closeSession_sessions]; exact List.filter_sublist.map _

theorem exclude_keys (s : State) (p n : Nat) : (s.exclude p n).keys.Sublist s.keys := by
  have hc : ∀ (l : List Session) (u : State), (l.foldl (fun s x => s.closeSession x.id .preempted) u).keys.Sublist u.keys := by
    intro l; induction l with
    | nil => exact fun _ => List.Sublist.refl _
    | cons x l ih => exact fun u => (ih _).trans (closeSession_keys _ _ _)
  unfold State.exclude; dsimp only
  split
  · exact List.Sublist.refl _
  · split
    · exact hc _ _
    · exact (hc _ _).trans (by rw [suspend_keys])

theorem makePlace_keys {s t : State} {c : ClassEntry} (h : s.makePlace c = some t) : t.keys.Sublist s.keys := by
  unfold State.makePlace at h
  (repeat' split at h) <;> cases h
  · exact List.Sublist.refl _
  · exact closeSession_keys _ _ _

theorem mem_lowest {s : State} {xs : List Session} {x : Session} (h : s.lowest xs = some x) : x ∈ xs := by
  have key : ∀ (ys : List Session) (o : Option Session), (∀ b, o = some b → b ∈ xs) → (∀ y ∈ ys, y ∈ xs) →
      ys.foldl (fun best x => match best with
        | none => some x
        | some b => if s.priorityOf x < s.priorityOf b then some x else some b) o = some x → x ∈ xs := by
    intro ys; induction ys with
    | nil => exact fun o ho _ h => ho x h
    | cons y ys ih =>
      intro o ho hy h
      refine ih _ ?_ (fun z hz => hy z (List.mem_cons_of_mem _ hz)) h
      intro b hb
      cases o with
      | none => cases hb; exact hy y List.mem_cons_self
      | some c =>
        dsimp only at hb; split at hb <;> cases hb
        · exact hy y List.mem_cons_self
        · exact ho b rfl
  exact key xs none (fun b hb => by cases hb) (fun _ h => h) h

/-- The table never holds more than 6 when a place is made. -/
theorem makePlace_room {s t : State} {c : ClassEntry} (h6 : s.ssc.sessions.length ≤ 6) (h : s.makePlace c = some t) :
    t.ssc.sessions.length < 6 := by
  unfold State.makePlace at h
  split at h
  · cases h; assumption
  · split at h
    · split at h
      · next x hx =>
        cases h
        rw [closeSession_sessions]
        have hm := (List.mem_filter.1 (mem_lowest hx)).1
        have : (s.ssc.sessions.filter (fun y => y.id != x.id)).length < s.ssc.sessions.length :=
          List.length_filter_lt_length_iff_exists.2 ⟨x, hm, by simp⟩
        omega
      · cases h
    · cases h

theorem sessionOf_none {s t : State} {c : ClassId} (hk : t.keys.Sublist s.keys) (h : s.sessionOf? c = none) : t.sessionOf? c = none := by
  unfold State.sessionOf? at *
  rw [List.find?_eq_none] at *
  intro x hx hc
  have : (x.id, x.cls) ∈ s.keys := hk.subset (List.mem_map.2 ⟨x, hx, rfl⟩)
  obtain ⟨y, hy, he⟩ := List.mem_map.1 this
  refine h y hy ?_
  have := congrArg Prod.snd he
  simp only at this
  rw [this]; exact hc

theorem chooseProfile_free {s : State} {c : ClassEntry} {w : Profile} {skip : List Nat} {p : Profile} {x : Nat}
    (h : s.chooseProfile c w skip = some (p, some x)) : s.slotTaken = false := by
  unfold State.chooseProfile at h
  split at h
  · cases h
  · split at h
    · cases h
    · unfold State.chargeSuspension at h
      split at h
      · cases h
      · next hf => simpa using hf

namespace Closed

variable {P : State → Prop} (k : Closed P) {s : State}
include k

/-! ### Sessions and admission -/

theorem demandChanged (h : P s) : P s.demandChanged := k.refreshSub _ (k.settle _ h)
theorem approach (l : LineId) (f : Approach → Approach) (h : P s) : P (s.updApproach l f) := k.apq s _ h
theorem idleLine (l : LineId) (h : P s) : P (s.idleLine l) := k.apq s _ h
theorem idleLines (ls : List LineId) (h : P s) : P (s.idleLines ls) := foldl_closed _ (fun _ _ h => k.idleLine _ h) ls h

theorem noteClosed (id : Nat) (h : P s) : P (s.noteClosed id) := by
  unfold State.noteClosed; dsimp only; (repeat' split) <;> first | exact h | exact k.resume _ _ h | exact k.resume _ _ (k.resume _ _ h)

theorem closeSession (id : Nat) (w : CloseReason) (h : P s) : P (s.closeSession id w) := by
  unfold State.closeSession
  split
  · exact h
  · dsimp only
    refine k.noteClosed _ (k.record _ _ _ _ _ rfl (k.idleLines _ ?_))
    split
    · exact k.demandChanged (k.removed _ _ h)
    · exact k.refreshSub _ (k.removed _ _ h)

theorem closeWhere (p : Session → Bool) (w : CloseReason) (h : P s) : P (s.closeWhere p w) :=
  foldl_closed _ (fun _ _ h => k.closeSession _ w h) _ h

theorem suspend (a b : Nat) (hf : s.slotTaken = false) (h : P s) : P (s.suspend a b) := by
  unfold State.suspend
  exact k.record _ _ _ _ _ rfl (k.demandChanged (k.suspended _ _ _ hf h))

theorem resumed (r : Resume) (h : P s) : P (s.resume r) := by
  unfold State.resume; split
  · exact h
  · split
    · exact h
    · dsimp only; split
      · exact k.record _ _ _ _ _ rfl (k.demandChanged (k.session _ _ _ (fun _ => ⟨rfl, rfl, rfl, fun _ => rfl⟩) h))
      · exact k.closeSession _ _ (k.session _ _ _ (fun _ => ⟨rfl, rfl, rfl, fun h => h⟩) h)

theorem resumeNow (h : P s) : P s.resumeNow := by
  unfold State.resumeNow; split
  · exact k.resumed _ (k.resume _ _ h)
  · exact h

theorem refuse (r : Request) (w : Result) (id : Nat) (h : P s) : P (s.refuse r w id).1 := k.record _ _ _ _ _ rfl h

theorem makePlace {t : State} (c : ClassEntry) (h : P s) (ht : s.makePlace c = some t) : P t := by
  unfold State.makePlace at ht
  (repeat' split at ht) <;> first | (cases ht; exact h) | (cases ht; exact k.closeSession _ _ h) | cases ht

theorem exclude (p n : Nat) (h : P s) : P (s.exclude p n) := by
  unfold State.exclude; dsimp only
  split
  · exact h
  · split
    · exact foldl_closed _ (fun _ _ h => k.closeSession _ _ h) _ h
    · next hf => exact foldl_closed _ (fun _ _ h => k.closeSession _ _ h) _ (k.suspend _ _ (by simpa using hf) h)

theorem createSession {u : State} (r : Request) (p : Profile) (c : Nat) {v : State} {e : ClassEntry} (hv : P v) (hp : v.makePlace e = some u) (hu : P u)
    (hc : u.sessionOf? r.cls = none) (hk : s.keys.Sublist u.keys) (h : P s) : P (s.createSession r u.takeId.2 p c) := by
  unfold State.createSession; dsimp only
  refine k.record _ _ _ _ _ rfl ?_
  have h' := k.demandChanged (k.created s v e u (s.newSession r u.takeId.2 p c) hv hp hu hc rfl hk rfl rfl h)
  split
  · exact k.approach _ _ h'
  · exact h'

theorem decideNew (r : Request) (hc : s.sessionOf? r.cls = none) (h : P s) : P (s.decideNew r).1 := by
  unfold State.decideNew; dsimp only
  split
  · exact k.refuse _ _ _ h
  · next t ht =>
    have hP := k.makePlace _ h ht
    have hk := makePlace_keys ht
    have hc' : t.sessionOf? r.cls = none := sessionOf_none hk hc
    split
    · exact k.refuse _ _ _ hP
    · next q o hq =>
      have hi : P t.takeId.1 := k.takeId _ hP
      have hm : ∀ (u : State), P u → u.keys.Sublist t.keys → ∀ c : Bool,
          let v := if c then u.exclude (s.cls r.cls).priority t.takeId.2 else u
          P v ∧ v.keys.Sublist t.keys := by
        intro u hu hs c; cases c
        · exact ⟨hu, hs⟩
        · exact ⟨k.exclude _ _ hu, (exclude_keys u _ _).trans hs⟩
      have hs : ∀ o : Option Nat, (∀ x, o = some x → t.slotTaken = false) →
          let v := match o with | some x => t.takeId.1.suspend x t.takeId.2 | none => t.takeId.1
          P v ∧ v.keys.Sublist t.keys := by
        intro o ho; cases o
        · exact ⟨hi, List.Sublist.refl _⟩
        · exact ⟨k.suspend _ _ (ho _ rfl) hi, by rw [suspend_keys]; exact List.Sublist.refl _⟩
      have hfree : ∀ x, o = some x → t.slotTaken = false := fun x hx => chooseProfile_free (hx ▸ hq)
      obtain ⟨a1, a2⟩ := hs o hfree
      obtain ⟨b1, b2⟩ := hm _ a1 a2 (s.cls r.cls).exclusive
      have := k.createSession r q (t.profileCost (s.cls r.cls) q) h ht hP hc' b2 b1
      split
      · exact this
      · exact k.resumeNow this

theorem recordCoalesced (id : Nat) (o : CoalesceOutcome) (n : Nat) (h : P s) : P (s.recordCoalesced id o n).1 :=
  k.record _ _ _ _ _ rfl h

theorem lengthen (x : Session) (h : P s) : P (s.lengthen x).1 := by
  unfold State.lengthen; dsimp only
  have h' := fun f => k.session s x.id f
  (repeat' split) <;>
    first | exact k.recordCoalesced _ _ _ h | exact k.recordCoalesced _ _ _ (h' _ (fun _ => ⟨rfl, rfl, rfl, fun h => h⟩) h)

theorem lengthenHeld (x : Session) (h : P s) : P (s.lengthenHeld x).1 := by
  unfold State.lengthenHeld; dsimp only
  have h' := fun f => k.session s x.id f
  split <;> first | exact k.recordCoalesced _ _ _ h | exact k.recordCoalesced _ _ _ (h' _ (fun _ => ⟨rfl, rfl, rfl, fun h => h⟩) h)

theorem widen (x : Session) (h : P s) : P (s.widen x).1 := by
  unfold State.widen; dsimp only
  have h' := fun f hf => k.demandChanged (k.session s x.id f hf h)
  split
  · dsimp only
    exact k.record _ _ _ _ _ rfl (h' _ (fun _ => ⟨rfl, rfl, rfl, fun h => h⟩))
  · exact k.lengthen _ h

theorem applyUpgrade (x : Session) (p : Profile) (c : Nat) (h : P s) : P (s.applyUpgrade x p c).1 := by
  unfold State.applyUpgrade; dsimp only
  refine k.record _ _ _ _ _ rfl (k.idleLines _ ?_)
  split
  · exact k.demandChanged (k.session _ _ _ (fun _ => ⟨rfl, rfl, rfl, fun h => h⟩) h)
  · exact k.session _ _ _ (fun _ => ⟨rfl, rfl, rfl, fun h => h⟩) h

theorem upgrade (r : Request) (x : Session) (h : P s) : P (s.upgrade r x).1 := by
  unfold State.upgrade; dsimp only
  split
  · exact k.refuse _ _ _ h
  · split
    · exact k.refuse _ _ _ h
    · split
      · exact k.refuse _ _ _ h
      · next q o hq =>
        refine k.applyUpgrade _ _ _ ?_
        cases o with
        | none => exact h
        | some y =>
          refine k.suspend _ _ ?_ h
          split at hq
          · exact chooseProfile_free hq
          · cases hq

theorem join (x : Session) (l p : LineId) (h : P s) : P (s.join x l p).1 := by
  unfold State.join; dsimp only; split
  · exact k.recordCoalesced _ _ _ h
  · exact k.recordCoalesced _ _ _ (k.approach _ _ (k.session _ _ _ (fun _ => ⟨rfl, rfl, rfl, fun h => h⟩) h))

theorem coalesce (r : Request) (x : Session) (h : P s) : P (s.coalesce r x).1 := by
  unfold State.coalesce
  (repeat' split) <;>
    first
      | exact k.join _ _ _ h | exact k.upgrade _ _ h | exact k.lengthen _ h | exact k.lengthenHeld _ h | exact k.widen _ h

theorem decideRequest (r : Request) (h : P s) : P (s.decideRequest r).1 := by
  unfold State.decideRequest; dsimp only
  split
  · exact k.refuse _ _ _ h
  · split
    · exact k.refuse _ _ _ h
    · split
      · exact k.coalesce _ _ h
      · next hc => exact k.decideNew _ hc h

/-! ### Lines -/

theorem muteLine (l : LineId) (h : P s) : P (s.muteLine l) := k.record _ _ _ _ _ rfl (k.line _ _ _ h)

theorem muteIfReached (l : LineId) (h : P s) : P (s.muteIfReached l) := by
  unfold State.muteIfReached; dsimp only; split
  · exact k.muteLine _ h
  · exact h

theorem countNuisance (l : LineId) (h : P s) : P (s.countNuisance l) := by
  unfold State.countNuisance; dsimp only; split
  · exact k.muteIfReached _ (k.line _ _ _ h)
  · exact h

theorem endMute (l : LineId) (c : UnmuteCause) (h : P s) : P (s.endMute l c) := k.line _ _ _ (k.record _ _ _ _ _ rfl h)

theorem stage1Trigger (l : LineId) (h : P s) : P (s.stage1Trigger l) := by
  unfold State.stage1Trigger; dsimp only; split
  · exact k.approach _ _ h
  · exact k.decideRequest _ h

theorem stage2Trigger (l : LineId) (h : P s) : P (s.stage2Trigger l) := by
  unfold State.stage2Trigger
  refine foldl_closed _ (fun _ _ h => ?_) _ h
  split
  · exact k.upgrade _ _ h
  · exact h

theorem roleTrigger (l : LineId) (e : Edge) (h : P s) : P (s.roleTrigger l e) := by
  unfold State.roleTrigger; dsimp only; split
  · exact k.decideRequest _ h
  · exact k.record _ _ _ _ _ rfl h
  · exact k.stage1Trigger _ h
  · exact k.stage2Trigger _ h

theorem trigger (l : LineId) (e : Edge) (h : P s) : P (s.trigger l e) := by
  unfold State.trigger; dsimp only
  split
  · exact h
  · split <;> split <;>
      first
        | exact k.line _ _ _ (k.line _ _ _ h) | exact k.line _ _ _ h | exact k.roleTrigger _ _ (k.line _ _ _ h)
        | exact k.roleTrigger _ _ h

theorem stableChange (l : LineId) (b : Bool) (h : P s) : P (s.stableChange l b) := by
  unfold State.stableChange; dsimp only
  have h' := k.line s l (fun x => { x with debounced := b }) h
  (repeat' split) <;>
    first | exact h' | exact k.trigger _ _ (k.line _ _ _ h') | exact k.line _ _ _ h' | exact k.trigger _ _ h'

theorem arm (l : LineId) (h : P s) : P (s.arm l) := by
  unfold State.arm; dsimp only; split
  · exact k.trigger _ _ (k.line _ _ _ h)
  · exact k.line _ _ _ h

theorem triggerPending (h : P s) : P s.triggerPending := by
  unfold State.triggerPending
  refine foldl_closed _ (fun _ _ h => ?_) _ h
  dsimp only; split
  · exact k.trigger _ _ h
  · exact h

theorem windowExpired (l : LineId) (r : Listen) (h : P s) : P (s.windowExpired l r) := by
  unfold State.windowExpired; dsimp only
  have h' := k.record s .approachExpired l.val r.session none rfl h
  (repeat' split) <;>
    first
      | exact k.idleLine _ h'
      | exact k.closeSession _ _ (k.idleLine _ (k.countNuisance _ h'))
      | exact k.countNuisance _ (k.session _ _ _ (fun _ => ⟨rfl, rfl, rfl, fun h => h⟩) (k.idleLine _ h'))

theorem disableLine (l : LineId) (h : P s) : P (s.disableLine l) := by
  unfold State.disableLine; dsimp only
  refine k.line _ _ _ ?_
  split
  · exact k.endMute _ _ h
  · exact h

theorem writeLine (l : LineId) (e : LineEntry) (h : P s) : P (s.writeLine l e) := by
  unfold State.writeLine; dsimp only
  have h' := k.line s l (fun x => { x with entry := e }) h
  split
  · exact k.arm _ h'
  · split
    · exact k.disableLine _ h'
    · split
      · have h2 := k.arm l h'
        split <;> split <;> first | exact k.muteIfReached _ h2 | exact k.muteIfReached _ h' | exact h2 | exact h'
      · exact h'

theorem resetLines (h : P s) : P s.resetLines :=
  foldl_closed _ (fun _ _ h => k.approach _ _ (k.line _ _ _ h)) _ h

theorem wlChange (l : LineId) (b : Bool) (h : P s) : P (s.wlChange l b) := by
  unfold State.wlChange; dsimp only
  (repeat' split) <;> first | exact h | exact k.line _ _ _ h | exact k.stableChange _ _ (k.line _ _ _ h)

theorem wlSettles (l : LineId) (h : P s) : P (s.wlSettles l) := by
  unfold State.wlSettles; dsimp only
  split <;> first | exact k.line _ _ _ h | exact k.stableChange _ _ (k.line _ _ _ h)

/-! ### Schedule -/

theorem recordMissed (e : SchedEntry) (n : Nat) (h : P s) : P (s.recordMissed e n) := by
  unfold State.recordMissed; split
  · exact h
  · exact k.record _ _ _ _ _ rfl h

theorem evaluateLate (e : SchedEntry) (he : ∃ x ∈ s.wsc.sched, x.id = e.id) (h : P s) : P (s.evaluateLate e) := by
  unfold State.evaluateLate; dsimp only
  refine k.advance _ _ _ ?_ ?_
  · split
    · rw [deep_wsc (decideRequest_deep _ _), deep_wsc (recordMissed_deep _ _ _)]; exact he
    · rw [deep_wsc (recordMissed_deep _ _ _)]; exact he
  · split
    · exact k.decideRequest _ (k.recordMissed _ _ h)
    · exact k.recordMissed _ _ h

theorem evaluateInDrive (e : SchedEntry) (he : ∃ x ∈ s.wsc.sched, x.id = e.id) (h : P s) : P (s.evaluateInDrive e) := by
  unfold State.evaluateInDrive; dsimp only; split
  · refine k.advance _ _ _ ?_ (k.record _ _ _ _ _ rfl (k.recordMissed _ _ h))
    rw [deep_wsc (record_deep _ _ _ _ _), deep_wsc (recordMissed_deep _ _ _)]; exact he
  · exact k.setPending _ _ _ h

theorem evaluate (id : Nat) (h : P s) : P (s.evaluate id) := by
  unfold State.evaluate
  split
  · exact h
  · next e he =>
    have hx : ∃ x ∈ s.wsc.sched, x.id = e.id := ⟨e, List.mem_of_find?_eq_some he, rfl⟩
    split
    · exact k.evaluateInDrive _ hx h
    · split
      · exact k.setPending _ _ _ h
      · exact k.evaluateLate _ hx h

theorem evaluateWhere (p : SchedEntry → Bool) (h : P s) : P (s.evaluateWhere p) :=
  foldl_closed _ (fun _ _ h => k.evaluate _ h) _ h

theorem evaluatePastDue (h : P s) : P s.evaluatePastDue := k.evaluateWhere _ h
theorem secondRises (h : P s) : P s.secondRises := by
  refine k.evaluateWhere _ (k.clock s _ ?_ h)
  have := Nat.mod_lt (s.wsc.seconds + 1) (show 0 < partWrap by decide)
  unfold partWrap at *; omega

/-! ### Modes, samples, PARK -/

theorem setMode (m : Mode) (c : ModeCause) (h : P s) : P (s.setMode m c) := k.record _ _ _ _ _ rfl (k.mdc _ _ h)
theorem setHolds (a b c : Bool) (h : P s) : P (s.setHolds a b c) := k.demandChanged (k.mdc _ _ h)
theorem startHandover (h : P s) : P s.startHandover := k.mdc _ _ h
theorem stopHandover (h : P s) : P s.stopHandover := k.mdc _ _ h
theorem idleAll (h : P s) : P s.idleAll := k.idleLines _ h

theorem enterDrive (h : P s) : P s.enterDrive :=
  k.setHolds _ _ _ (k.idleAll (k.closeWhere _ _ (k.stopHandover (k.setMode _ _ h))))

theorem enterCutoff (h : P s) : P s.enterCutoff :=
  k.refreshSub _ (k.forceCutoff _ (k.setHolds _ _ _ (k.stopHandover (k.setMode _ _ h))))

theorem enterHandover (h : P s) : P s.enterHandover := by
  unfold State.enterHandover; dsimp only
  have h' := k.evaluateWhere SchedEntry.pending (k.startHandover (k.setHolds false true true (k.setMode .handover .ignitionOff h)))
  split
  · exact k.enterCutoff h'
  · exact h'

theorem enterParked (c : ModeCause) (h : P s) : P (s.enterParked c) := by
  unfold State.enterParked
  exact k.triggerPending (k.refreshSub _ (k.setHolds _ _ _ (k.stopHandover (k.setMode _ _ h))))

theorem ignSettles (h : P s) : P s.ignSettles := by
  unfold State.ignSettles State.ignChanged; dsimp only
  have h' : P { s with mdc.ign := s.mdc.ign.settled } := k.mdc _ _ h
  split
  · exact h'
  · split
    · split
      · exact h'
      · exact k.enterDrive h'
    · split
      · exact k.enterHandover h'
      · exact h'

theorem attributed (i p : Nat) (h : P s) : P (s.attribute i p) := by
  unfold State.attribute; dsimp only; split
  · exact h
  · exact k.charged s (s.sessionSum (s.excess i)) p h

theorem decrement (i p : Nat) (h : P s) : P (s.decrement i p) := by
  unfold State.decrement; dsimp only; exact k.chm _ _ h
theorem exhaust (c : Nat) (h : P s) : P (s.exhaust c) := k.closeWhere _ _ (k.record _ _ _ _ _ rfl h)
theorem capCheck (h : P s) : P s.capCheck := k.closeWhere _ _ h

theorem takeStep (a b : Tier) (h : P s) : P (s.takeStep a b) := by
  unfold State.takeStep
  split
  · exact h
  · split
    · dsimp only
      have h' := k.closeWhere (fun x => decide ((s.cls x.cls).minTier.code < b.code)) .tier h
      split
      · exact k.enterCutoff h'
      · exact h'
    · split
      · exact k.enterParked _ h
      · exact h

theorem reading (v : Nat) (h : P s) : P (s.reading v) := by
  unfold State.reading; dsimp only; split
  · exact k.btm _ _ h
  · exact k.takeStep _ _ (k.record _ _ _ _ _ rfl (k.btm _ _ h))

theorem sampleWork (i v : Int) (p : Nat) (h : P s) : P (s.sampleWork i v p) := by
  unfold State.sampleWork
  extract_lets i' v' mode metered before c0 u0 u1 u2 u3 u4
  have h0 : P u0 := k.chm _ _ h
  have h1 : P u1 := by show P (if _ then _ else _); split; exacts [h0, k.attributed _ _ h0]
  have h2 : P u2 := by show P (if _ then _ else _); split; exacts [k.decrement _ _ h1, h1]
  have h3 : P u3 := by show P (if _ then _ else _); split; exacts [h2, k.capCheck h2]
  have h4 : P u4 := by show P (if _ then _ else _); split; exacts [k.exhaust _ h3, h3]
  exact k.reading _ h4

theorem parkSettings (n : Nat) (h : P s) : P (s.parkSettings n) := by
  unfold State.parkSettings; dsimp only
  refine k.mdc _ _ (foldl_closed _ (fun _ _ h => ?_) _ (k.chm _ _ h))
  split
  · exact k.endMute _ _ h
  · exact h

theorem softwareReset (hf : ∀ s, P s → P s.forceReset) (hl : ∀ s, P s → P s.resetLink) (he : ∀ s, P s → P s.resetEvents) (h : P s) :
    P s.softwareReset := by
  have h1 : P s.resetRunning := by
    unfold State.resetRunning
    have h0 := k.resetLines (k.closeWhere (fun _ => true) .reset h)
    generalize (s.closeWhere (fun _ => true) .reset).resetLines = v at h0
    have hm := k.mdc _ { v.mdc with driveHold := false, handoverHold := false, alwaysHold := false } (k.noSched _ h0)
    exact hf _ hm
  have h2 : ∀ u : State, P u → P u.resetHolds := by
    intro u hu
    unfold State.resetHolds; dsimp only
    have h3 : P u.resetMode := by
      have := k.btm _ { u.btm with fall := 0, rise := 0 }
        (k.mdc u { u.mdc with mode := if u.mdc.ign.debounced then .drive else .handover } hu)
      exact this
    split
    · exact k.stopHandover (k.setHolds _ _ _ h3)
    · exact k.startHandover (k.setHolds _ _ _ h3)
  have h4 := he _ (hl _ (h2 _ h1))
  unfold State.softwareReset; dsimp only
  generalize s.resetRunning.resetHolds.resetLink.resetEvents = v at h4
  split
  · exact k.enterCutoff h4
  · exact h4

theorem lengthenWindows (ls : List LineId) (n : Nat) (h : P s) : P (s.lengthenWindows ls n) :=
  foldl_closed _ (fun _ _ h => k.approach _ _ h) _ h

end Closed

end Sys2Proof.Machine
end

