-- ==== Sys2Proof/Laws/Requests.lean ====
section
/-! SUPPORT. `Requests P W` lists what the requests do beside the work of `Closed`; `takeFrame_keeps` says that the taking of any frame
then keeps P. -/

namespace Sys2Proof.Machine

/-- P holds between events, W throughout them: the end of an event brings P back, and every request that does not end an event keeps
P. -/
structure Requests (P W : State → Prop) : Prop where
  weak : ∀ s, P s → W s
  closed : Closed W
  finish : ∀ s, W s → P s.finish
  adm : ∀ s a, P s → P { s with adm := a }
  eventsRead : ∀ s k b, P s → P ({ s with evq.events := s.evq.events.drop k, evq.lost := 0, evq.readPulse := b }).refreshAttn
  faultClear : ∀ s, P s → P ({ s with lnk.linkFault := false }).refreshAttn
  linkSet : ∀ s n m p h, 1 ≤ n ∧ n ≤ 15 → 10 ≤ h ∧ h ≤ 600 → P s →
    P ({ s with lnk.limit := n, evq.attnMode := m, evq.policy := p, mdc.handoverTimeout := h }).refreshAttn
  lock : ∀ s, P s → P { s with lnk.locked := true }
  arm : ∀ s, P s → P { s with lnk.armed := true }
  entry : ∀ s d e, s.treeRefuses d e = false → ((s.dom d).state = .off ∨ changesTree (s.dom d).entry e = false) →
    (∀ p, e.parent = some p → p < d) → P s →
    W (s.updDom d (fun x => { x with entry := { e with rampTimeout := clampRamp e.rampTimeout } }))
  clearFault : ∀ s d, P s → W (s.clearFault d)
  unmute : ∀ s l, P s → P (s.updLine l (fun x => { x with window := none, nuisance := 0 }))
  tierSet : ∀ s c k t h f r, 8000 ≤ t → t < k → k < c → c ≤ 15000 → 50 ≤ h → h ≤ 1000 → 1 ≤ f → f ≤ 32 → 1 ≤ r → r ≤ 255 → P s →
    P { s with btm := ⟨s.btm.tier, c, k, t, h, f, r, 0, 0⟩ }
  meterSet : ∀ s q f, q ≤ 2000 → f ≤ 65535 → P s → P { s with chm.baseline := q, chm.floorMah := f }
  schedAdd : ∀ s e, s.entry? e.id = none → s.wsc.sched.length < 16 → e.due ≤ 4294967295 → P s →
    P { s with wsc.sched := placeEntry e s.wsc.sched }
  schedCancel : ∀ s id, P s → P (s.removeEntry id)
  extend : ∀ s id n c ls ms, P s → P ((s.updSession id (fun x => x.extended n c)).lengthenWindows ls ms)
  reserve : ∀ s r, r ≤ 235926000 → P s → P { s with chm.reserve := r }
  clock : ∀ s n, n ≤ 4294967295 → P s → W { s with wsc.seconds := n, wsc.fraction := 0, wsc.riseDue := false }
  taken : ∀ s, P s → P { s with lnk.armed := false, lnk.frameErrors := 0, lnk.reply := some [] }
  takenReset : ∀ s, P s → P { s with lnk.armed := false, lnk.resetDue := true, lnk.reply := some [] }
  replied : ∀ s f n, P s → P { s with lnk.reply := some f, lnk.replyLeft := n, lnk.overrun := false }

variable {P W : State → Prop} (k : Requests P W) {s : State}

theorem nat16_lt (h l : Byte) : nat16 h l ≤ 65535 := by unfold nat16; have := h.isLt; have := l.isLt; omega

theorem nat32_lt (a b c d : Byte) : nat32 a b c d ≤ 4294967295 := by
  unfold nat32; have := a.isLt; have := b.isLt; have := c.isLt; have := d.isLt; omega

theorem readDomainEntry_parent {d : DomId} {p : List Byte} {e : DomainEntry} (h : readDomainEntry d p = some e) :
    ∀ q, e.parent = some q → q < d := by
  unfold readDomainEntry at h
  split at h
  · simp only [Option.bind_eq_some_iff] at h
    obtain ⟨q, hq, h⟩ := h
    unfold check at h
    split at h
    · injection h with h
      subst h
      intro r hr
      dsimp only at hr
      subst hr
      unfold readParent at hq
      (repeat' split at hq) <;> cases hq
      assumption
    · cases h
  · cases h

theorem readSchedEntry_due {p : List Byte} {e : SchedEntry} (h : readSchedEntry p = some e) : e.due ≤ 4294967295 := by
  unfold readSchedEntry at h
  split at h
  · simp only [Option.bind_eq_some_iff] at h
    obtain ⟨q, -, h⟩ := h
    unfold check at h
    split at h
    · injection h with h
      subst h
      exact nat32_lt _ _ _ _
    · cases h
  · cases h

include k

theorem carryOut_keeps (type : Byte) (p : List Byte) (h : P s) : P (carryOut s type p).1 := by
  have C := k.closed
  have F := k.finish
  have H := k.weak s h
  unfold carryOut
  split
  · exact h
  · unfold reqEventsRead refusal; dsimp only
    split
    · split
      · exact k.eventsRead s _ _ h
      · exact h
    · exact h
  · exact k.faultClear s h
  · unfold reqDomainSet refusal; dsimp only
    split
    · split
      · exact h
      · split
        · exact h
        · next d _ _ e he =>
          split
          · exact h
          · next ht =>
            split
            · exact h
            · next hc =>
              refine F _ (C.demandChanged (k.entry s d e (by simpa using ht) ?_ (readDomainEntry_parent he) h))
              by_cases hs : (s.dom d).state = .off
              · exact .inl hs
              · right; simpa [hs] using hc
    · exact h
  · unfold reqDomainGet refusal; (repeat' split) <;> with_reducible exact h
  · unfold reqDomainClearFault refusal okay
    split
    · split
      · exact F _ (k.clearFault s _ h)
      · exact h
    · exact h
  · unfold reqLineSet refusal
    (repeat' split) <;> first | with_reducible exact h | exact F _ (C.writeLine _ _ H)
  · unfold reqLineGet refusal; (repeat' split) <;> with_reducible exact h
  · unfold reqLineUnmute refusal okay
    split
    · split
      · split
        · exact F _ (C.endMute _ _ H)
        · exact k.unmute s _ h
      · exact h
    · exact h
  · unfold reqClassSet refusal okay; dsimp only
    split
    · split
      · exact h
      · split
        · exact h
        · next c _ _ e _ =>
          have ha : P (s.setClass c e) := k.adm s _ h
          split
          · exact h
          · split
            · exact F _ (C.closeSession _ _ (k.weak _ ha))
            · exact ha
    · exact h
  · unfold reqClassGet refusal; (repeat' split) <;> with_reducible exact h
  · unfold reqTierSet refusal; dsimp only
    split
    · next a1 a0 b1 b0 c1 c0 h1 h0 nf nr =>
      split
      · next hok =>
        simp only [tierFieldsOk, Bool.and_eq_true, decide_eq_true_eq] at hok
        obtain ⟨⟨⟨⟨⟨⟨e1, e2⟩, e3⟩, e4⟩, e5⟩, e6⟩, e7⟩ := hok
        have := nr.isLt
        exact k.tierSet s _ _ _ _ _ _ e1 e2 e3 e4 (by omega) (by omega) e5 e6 e7 (by omega) h
      · exact h
    · exact h
  · unfold reqMeterSet refusal okay; dsimp only
    split
    · split
      · next hq => exact k.meterSet s _ _ hq (nat16_lt _ _) h
      · exact h
    · exact h
  · unfold reqSchedAdd refusal okay; dsimp only
    split
    · exact h
    · next e he =>
      split
      · exact h
      · next hn =>
        split
        · exact h
        · next hl =>
          have ha := k.schedAdd s e (by simpa using hn) (by omega) (readSchedEntry_due he) h
          split
          · exact F _ (C.evaluate _ (k.weak _ ha))
          · exact ha
  · unfold reqSchedCancel refusal okay
    split
    · split
      · exact h
      · split
        · exact k.schedCancel s _ h
        · exact h
    · exact h
  · unfold reqSchedList refusal; (repeat' split) <;> with_reducible exact h
  · unfold reqClockSet refusal okay; dsimp only
    split
    · exact F _ (C.evaluatePastDue (k.clock s _ (nat32_lt _ _ _ _) h))
    · exact h
  · unfold reqSessionOpen openRefusal; dsimp only
    (repeat' split) <;> first | with_reducible exact h | exact F _ (C.decideRequest _ H)
  · unfold reqSessionExtend; dsimp only
    (repeat' split) <;> first | with_reducible exact h | exact k.extend s _ _ _ _ _ h
  · unfold reqSessionRelease refusal; dsimp only
    split
    · split
      · exact h
      · split
        · exact h
        · refine F _ ?_
          split
          · split
            · exact C.countNuisance _ (C.closeSession _ _ H)
            · exact C.closeSession _ _ H
          · exact C.closeSession _ _ H
    · exact h
  · unfold reqSessionList refusal; (repeat' split) <;> with_reducible exact h
  · unfold reqPark refusal okay; dsimp only
    split
    · split
      · exact h
      · refine F _ (C.evaluatePastDue ?_)
        split
        · exact C.enterParked _ (C.parkSettings _ H)
        · exact C.triggerPending (C.refreshSub _ (C.parkSettings _ H))
    · exact h
  · unfold reqReserveAdjust refusal; dsimp only
    split
    · split
      · exact h
      · next d1 d0 _ =>
        have hr : saturate reserveMax ((s.chm.reserve : Int) + (d1 ++ d0 : BitVec 16).toInt * 3600) ≤ 235926000 := by
          unfold saturate reserveMax; omega
        have ha := k.reserve s _ hr h
        split
        · exact F _ (C.exhaust _ (k.weak _ ha))
        · exact ha
    · exact h
  · unfold reqLinkSet refusal okay; dsimp only
    split
    · split
      · split
        · next hb =>
          simp only [Bool.and_eq_true, decide_eq_true_eq] at hb
          exact k.linkSet s _ _ _ _ ⟨hb.1.1.1, hb.1.1.2⟩ ⟨hb.1.2, hb.2⟩ h
        · exact h
      · exact h
    · exact h
  · exact k.lock s h
  · exact k.arm s h
  · exact h
  · exact h

theorem answerFrame_keeps (type : Byte) (p : List Byte) (h : P s) : P (s.answerFrame type p).1 := by
  unfold State.answerFrame refusal
  (repeat' split) <;> first | with_reducible exact h | exact carryOut_keeps k type p h

/-- The taking of a frame keeps P. -/
theorem takeFrame_keeps (type : Byte) (p : List Byte) (h : P s) : P (s.takeFrame type p) := by
  unfold State.takeFrame; dsimp only
  split
  · exact k.replied _ _ _ (k.takenReset _ h)
  · exact k.replied _ _ _ (answerFrame_keeps k type p (k.taken s h))

end Sys2Proof.Machine
end

