-- ==== Sys2Proof/Laws/Invariants.lean ====
section
/-! SUPPORT. `Requests.kept`: an invariant P with its weaker form W is kept by every step, given what the pins, the domains' own events
and the resets do to it. -/

namespace Sys2Proof.Machine

/-- What the events outside the requests do beside the work of `Closed`. -/
structure Happenings (P W : State → Prop) : Prop where
  lapse : ∀ s n, P s → P (s.lapse n)
  dequeue : ∀ s rest, P s → P { s with lnk.inbound := rest }
  notice : ∀ s e, P s → P (s.takeNotice e)
  arrive : ∀ s e, P s → P (s.arrive e)
  receiver : ∀ s r, P s → P (s.setReceiver r)
  ignPin : ∀ s i, i = (if s.held then s.mdc.ign.pinChangeHeld true else s.mdc.ign.pinChange true) ∨
    i = (if s.held then s.mdc.ign.pinChangeHeld false else s.mdc.ign.pinChange false) → P s → P { s with mdc.ign := i }
  servicePin : ∀ s i, P s → P { s with mdc.service := i }
  pgPin : ∀ s d b, P s → P (s.updDom d (fun x => if s.held then { x with pgPin := b } else x.pgChange b))
  wlPinHeld : ∀ s l b, s.held = true → P s → P (s.updLine l (fun x => { x with pin := b }))
  holdInReset : ∀ s, P s → P s.holdInReset
  powerOn : ∀ s, P s → W s.powerOn
  ignSettles : ∀ s, P s → W s.ignSettles
  rampDone : ∀ s d, (s.dom d).state = .ramping → P s → W (s.rampDone d)
  pgLost : ∀ s d, (s.dom d).state.live = true → P s → W (s.pgLost d)
  rampFailed : ∀ s d, (s.dom d).state = .ramping → P s → W (s.rampFailed d)
  holdoff : ∀ s d, (s.dom d).state = .holdoff → P s → W (s.powerOff d .demandGone)
  retry : ∀ s d, (s.dom d).state = .faultWait → P s → W (s.enterQueued d)
  handoverTimeout : ∀ s, s.mdc.handoverTimer.isSome = true → P s → W (s.enterParked .handoverTimeout)
  sample : ∀ s i v p, P s → W (s.sampleWork i v p)
  secondRises : ∀ s, P s → W s.secondRises
  pulseEnd : ∀ s, W s → W { s with evq.pulse := none }
  softwareReset : ∀ s, W s → W s.softwareReset
  clearReply : ∀ s, W s → W s.clearReply
  release : ∀ s, W s → W { s with dmc.d0Held := none }
  d0Off : ∀ s, W s → W (s.enterOff 0)
  pulseAfterRead : ∀ s, W s → W s.pulseAfterRead

theorem Requests.kept {P W : State → Prop} (k : Requests P W) (e : Happenings P W) : Kept P where
  lapse := e.lapse
  request s t p rest _ _ _ h := takeFrame_keeps k t p (e.dequeue s rest h)
  notice s n rest _ _ _ h := e.notice _ n (e.dequeue s rest h)
  arrive s n _ h := e.arrive s n h
  receiver s r _ _ h := e.receiver s r h
  replySent s _ _ h := by
    unfold State.replySent; dsimp only
    refine k.finish _ (e.pulseAfterRead _ ?_)
    have h1 : W (if s.lnk.resetDue then s.softwareReset else s) := by
      split
      · exact e.softwareReset s (k.weak s h)
      · exact k.weak s h
    generalize (if s.lnk.resetDue = true then s.softwareReset else s) = u at h1
    unfold State.releaseD0; dsimp only
    split
    · exact k.closed.demandChanged (e.d0Off _ (e.release _ (e.clearReply u h1)))
    · exact e.release _ (e.clearReply u h1)
  ignPin := e.ignPin
  servicePin := e.servicePin
  pgPin := e.pgPin
  wlPinHeld := e.wlPinHeld
  holdInReset := e.holdInReset
  leaveReset s _ h := k.finish _ (e.powerOn s h)
  ignSettles s _ h := k.finish _ (e.ignSettles s h)
  wlChange s l b _ h := k.finish _ (k.closed.wlChange l b (k.weak s h))
  wlSettles s l _ h := k.finish _ (k.closed.wlSettles l (k.weak s h))
  rampDone s d _ hs h := k.finish _ (k.closed.demandChanged (e.rampDone s d hs h))
  pgLost s d _ hs h := by
    refine k.finish _ ?_
    have := k.closed.demandChanged (e.pgLost s d hs h)
    split
    · exact e.softwareReset _ this
    · exact this
  rampFailed s d _ hs h := k.finish _ (k.closed.demandChanged (e.rampFailed s d hs h))
  holdoff s d _ hs h := k.finish _ (k.closed.demandChanged (e.holdoff s d hs h))
  retry s d _ hs h := k.finish _ (k.closed.demandChanged (e.retry s d hs h))
  nuisanceWindow s l _ h := k.finish _ (k.weak _ (k.unmute s l h))
  endMute s l _ h := k.finish _ (k.closed.endMute l _ (k.weak s h))
  windowExpired s l r _ _ h := k.finish _ (k.closed.windowExpired l r (k.weak s h))
  handoverTimeout s _ ht h := k.finish _ (e.handoverTimeout s ht h)
  sample s i v p _ h := k.finish _ (e.sample s i v p h)
  closeSession s id _ h := k.finish _ (k.closed.closeSession id _ (k.weak s h))
  secondRises s _ h := k.finish _ (e.secondRises s h)
  finish s _ h := k.finish s (k.weak s h)
  pulseEnd s _ h := k.finish _ (e.pulseEnd s (k.weak s h))

end Sys2Proof.Machine
end

