-- ==== Sys2Proof/Laws/Power.lean ====
section
/-! SUPPORT. What the state changes of a domain do to the Domain Table, the Ramp Queue and the ramp slots: what is read after
`setState`, which operations leave all three alone, and `RampHeld`, the part of `RampSound` that holds throughout an event. -/

namespace Sys2Proof.Machine

/-- The Domain Table and the Ramp Arbiter. -/
def State.power (s : State) : Vector Domain 12 × Rmp := (s.dmc.domains, s.rmp)

theorem power_dom {s t : State} (h : s.power = t.power) (d : DomId) : s.dom d = t.dom d :=
  congrArg (fun p => p.1[d.val]) h

theorem power_rmp {s t : State} (h : s.power = t.power) : s.rmp = t.rmp := congrArg Prod.snd h

@[simp] theorem noteAppend_power (s : State) : s.noteAppend.power = s.power := by
  unfold State.noteAppend; split <;> rfl

@[simp] theorem record_power (s : State) (k : RecordKind) (a b : Nat) (v : Option Nat) : (s.record k a b v).power = s.power := by
  unfold State.record
  dsimp only
  split
  · exact noteAppend_power s
  · split
    · rfl
    · exact noteAppend_power s

@[simp] theorem takePeriod_power (s : State) (p : Nat) : (s.takePeriod p).power = s.power := by
  unfold State.takePeriod; split
  · rfl
  · split <;> rfl

@[simp] theorem refreshSub_power (s : State) : s.refreshSub.power = s.power := by
  unfold State.refreshSub; dsimp only; rw [takePeriod_power]; rfl

@[simp] theorem refreshAttn_power (s : State) : s.refreshAttn.power = s.power := by
  unfold State.refreshAttn; dsimp only; split <;> split <;> rfl

@[simp] theorem refreshSessions_power (s : State) : s.refreshSessions.power = s.power := rfl
@[simp] theorem endEvent_power (s : State) : s.endEvent.power = s.power := rfl

@[simp] theorem linkFollows_power (s : State) (a b : DomState) : (s.linkFollows a b).power = s.power := by
  unfold State.linkFollows; split
  · rfl
  · split <;> rfl

@[simp] theorem sendReply_power (s : State) (ty : Byte) (a : Answer) : (s.sendReply ty a).power = s.power := rfl

@[simp] theorem takeNotice_power (s : State) (e : FrameError) : (s.takeNotice e).power = s.power := by
  unfold State.takeNotice; dsimp only
  split
  · rw [endEvent_power, refreshAttn_power]; exact (record_power _ _ _ _ _).trans rfl
  · rfl

@[simp] theorem recordBlocked_power (s : State) : s.recordBlocked.power = s.power := by
  unfold State.recordBlocked; dsimp only
  rw [foldl_keeps State.power _ (fun u d => by split <;> simp)]; rfl

/-! ### What is read after `setState` -/

theorem setState_power (s : State) (d : DomId) (n : DomState) (t : Nat) :
    (s.setState d n t).power =
      (s.dmc.domains.set d.val { s.dom d with state := n, en := n.enOn, timer := t },
       { queue := if (s.dom d).state = .queued then s.rmp.queue.filter (· != d) else s.rmp.queue,
         slotA := if (s.dom d).state = .ramping ∧ s.rmp.slotA = some d then none else s.rmp.slotA,
         slotB := if (s.dom d).state = .ramping ∧ s.rmp.slotB = some d then none else s.rmp.slotB }) := by
  unfold State.setState; dsimp only
  have key : ∀ u : State, (if d = 0 then (u.updDom d (fun x => { x with state := n, en := n.enOn, timer := t })).linkFollows
      (s.dom d).state n else u.updDom d (fun x => { x with state := n, en := n.enOn, timer := t })).power =
      (u.updDom d (fun x => { x with state := n, en := n.enOn, timer := t })).power := by
    intro u; split <;> simp
  rw [key]
  generalize hst : (s.dom d).state = st
  by_cases h1 : st = .ramping
  · subst h1
    simp only [if_pos, true_and, if_neg (show ¬ DomState.ramping = .queued by decide)]
    rfl
  · by_cases h2 : st = .queued
    · subst h2
      simp only [if_pos, show ¬ DomState.queued = .ramping by decide, false_and, if_false]
      rfl
    · simp only [if_neg h2, h1, false_and, if_false]
      rfl

@[simp] theorem setState_dom_self (s : State) (d : DomId) (n : DomState) (t : Nat) :
    (s.setState d n t).dom d = { s.dom d with state := n, en := n.enOn, timer := t } := by
  have h := congrArg (fun p => p.1[d.val]) (setState_power s d n t)
  simpa [State.power, State.dom] using h

theorem setState_dom_ne (s : State) (d e : DomId) (n : DomState) (t : Nat) (h : e ≠ d) : (s.setState d n t).dom e = s.dom e := by
  have h' := congrArg (fun p => p.1[e.val]) (setState_power s d n t)
  have hv : d.val ≠ e.val := fun he => h (Fin.ext he.symm)
  simpa [State.power, State.dom, Vector.getElem_set_ne, hv] using h'

theorem setState_dom (s : State) (d e : DomId) (n : DomState) (t : Nat) :
    (s.setState d n t).dom e = if e = d then { s.dom d with state := n, en := n.enOn, timer := t } else s.dom e := by
  split
  · next h => rw [h, setState_dom_self]
  · next h => exact setState_dom_ne s d e n t h

theorem setState_rmp (s : State) (d : DomId) (n : DomState) (t : Nat) :
    (s.setState d n t).rmp =
      { queue := if (s.dom d).state = .queued then s.rmp.queue.filter (· != d) else s.rmp.queue,
        slotA := if (s.dom d).state = .ramping ∧ s.rmp.slotA = some d then none else s.rmp.slotA,
        slotB := if (s.dom d).state = .ramping ∧ s.rmp.slotB = some d then none else s.rmp.slotB } :=
  congrArg Prod.snd (setState_power s d n t)

theorem enterOff_dom (s : State) (d e : DomId) :
    (s.enterOff d).dom e = if e = d then { s.dom d with state := .off, en := false, timer := 0, attempts := 0 } else s.dom e := by
  unfold State.enterOff
  rw [dom_updDom]
  split
  · next h => subst h; simp [DomState.enOn]
  · next h => rw [setState_dom_ne s d e _ _ h]

@[simp] theorem enterOff_rmp (s : State) (d : DomId) : (s.enterOff d).rmp = (s.setState d .off 0).rmp := rfl

/-! ### `RampHeld`: what holds of domains, queue and slots throughout an event -/

/-- The slots are held by exactly the RAMPING domains, each holding one; the Ramp Queue holds QUEUED domains only, each once. -/
structure ArbiterHeld (s : State) : Prop where
  slots : ∀ d, (s.dom d).state = .ramping ↔ (s.rmp.slotA = some d ∨ s.rmp.slotB = some d)
  apart : ∀ d, s.rmp.slotA = some d → s.rmp.slotB ≠ some d
  queued : ∀ d ∈ s.rmp.queue, (s.dom d).state = .queued
  once : s.rmp.queue.Nodup

/-- `ArbiterHeld`, and every domain sound. A domain taken into QUEUED has its place in the queue at the event's end only (R41). -/
structure RampHeld (s : State) : Prop where
  arbiter : ArbiterHeld s
  domains : ∀ d, DomainSound (s.dom d)

theorem RampSound.held {s : State} (h : RampSound s) : RampHeld s :=
  ⟨⟨h.slots, h.apart, fun d hd => (h.queued d).2 hd, h.once⟩, h.domains⟩

theorem RampHeld.sound {s : State} (h : RampHeld s) (hq : ∀ d, (s.dom d).state = .queued → d ∈ s.rmp.queue) : RampSound s :=
  ⟨h.domains, h.arbiter.slots, h.arbiter.apart, fun d => ⟨hq d, h.arbiter.queued d⟩, h.arbiter.once⟩

theorem ArbiterHeld.congr {s t : State} (h : ArbiterHeld s) (hr : t.rmp = s.rmp) (hd : ∀ d, (t.dom d).state = (s.dom d).state) :
    ArbiterHeld t := by
  constructor
  · intro d; rw [hr, hd]; exact h.slots d
  · intro d; rw [hr]; exact h.apart d
  · intro d; rw [hr, hd]; exact h.queued d
  · rw [hr]; exact h.once

theorem RampHeld.congr {s t : State} (h : RampHeld s) (hr : t.rmp = s.rmp)
    (hd : ∀ d, (t.dom d).state = (s.dom d).state ∧ (t.dom d).en = (s.dom d).en ∧ (t.dom d).timer ≤ (s.dom d).timer ∧
      (t.dom d).attempts = (s.dom d).attempts) : RampHeld t := by
  refine ⟨h.arbiter.congr hr (fun d => (hd d).1), fun d => ?_⟩
  obtain ⟨h1, h2, h3, h4⟩ := hd d
  obtain ⟨a, b, c, e, f⟩ := h.domains d
  constructor
  · rw [h1, h2]; exact a
  · rw [h1]; intro hx; have := b hx; omega
  · rw [h4]; exact c
  · rw [h1, h4]; exact e
  · rw [h1, h4]; exact f

theorem RampHeld.same {s t : State} (h : RampHeld s) (hp : t.power = s.power) : RampHeld t :=
  h.congr (power_rmp hp) (fun d => by rw [power_dom hp d]; exact ⟨rfl, rfl, Nat.le_refl _, rfl⟩)

theorem RampSound.same {s t : State} (h : RampSound s) (hp : t.power = s.power) : RampSound t :=
  (h.held.same hp).sound (fun d hd => by
    rw [power_dom hp d] at hd; rw [power_rmp hp]; exact (h.queued d).1 hd)

theorem setState_arbiter {s : State} (d : DomId) (n : DomState) (t : Nat) (hn : n ≠ .ramping) (h : ArbiterHeld s) :
    ArbiterHeld (s.setState d n t) := by
  have hr := setState_rmp s d n t
  have hd := setState_dom s d
  obtain ⟨h1, h2, h3, h4⟩ := h
  constructor
  · intro e
    rw [hr, hd]
    dsimp only
    have a := h1 e
    by_cases he : e = d
    · subst he
      by_cases hx : (s.dom e).state = .ramping
      · simp [hn, hx]
      · simp [hn, hx, ← a]
    · have b := fun hh : d = e => he hh.symm
      simp only [if_neg he]
      rw [a]
      by_cases hx : (s.dom d).state = .ramping
      · simp only [hx, true_and]
        constructor
        · rintro (ha | ha)
          · left; rw [if_neg (by rw [ha]; simpa using he)]; exact ha
          · right; rw [if_neg (by rw [ha]; simpa using he)]; exact ha
        · rintro (ha | ha)
          · left; split at ha <;> first | cases ha | exact ha
          · right; split at ha <;> first | cases ha | exact ha
      · simp [hx]
  · intro e; rw [hr]
    dsimp only
    intro ha hb
    split at ha
    · cases ha
    · split at hb
      · cases hb
      · exact h2 e ha hb
  · intro e; rw [hr, hd]
    dsimp only
    intro he
    split at he
    · simp at he; rw [if_neg he.2]; exact h3 e he.1
    · next hx =>
      have hne : e ≠ d := by rintro rfl; exact hx (h3 e he)
      rw [if_neg hne]; exact h3 e he
  · rw [hr]; dsimp only; split
    · exact h4.filter _
    · exact h4

/-- A domain taken into a state other than RAMPING and OFF, its timer running only if the state has one, with an attempt count that fits
the state. -/
theorem setState_rampHeld {s : State} (d : DomId) (n : DomState) (t : Nat) (hn : n ≠ .ramping) (ho : n ≠ .off)
    (ht : n.timed = false → t = 0) (h3 : (s.dom d).attempts ≤ 3) (hl : (s.dom d).attempts = 3 → n = .latched)
    (ha : ArbiterHeld s) (hs : ∀ e, e ≠ d → DomainSound (s.dom e)) : RampHeld (s.setState d n t) := by
  refine ⟨setState_arbiter d n t hn ha, fun e => ?_⟩
  rw [setState_dom]
  split
  · exact ⟨rfl, ht, h3, hl, fun hx => absurd hx ho⟩
  · next he => exact hs e he

theorem enterOff_rampHeld {s : State} (d : DomId) (ha : ArbiterHeld s) (hs : ∀ e, e ≠ d → DomainSound (s.dom e)) :
    RampHeld (s.enterOff d) := by
  have h1 := setState_arbiter d .off 0 (by decide) ha
  constructor
  · refine h1.congr (enterOff_rmp s d) (fun e => ?_)
    rw [enterOff_dom, setState_dom]; split <;> rfl
  · intro e
    rw [enterOff_dom]; split
    · exact ⟨rfl, fun _ => rfl, Nat.zero_le _, (fun hx => by cases hx), fun _ => rfl⟩
    · next he => exact hs e he

theorem updDom_rampHeld {s : State} (d : DomId) (f : Domain → Domain)
    (hf : ∀ x, (f x).state = x.state ∧ (f x).en = x.en ∧ (f x).timer ≤ x.timer ∧ (f x).attempts = x.attempts) (h : RampHeld s) :
    RampHeld (s.updDom d f) := by
  refine h.congr rfl (fun e => ?_)
  rw [dom_updDom]; split
  · next he => rw [he]; exact hf _
  · exact ⟨rfl, rfl, Nat.le_refl _, rfl⟩

theorem noteBlocked_rampHeld {s : State} (d : DomId) (h : RampHeld s) : RampHeld (s.noteBlocked d) := by
  unfold State.noteBlocked; split
  · exact h
  · exact (updDom_rampHeld d (fun x => { x with depReported := true }) (fun _ => ⟨rfl, rfl, Nat.le_refl _, rfl⟩) h).same rfl

section Held
variable {s : State} (h : RampHeld s)
include h

theorem off_rampHeld (d : DomId) : RampHeld (s.enterOff d) := enterOff_rampHeld d h.arbiter (fun e _ => h.domains e)

theorem state_rampHeld (d : DomId) (n : DomState) (t : Nat) (hn : n ≠ .ramping) (ho : n ≠ .off) (ht : n.timed = false → t = 0)
    (hl : (s.dom d).state ≠ .latched) : RampHeld (s.setState d n t) :=
  setState_rampHeld d n t hn ho ht (h.domains d).attempts (fun h3 => absurd ((h.domains d).latched h3) hl) h.arbiter
    (fun e _ => h.domains e)

theorem enterQueued_rampHeld (d : DomId) (hl : (s.dom d).state ≠ .latched) : RampHeld (s.enterQueued d) := by
  have h' := state_rampHeld h d .queued 0 (by decide) (by decide) (fun _ => rfl) hl
  unfold State.enterQueued; dsimp only; split
  · exact noteBlocked_rampHeld d h'
  · exact h'

theorem enterLatched_rampHeld (d : DomId) : RampHeld (s.enterLatched d) := by
  unfold State.enterLatched; dsimp only
  refine foldl_closed _ (fun u e hu => ?_) _
    (setState_rampHeld d .latched 0 (by decide) (by decide) (fun _ => rfl) (h.domains d).attempts (fun _ => rfl) h.arbiter
      (fun e _ => h.domains e))
  split
  · exact noteBlocked_rampHeld e hu
  · exact hu

theorem clearFlags_rampHeld (p : State → DomId → Bool) (l : List DomId) :
    RampHeld (l.foldl (fun s e => if p s e then s.updDom e (fun x => { x with depReported := false }) else s) s) := by
  refine foldl_closed _ (fun u e hu => ?_) _ h
  split
  · exact updDom_rampHeld e _ (fun _ => ⟨rfl, rfl, Nat.le_refl _, rfl⟩) hu
  · exact hu

theorem clearLatch_rampHeld (d : DomId) : RampHeld (s.clearLatch d) := by
  unfold State.clearLatch; dsimp only
  exact clearFlags_rampHeld (off_rampHeld h d) (fun s e => (s.dom e).entry.parent == some d) _

theorem powerOff_rampHeld (d : DomId) (c : HeldCause) : RampHeld (s.powerOff d c) := by
  unfold State.powerOff; split
  · exact (updDom_rampHeld 0 (fun x => { x with timer := 0 }) (fun x => ⟨rfl, rfl, Nat.zero_le _, rfl⟩) h).same rfl
  · exact off_rampHeld h d

theorem forceOff_rampHeld (d : DomId) : RampHeld (s.forceOff d) := by
  unfold State.forceOff; split
  · exact h
  · exact h
  · exact off_rampHeld h d
  · exact off_rampHeld h d
  · exact off_rampHeld h d
  · exact powerOff_rampHeld h d _
  · exact powerOff_rampHeld h d _

theorem forceCutoff_rampHeld : RampHeld s.forceCutoff := by
  refine foldl_closed _ (fun u d hu => ?_) _ h
  split
  · exact hu
  · exact forceOff_rampHeld hu d

theorem transition_rampHeld (d : DomId) : RampHeld (s.transition d) := by
  unfold State.transition
  split
  · exact forceCutoff_rampHeld h
  · split
    · next hs => split
                 · exact enterQueued_rampHeld h d (by simp [hs])
                 · exact h
    · split
      · exact off_rampHeld h d
      · exact h
    · split
      · exact off_rampHeld h d
      · exact h
    · exact h
    · exact h
    · next hs =>
      split
      · exact h
      · split
        · exact powerOff_rampHeld h d _
        · exact state_rampHeld h d _ _ (by decide) (by decide) (fun hx => by cases hx) (by simp [hs])
    · next hs =>
      split
      · exact state_rampHeld h d _ _ (by decide) (by decide) (fun _ => rfl) (by simp [hs])
      · exact h

theorem settle_rampHeld : RampHeld s.settle := by
  refine foldl_closed _ (fun u d hu => ?_) _ h
  unfold State.transitionOf
  split
  · split
    · exact hu
    · exact transition_rampHeld (hu.same (t := { u with dmc.d0Held := none }) rfl) d
  · exact transition_rampHeld hu d

theorem forceReset_rampHeld : RampHeld s.forceReset := by
  unfold State.forceReset; dsimp only
  refine foldl_closed _ (fun u d hu => ?_) _ (foldl_closed _ (fun u d hu => ?_) _ h)
  · exact updDom_rampHeld d (fun x => { x with depReported := false }) (fun _ => ⟨rfl, rfl, Nat.le_refl _, rfl⟩) hu
  split
  · exact off_rampHeld hu d
  · split
    · exact hu
    · exact forceOff_rampHeld hu d

theorem rampDone_rampHeld (d : DomId) (hs : (s.dom d).state = .ramping) : RampHeld (s.rampDone d) := by
  unfold State.rampDone
  split
  · exact state_rampHeld h d _ _ (by decide) (by decide) (fun _ => rfl) (by simp [hs])
  · split
    · exact off_rampHeld h d
    · exact state_rampHeld h d _ _ (by decide) (by decide) (fun hx => by cases hx) (by simp [hs])

theorem failed_rampHeld (d : DomId) (n : Nat) (hs : (s.dom d).state ≠ .latched) : RampHeld ((s.countFault d n).afterFault d) := by
  have hp : (s.countFault d n).power = (s.updDom d (fun x => { x with attempts := x.attempts + 1 })).power := by
    unfold State.countFault; dsimp only; rw [record_power]
  have hdom : ∀ e, (s.countFault d n).dom e = if e = d then { s.dom d with attempts := (s.dom d).attempts + 1 } else s.dom e := by
    intro e; rw [power_dom hp, dom_updDom]
  have hr : (s.countFault d n).rmp = s.rmp := congrArg Prod.snd hp
  have hst : ∀ e, ((s.countFault d n).dom e).state = (s.dom e).state := by
    intro e; rw [hdom]; split
    · next he => rw [he]
    · rfl
  have ha : ArbiterHeld (s.countFault d n) := h.arbiter.congr hr hst
  have h3 : (s.dom d).attempts + 1 ≤ 3 := by
    have h1 := (h.domains d).attempts
    by_contra hc
    exact hs ((h.domains d).latched (by omega))
  have hd : ((s.countFault d n).dom d).attempts = (s.dom d).attempts + 1 := by rw [hdom, if_pos rfl]
  have ho : ∀ e, e ≠ d → DomainSound ((s.countFault d n).dom e) := fun e he => by rw [hdom, if_neg he]; exact h.domains e
  unfold State.afterFault
  split
  · exact enterOff_rampHeld d ha ho
  · split
    · next hlt => exact setState_rampHeld d _ _ (by decide) (by decide) (fun hx => by cases hx) (by omega) (fun h3 => by omega) ha ho
    · refine RampHeld.same ?_ (record_power ..)
      unfold State.enterLatched; dsimp only
      refine foldl_closed _ (fun u e hu => ?_) _ (setState_rampHeld d .latched 0 (by decide) (by decide) (fun _ => rfl) (by omega)
        (fun _ => rfl) ha ho)
      split
      · exact noteBlocked_rampHeld e hu
      · exact hu

theorem dropDescendant_rampHeld (d : DomId) : RampHeld (s.dropDescendant d) := by
  unfold State.dropDescendant
  split
  · next hs => split
               · exact enterQueued_rampHeld h d (by simp [hs])
               · exact off_rampHeld h d
  · next hs => split
               · exact enterQueued_rampHeld h d (by simp [hs])
               · exact off_rampHeld h d
  · exact off_rampHeld h d
  all_goals exact h

end Held

theorem pgLost_rampHeld {s : State} (h : RampHeld s) (d : DomId) (hs : (s.dom d).state.live = true) : RampHeld (s.pgLost d) := by
  unfold State.pgLost; dsimp only
  have hk : ∀ (l : List DomId) (u : State), RampHeld u → d ∉ l → (u.dom d).state ≠ .latched →
      RampHeld (l.foldl State.dropDescendant u) ∧ ((l.foldl State.dropDescendant u).dom d).state ≠ .latched := by
    intro l
    induction l with
    | nil => intro u hu _ hl; exact ⟨hu, hl⟩
    | cons e l ih =>
      intro u hu hm hl
      rw [List.mem_cons, not_or] at hm
      refine ih _ (dropDescendant_rampHeld hu e) hm.2 ?_
      have : (u.dropDescendant e).dom d = u.dom d ∨ (u.dropDescendant e).dom d = { u.dom d with depReported := true } := by
        have hq : ∀ v : State, v.dom d = u.dom d → (v.noteBlocked e).dom d = u.dom d := by
          intro v hv
          unfold State.noteBlocked; split
          · exact hv
          · show (v.updDom e (fun x => { x with depReported := true })).dom d = _
            rw [dom_updDom_ne _ _ _ _ hm.1, hv]
        have ho : (u.enterOff e).dom d = u.dom d := by rw [enterOff_dom, if_neg hm.1]
        have hn : (u.enterQueued e).dom d = u.dom d := by
          unfold State.enterQueued; dsimp only; split
          · exact hq _ (setState_dom_ne _ _ _ _ _ hm.1)
          · exact setState_dom_ne _ _ _ _ _ hm.1
        unfold State.dropDescendant
        (repeat' split) <;> first | exact .inl hn | exact .inl ho | exact .inl rfl
      rcases this with h' | h' <;> rw [h'] <;> exact hl
  have hb : d ∉ s.below d := by unfold State.below; simp
  have hl : (s.dom d).state ≠ .latched := by intro hx; rw [hx] at hs; cases hs
  obtain ⟨h1, h2⟩ := hk (s.below d) s h hb hl
  exact failed_rampHeld h1 d 1 h2

/-- Every settling, record, session, line, schedule and mode change keeps `RampHeld`. -/
theorem RampHeld.closed : Closed RampHeld where
  settle _ h := settle_rampHeld h
  record _ _ _ _ _ _ h := h.same (record_power ..)
  refreshSub _ h := h.same (refreshSub_power _)
  mdc _ _ h := h.same rfl
  line _ _ _ h := h.same rfl
  apq _ _ h := h.same rfl
  session _ _ _ _ h := h.same rfl
  suspended _ _ _ _ h := h.same rfl
  removed _ _ h := h.same rfl
  takeId _ h := h.same rfl
  created _ _ _ _ _ _ _ _ _ _ _ _ _ h := h.same rfl
  charged _ _ _ h := h.same rfl
  chm _ _ h := h.same rfl
  btm _ _ h := h.same rfl
  advance _ _ _ _ h := h.same (by unfold State.advance; dsimp only; split <;> rfl)
  setPending _ _ _ h := h.same rfl
  noSched _ h := h.same rfl
  clock _ _ _ h := h.same rfl
  resume _ _ h := h.same rfl
  forceCutoff _ h := forceCutoff_rampHeld h

/-! ### The end of an event -/

theorem mem_domIds : ∀ d : DomId, d ∈ domIds := by decide

theorem enqueueArrivals_rampSound {s : State} (h : RampHeld s) : RampSound s.enqueueArrivals := by
  have hr : s.enqueueArrivals.rmp =
      ⟨s.rmp.queue ++ domIds.filter (fun d => (s.dom d).state == .queued && !s.rmp.queue.contains d), s.rmp.slotA, s.rmp.slotB⟩ := rfl
  have hm := mem_domIds
  constructor
  · exact h.domains
  · intro d; rw [hr]; exact h.arbiter.slots d
  · intro d; rw [hr]; exact h.arbiter.apart d
  · intro d
    rw [hr]
    constructor
    · intro hd
      have hd' : (s.dom d).state = .queued := hd
      by_cases hq : d ∈ s.rmp.queue
      · exact List.mem_append_left _ hq
      · refine List.mem_append_right _ (List.mem_filter.2 ⟨hm d, ?_⟩)
        simp [hd', hq]
    · intro hd
      show (s.dom d).state = .queued
      rcases List.mem_append.1 hd with hd | hd
      · exact h.arbiter.queued d hd
      · have := (List.mem_filter.1 hd).2
        simp at this; exact this.1
  · rw [hr]
    refine List.Nodup.append h.arbiter.once ((by decide : domIds.Nodup).filter _) ?_
    intro d h1 h2
    have := (List.mem_filter.1 h2).2
    simp at this; exact this.2 h1

theorem grant_rampSound {s : State} (h : RampSound s) (d : DomId) (hd : (s.dom d).state = .queued) (hf : s.slotFree = true) :
    RampSound (s.grant d) := by
  have hdom : ∀ e, (s.grant d).dom e = if e = d then { s.dom d with state := .ramping, en := true, timer := (s.dom d).entry.rampTimeout }
      else s.dom e := by
    intro e
    have : (s.grant d).dom e = (s.setState d .ramping (s.dom d).entry.rampTimeout).dom e := by
      unfold State.grant; dsimp only; split <;> rfl
    rw [this, setState_dom]; rfl
  have hnr : (s.dom d).state ≠ .ramping := by rw [hd]; decide
  have hq : (s.grant d).rmp.queue = s.rmp.queue.filter (· != d) := by
    unfold State.grant; dsimp only
    split <;> simp [setState_rmp, hd]
  have hslots : ((s.grant d).rmp.slotA = some d ∧ (s.grant d).rmp.slotB = s.rmp.slotB ∧ s.rmp.slotA = none) ∨
      ((s.grant d).rmp.slotB = some d ∧ (s.grant d).rmp.slotA = s.rmp.slotA ∧ s.rmp.slotB = none) := by
    unfold State.slotFree at hf
    unfold State.grant; dsimp only
    rw [setState_rmp]
    simp only [hd, show ¬ DomState.queued = .ramping by decide, false_and, if_false]
    by_cases ha : s.rmp.slotA = none
    · left; simp [ha]
    · right; simp [ha] at hf; simp [ha, hf]
  have hnot : s.rmp.slotA ≠ some d ∧ s.rmp.slotB ≠ some d := by
    have := fun hx => hnr ((h.slots d).2 hx)
    exact ⟨fun hx => this (.inl hx), fun hx => this (.inr hx)⟩
  constructor
  · intro e
    rw [hdom]; split
    · obtain ⟨a, b, c, f, g⟩ := h.domains d
      exact ⟨rfl, (fun hx => by cases hx), c, (fun h3 => absurd (f h3) (by rw [hd]; decide)), (fun hx => by cases hx)⟩
    · exact h.domains e
  · intro e
    rw [hdom]
    by_cases he : e = d
    · subst he
      rw [if_pos rfl]
      rcases hslots with ⟨h1, h2, h3⟩ | ⟨h1, h2, h3⟩ <;> simp [h1]
    · rw [if_neg he, h.slots e]
      have he' : ¬ d = e := fun hx => he hx.symm
      rcases hslots with ⟨h1, h2, h3⟩ | ⟨h1, h2, h3⟩ <;> simp [h1, h2, h3, he']
  · intro e ha hb
    rcases hslots with ⟨h1, h2, h3⟩ | ⟨h1, h2, h3⟩
    · rw [h1] at ha; rw [h2] at hb; cases ha; exact hnot.2 hb
    · rw [h1] at hb; rw [h2] at ha; cases hb; exact hnot.1 ha
  · intro e
    rw [hdom, hq]
    by_cases he : e = d
    · subst he; simp
    · rw [if_neg he, h.queued e]; simp [he]
  · rw [hq]; exact h.once.filter _

theorem mem_insertByPriority {p : DomId → Nat} {d x : DomId} {l : List DomId} (h : x ∈ insertByPriority p d l) : x = d ∨ x ∈ l := by
  induction l with
  | nil => simpa [insertByPriority] using h
  | cons e l ih =>
    unfold insertByPriority at h
    split at h
    · simpa using h
    · rcases List.mem_cons.1 h with h | h
      · exact .inr (by simp [h])
      · rcases ih h with h | h
        · exact .inl h
        · exact .inr (by simp [h])

theorem mem_queueOrder {s : State} {d : DomId} (h : d ∈ s.queueOrder) : d ∈ s.rmp.queue := by
  have key : ∀ (l q : List DomId), d ∈ l.foldl (fun q d => insertByPriority (fun e => (s.dom e).entry.rampPriority) d q) q →
      d ∈ l ∨ d ∈ q := by
    intro l
    induction l with
    | nil => intro q h; exact .inr h
    | cons e l ih =>
      intro q h
      rcases ih _ h with h | h
      · exact .inl (by simp [h])
      · rcases mem_insertByPriority h with h | h
        · exact .inl (by simp [h])
        · exact .inr h
  rcases key _ _ h with h | h
  · exact h
  · cases h

theorem grantAndRamp_rampSound {s : State} (h : RampSound s) (d : DomId) (hd : (s.dom d).state = .queued) (hf : s.slotFree = true) :
    RampSound (s.grantAndRamp d) := by
  have hg := grant_rampSound h d hd hf
  unfold State.grantAndRamp; dsimp only; split
  · refine enqueueArrivals_rampSound (RampHeld.closed.demandChanged (rampDone_rampHeld hg.held d ?_))
    have : ((s.grant d).dom d) = (s.setState d .ramping (s.dom d).entry.rampTimeout).dom d := by
      unfold State.grant; dsimp only; split <;> rfl
    rw [this, setState_dom_self]
  · exact hg

theorem grants_rampSound (n : Nat) {s : State} (h : RampSound s) : RampSound (State.grants n s) := by
  induction n generalizing s with
  | zero => exact h
  | succ n ih =>
    unfold State.grants
    split
    · next hf =>
      split
      · next d hd =>
        refine ih (grantAndRamp_rampSound h d ?_ hf)
        exact (h.queued d).2 (mem_queueOrder (List.mem_of_find?_eq_some hd))
      · exact h
    · exact h

theorem refreshOwners_dom (s : State) (d : DomId) : s.refreshOwners.dom d = { s.dom d with owner := s.ownerOf d } := by
  unfold State.refreshOwners
  have key : ∀ (l : List DomId) (u : State), (l.foldl (fun t d => t.updDom d (fun x => { x with owner := s.ownerOf d })) u).dom d =
      if d ∈ l then { u.dom d with owner := s.ownerOf d } else u.dom d := by
    intro l
    induction l with
    | nil => intro u; rfl
    | cons e l ih =>
      intro u
      rw [List.foldl_cons, ih, dom_updDom]
      by_cases he : d = e
      · subst he; simp
      · simp [he]
  rw [key, if_pos (mem_domIds d)]

theorem refreshOwners_rmp (s : State) : s.refreshOwners.rmp = s.rmp := by
  unfold State.refreshOwners
  exact foldl_keeps State.rmp (fun t d => t.updDom d (fun x => { x with owner := s.ownerOf d })) (fun u d => rfl) _ s

/-- The end of an event gives every QUEUED domain its place in the Ramp Queue, and keeps the rest. -/
theorem finish_rampSound {s : State} (h : RampHeld s) : RampSound s.finish := by
  unfold State.finish
  have h1 := grants_rampSound 12 (enqueueArrivals_rampSound (RampHeld.closed.settle _ (RampHeld.closed.resumeNow h)))
  generalize State.grants 12 s.resumeNow.settle.enqueueArrivals = u at h1
  have h2 : RampSound u.recordBlocked.refreshSessions := h1.same (by simp)
  generalize u.recordBlocked.refreshSessions = v at h2
  have h3 : RampSound v.refreshOwners := by
    refine (h2.held.congr (refreshOwners_rmp v) (fun d => ?_)).sound (fun d hd => ?_)
    · rw [refreshOwners_dom]; exact ⟨rfl, rfl, Nat.le_refl _, rfl⟩
    · rw [refreshOwners_dom] at hd; rw [refreshOwners_rmp]; exact (h2.queued d).1 hd
  exact h3.same (by simp)

end Sys2Proof.Machine
end

