-- ==== Sys2Proof/Laws/Rest.lean ====
section
/-! SUPPORT. What the end of an event leaves: `finish_frame` (the whole frame, when no resumption waits), `finish_records` (the records
made before it, under KEEP_OLDEST), and `finish_rest` (a domain at rest keeps its state, timer and attempt count). -/

namespace Sys2Proof.Machine

/-! ### The frame -/

theorem resumeNow_none {s : State} (h : s.work.resume = none) : s.resumeNow = s := by unfold State.resumeNow; rw [h]

theorem Domestic.sameApproach (x : Apq) : Domestic (fun t => t.apq = x) where
  setState := setState_keeps (fun _ _ _ h => h) (fun _ _ h => h) (fun _ h => h) (fun _ h => h)
  dom _ _ _ _ h := h
  rmp _ _ h := h
  d0Held _ _ h := h
  work _ _ h := h
  record s k a b v _ h := by
    refine Eq.trans ?_ h
    unfold State.record State.noteAppend; dsimp only; (repeat' split) <;> rfl
  sub _ _ h := h
  chm _ _ h := h

theorem Domestic.sameTable (x : List Session × Nat) : Domestic (fun t => t.table = x) where
  setState := setState_keeps (fun _ _ _ h => h) (fun _ _ h => h) (fun _ h => h) (fun _ h => h)
  dom _ _ _ _ h := h
  rmp _ _ h := h
  d0Held _ _ h := h
  work _ _ h := h
  record s k a b v _ h := by unfold State.table at *; rw [record_ssc]; exact h
  sub _ _ h := h
  chm _ _ h := h

/-- R105 takes no session into or out of SUSPENDED. -/
theorem stateOf_active (s : State) (x : Session) : (({ x with state := s.stateOf x } : Session)).active = x.active := by
  unfold State.stateOf Session.active
  by_cases hx : x.state = .suspended
  · simp [hx]
  · have hb : (x.state != .suspended) = true := by simpa using hx
    rw [if_pos hb, hb]; split <;> rfl

theorem refreshSessions_table (s : State) : s.refreshSessions.table = s.table := by
  unfold State.table State.refreshSessions
  simp only [List.map_map, Prod.mk.injEq, and_true]
  refine List.map_congr_left (fun x _ => ?_)
  simp only [Function.comp, stateOf_active]

theorem refreshAttn_ssc (s : State) : s.refreshAttn.ssc = s.ssc ∧ s.refreshAttn.apq = s.apq := by
  unfold State.refreshAttn State.startPulse; dsimp only; (repeat' split) <;> exact ⟨rfl, rfl⟩

/-- The end of an event changes nothing of the frame when no resumption waits. -/
theorem finish_frame {s : State} (h : s.work.resume = none) : s.finish.frame = s.frame := by
  unfold State.frame
  rw [finish_deep]
  have h1 : s.finish.table = s.table := (Domestic.sameTable s.table).finish (by rw [resumeNow_none h])
    (fun t ht => (refreshSessions_table t).trans ht) (fun t ht => by unfold State.table at *; rw [(refreshAttn_ssc t).1]; exact ht)
  have h2 : s.finish.apq = s.apq := (Domestic.sameApproach s.apq).finish (by rw [resumeNow_none h])
    (fun _ h => h) (fun t ht => (refreshAttn_ssc t).2.trans ht)
  rw [h1, h2]

/-! ### The records -/

/-- The records l stand first in the queue, and the policy keeps them. -/
def Keeps (l : List Event) (s : State) : Prop := l <+: s.evq.events ∧ s.evq.policy = .keepOldest

theorem record_keeps {l : List Event} {s : State} (k : RecordKind) (a b : Nat) (v : Option Nat) (h : Keeps l s) : Keeps l (s.record k a b v) := by
  have hn : s.noteAppend.evq = s.evq := by unfold State.noteAppend; split <;> rfl
  unfold State.record; dsimp only
  split
  · exact ⟨by show l <+: s.noteAppend.evq.events ++ _; rw [hn]; exact h.1.trans (List.prefix_append _ _), by show s.noteAppend.evq.policy = _; rw [hn]; exact h.2⟩
  · split
    · exact h
    · next e => rw [h.2] at e; cases e

theorem Domestic.records (l : List Event) : Domestic (Keeps l) where
  setState := setState_keeps (fun _ _ _ h => h) (fun _ _ h => h) (fun _ h => h) (fun _ h => h)
  dom _ _ _ _ h := h
  rmp _ _ h := h
  d0Held _ _ h := h
  work _ _ h := h
  record _ k a b v _ h := record_keeps k a b v h
  sub _ _ h := h
  chm _ _ h := h

theorem Closed.records (l : List Event) : Closed (Keeps l) where
  settle _ h := (Domestic.records l).settle h
  record _ k a b v _ h := record_keeps k a b v h
  refreshSub _ h := (Domestic.records l).refreshSub h
  mdc _ _ h := h
  line _ _ _ h := h
  apq _ _ h := h
  session _ _ _ _ h := h
  suspended _ _ _ _ h := h
  removed _ _ h := h
  takeId _ h := h
  created _ _ _ _ _ _ _ _ _ _ _ _ _ h := h
  charged _ _ _ h := h
  chm _ _ h := h
  btm _ _ h := h
  advance s e d _ h := by unfold State.advance; dsimp only; split <;> exact h
  setPending _ _ _ h := h
  noSched _ h := h
  clock _ _ _ h := h
  resume _ _ h := h
  forceCutoff _ h := (Domestic.records l).forceCutoff h

theorem refreshAttn_keeps {l : List Event} {s : State} (h : Keeps l s) : Keeps l s.refreshAttn := by
  have : s.refreshAttn.evq.events = s.evq.events ∧ s.refreshAttn.evq.policy = s.evq.policy := by
    unfold State.refreshAttn State.startPulse; dsimp only; (repeat' split) <;> exact ⟨rfl, rfl⟩
  exact ⟨this.1 ▸ h.1, this.2.trans h.2⟩

/-- Under KEEP_OLDEST the records made before an event's end stay first in the queue. -/
theorem finish_records {l : List Event} {s : State} (h : Keeps l s) : Keeps l s.finish :=
  (Domestic.records l).finish ((Closed.records l).resumeNow h) (fun _ h => h) (fun _ h => refreshAttn_keeps h)

/-! ### A domain at rest -/

/-- Outside CUTOFF the domain stands as its demand wants it, and no change of the other domains can move it: a direct holder counts, and
it is ON, RAMPING, QUEUED or failed; or it is a leaf without a holder, and it is OFF, in HOLDOFF or LATCHED. -/
structure Resting (d : DomId) (s : State) : Prop where
  mode : s.mdc.mode ≠ .cutoff
  state : (s.directHolders d ≠ 0 ∧ ((s.dom d).state = .on ∨ (s.dom d).state = .faultWait ∨ (s.dom d).state = .latched ∨
      (s.dom d).state = .ramping ∨ (s.dom d).state = .queued)) ∨
    (s.directHolders d = 0 ∧ (∀ e, (s.dom e).entry.parent ≠ some d) ∧
      ((s.dom d).state = .off ∨ (s.dom d).state = .holdoff ∨ (s.dom d).state = .latched))

/-- What direct holders are counted from. -/
theorem directHolders_congr {s t : State} (hm : t.mdc.driveHold = s.mdc.driveHold ∧ t.mdc.handoverHold = s.mdc.handoverHold ∧
    t.mdc.alwaysHold = s.mdc.alwaysHold) (he : ∀ d, (t.dom d).entry = (s.dom d).entry) (hs : t.ssc.sessions = s.ssc.sessions) (d : DomId) :
    t.directHolders d = s.directHolders d := by
  obtain ⟨h1, h2, h3⟩ := hm
  unfold State.directHolders State.holdSets State.sessionSets State.driveSet State.handoverSet State.alwaysSet State.enabledOf
  simp only [h1, h2, h3, he, hs]

theorem childless {s : State} {d : DomId} (h : ∀ e, (s.dom e).entry.parent ≠ some d) : s.childrenUp d = 0 := by
  unfold State.childrenUp
  rw [List.countP_eq_zero]
  intro e _ hx
  simp only [Bool.and_eq_true, beq_iff_eq] at hx
  exact h e hx.1

/-- Outside CUTOFF a domain's transition touches no other domain. -/
theorem transitionOf_dom_ne {s : State} {d e : DomId} (hm : s.mdc.mode ≠ .cutoff) (h : d ≠ e) : (s.transitionOf e).dom d = s.dom d := by
  have off : ∀ u : State, (u.enterOff e).dom d = u.dom d := fun u => by rw [enterOff_dom, if_neg h]
  have set : ∀ (u : State) n t, (u.setState e n t).dom d = u.dom d := fun u n t => setState_dom_ne u e d n t h
  have pow : ∀ (u : State) c, (u.powerOff e c).dom d = u.dom d := fun u c => by
    unfold State.powerOff; split
    · next hc =>
      have : e = 0 := by simp only [Bool.and_eq_true, decide_eq_true_eq] at hc; exact hc.1
      show (u.updDom 0 (fun x => { x with timer := 0 })).dom d = _
      rw [dom_updDom, if_neg (this ▸ h)]
    · exact off u
  have que : ∀ u : State, (u.enterQueued e).dom d = u.dom d := fun u => by
    unfold State.enterQueued; dsimp only
    split
    · unfold State.noteBlocked; split
      · exact set u _ _
      · show ((u.setState e .queued 0).updDom e (fun x => { x with depReported := true })).dom d = _
        rw [dom_updDom, if_neg h]; exact set u _ _
    · exact set u _ _
  have tr : ∀ u : State, u.mdc.mode ≠ .cutoff → (u.transition e).dom d = u.dom d := fun u hu => by
    have hn : u.unwantedInCutoff e = false := by unfold State.unwantedInCutoff; simp [hu]
    unfold State.transition
    rw [hn]
    simp only [Bool.false_and, Bool.false_eq_true, if_false]
    (repeat' split) <;> first | rfl | exact que u | exact off u | exact pow u _ | exact set u _ _
  unfold State.transitionOf
  split
  · split
    · rfl
    · exact tr { s with dmc.d0Held := none } hm
  · exact tr s hm

/-- A domain at rest has no transition to make. -/
theorem transitionOf_rest {s : State} {d : DomId} (h : Resting d s) : (s.transitionOf d).dom d = s.dom d := by
  have tr : ∀ u : State, Resting d u → u.transition d = u := fun u hu => by
    have hn : u.unwantedInCutoff d = false := by unfold State.unwantedInCutoff; simp [hu.mode]
    have hm := hu.mode
    unfold State.transition
    rw [hn]
    simp only [Bool.false_and, Bool.false_eq_true, if_false]
    rcases hu.state with ⟨h1, h2⟩ | ⟨h1, h2, h3⟩
    · have : u.demand d ≠ 0 := by unfold State.demand; omega
      rcases h2 with e | e | e | e | e <;> simp [e, this]
    · have : u.demand d = 0 := by unfold State.demand; rw [h1, childless h2]
      rcases h3 with e | e | e <;> simp [e, this]
  unfold State.transitionOf
  split
  · split
    · rfl
    · rw [tr { s with dmc.d0Held := none } ⟨h.mode, h.state⟩]; rfl
  · rw [tr s h]

theorem Resting.congr {d : DomId} {s t : State} (h : Resting d s) (hb : t.base = s.base) (hs : t.ssc.sessions = s.ssc.sessions)
    (hd : (t.dom d).state = (s.dom d).state) : Resting d t := by
  have he : ∀ e, (t.dom e).entry = (s.dom e).entry := fun e => base_entry hb e
  have hh := directHolders_congr ⟨base_driveHold hb, base_handoverHold hb, base_alwaysHold hb⟩ he hs d
  refine ⟨base_mode hb ▸ h.mode, ?_⟩
  rw [hh, hd]; simp only [he]; exact h.state

/-- Settling leaves a domain at rest as it is. -/
theorem settle_rest {s : State} {d : DomId} (h : Resting d s) : s.settle.dom d = s.dom d ∧ Resting d s.settle := by
  have key : ∀ (l : List DomId) (u : State), Resting d u → (l.foldl State.transitionOf u).dom d = u.dom d ∧ Resting d (l.foldl State.transitionOf u) := by
    intro l; induction l with
    | nil => exact fun u hu => ⟨rfl, hu⟩
    | cons e l ih =>
      intro u hu
      have h1 : (u.transitionOf e).dom d = u.dom d := by
        by_cases he : d = e
        · subst he; exact transitionOf_rest hu
        · exact transitionOf_dom_ne hu.mode he
      have hb : (u.transitionOf e).base = u.base := deep_base (transitionOf_deep u e)
      have hs : (u.transitionOf e).ssc = u.ssc := (Domestic.sameSessions u.ssc).transitionOf e rfl
      have h2 := hu.congr hb (by rw [hs]) (by rw [h1])
      obtain ⟨a, b⟩ := ih _ h2
      exact ⟨a.trans h1, b⟩
  exact key _ _ h

theorem rampDone_dom_ne {s : State} {d e : DomId} (h : d ≠ e) : (s.rampDone e).dom d = s.dom d := by
  unfold State.rampDone
  split
  · exact setState_dom_ne s e d _ _ h
  · split
    · rw [enterOff_dom, if_neg h]
    · exact setState_dom_ne s e d _ _ h

theorem grant_dom_ne {s : State} {d e : DomId} (h : d ≠ e) : (s.grant e).dom d = s.dom d := by
  have : ∀ u : State, (if u.rmp.slotA.isNone then { u with rmp.slotA := some e } else { u with rmp.slotB := some e }).dom d = u.dom d := by
    intro u; split <;> rfl
  unfold State.grant; dsimp only
  rw [this]; exact setState_dom_ne s e d _ _ h

theorem refreshSub_dom (s : State) (d : DomId) : s.refreshSub.dom d = s.dom d := power_dom (refreshSub_power s) d

@[simp] theorem enqueueArrivals_dom (s : State) (d : DomId) : s.enqueueArrivals.dom d = s.dom d := rfl
@[simp] theorem endEvent_dom (s : State) (d : DomId) : s.endEvent.dom d = s.dom d := rfl
@[simp] theorem refreshSessions_dom (s : State) (d : DomId) : s.refreshSessions.dom d = s.dom d := rfl
theorem enqueueArrivals_rest {s : State} {d : DomId} (h : Resting d s) : Resting d s.enqueueArrivals := ⟨h.mode, h.state⟩
theorem demandChanged_dom (s : State) (d : DomId) : s.demandChanged.dom d = s.settle.dom d := refreshSub_dom _ d

/-- Grants leave a domain at rest that is not in the queue as it is. -/
theorem grants_rest (n : Nat) {s : State} {d : DomId} (hr : RampSound s) (h : Resting d s) (hq : (s.dom d).state ≠ .queued) :
    (State.grants n s).dom d = s.dom d ∧ Resting d (State.grants n s) := by
  induction n generalizing s with
  | zero => exact ⟨rfl, h⟩
  | succ n ih =>
    unfold State.grants
    split
    · next hf =>
      split
      · next e he =>
        have hst : (s.dom e).state = .queued := (hr.queued e).2 (mem_queueOrder (List.mem_of_find?_eq_some he))
        have hne : d ≠ e := fun x => hq (x ▸ hst)
        have hb : (s.grantAndRamp e).base = s.base := deep_base (grantAndRamp_deep s e)
        have hs : (s.grantAndRamp e).ssc = s.ssc := (Domestic.sameSessions s.ssc).grantAndRamp e rfl
        have hd : (s.grantAndRamp e).dom d = s.dom d := by
          unfold State.grantAndRamp; dsimp only
          split
          · have h1 : ((s.grant e).rampDone e).dom d = s.dom d := (rampDone_dom_ne hne).trans (grant_dom_ne hne)
            have hb1 : ((s.grant e).rampDone e).base = s.base :=
              (deep_base (rampDone_deep _ e)).trans (deep_base (grant_deep s e))
            have hs1 : ((s.grant e).rampDone e).ssc = s.ssc :=
              (Domestic.sameSessions s.ssc).rampDone e ((Domestic.sameSessions s.ssc).grant e rfl)
            have h2 : Resting d ((s.grant e).rampDone e) := h.congr hb1 (by rw [hs1]) (by rw [h1])
            rw [enqueueArrivals_dom, demandChanged_dom, (settle_rest h2).1, h1]
          · exact grant_dom_ne hne
        obtain ⟨a, b⟩ := ih (grantAndRamp_rampSound hr e hst hf) (h.congr hb (by rw [hs]) (by rw [hd])) (by rw [hd]; exact hq)
        exact ⟨a.trans hd, b⟩
      · exact ⟨rfl, h⟩
    · exact ⟨rfl, h⟩

/-- The end of an event leaves a domain at rest that is not QUEUED as it is, but for its owner, when no resumption waits. -/
theorem finish_rest {s : State} {d : DomId} (hw : s.work.resume = none) (hr : RampHeld s) (h : Resting d s)
    (hq : (s.dom d).state ≠ .queued) : s.finish.dom d = { s.dom d with owner := (s.finish.dom d).owner } ∧ Resting d s.finish := by
  obtain ⟨h1, h2⟩ := settle_rest h
  have hr1 := enqueueArrivals_rampSound (settle_rampHeld hr)
  have h3 := enqueueArrivals_rest h2
  obtain ⟨h4, h5⟩ := grants_rest 12 hr1 h3 (by rw [enqueueArrivals_dom, h1]; exact hq)
  have h6 : (State.grants 12 s.settle.enqueueArrivals).dom d = s.dom d := by rw [h4, enqueueArrivals_dom, h1]
  generalize hu : State.grants 12 s.settle.enqueueArrivals = u at *
  have hf : s.finish = (u.recordBlocked.refreshSessions.refreshOwners.refreshSub.refreshAttn).endEvent := by
    unfold State.finish; rw [resumeNow_none hw, hu]
  have h7 : s.finish.dom d = { s.dom d with owner := u.recordBlocked.refreshSessions.ownerOf d } := by
    rw [hf]
    rw [endEvent_dom, power_dom (refreshAttn_power _), refreshSub_dom, refreshOwners_dom]
    have : u.recordBlocked.refreshSessions.dom d = s.dom d := by
      rw [refreshSessions_dom, power_dom (recordBlocked_power u), h6]
    rw [this]
  refine ⟨by rw [h7], ?_⟩
  have hb : s.finish.base = s.base := deep_base (finish_deep s)
  have hst : (s.finish.dom d).state = (s.dom d).state := by rw [h7]
  have he : ∀ e, (s.finish.dom e).entry = (s.dom e).entry := fun e => base_entry hb e
  have ht : s.finish.table = s.table := congrArg (fun p => p.2.1) (finish_frame hw)
  have hsets : s.finish.sessionSets = s.sessionSets := by
    have hl : s.finish.ssc.sessions.map (fun x => (x.active, x.set)) = s.ssc.sessions.map (fun x => (x.active, x.set)) := by
      have := congrArg (fun p => p.1.map (fun x : Session => (x.active, x.set))) ht
      simp only [State.table, List.map_map] at this
      have ha : ∀ x : Session, (({ x with state := if x.active then .starting else .suspended } : Session)).active = x.active := by
        intro x; unfold Session.active; cases x.state <;> rfl
      have hf : ((fun x : Session => (x.active, x.set)) ∘ fun x : Session => { x with state := if x.active then .starting else .suspended }) =
          fun x : Session => (x.active, x.set) := by funext x; simp only [Function.comp, ha]
      rw [hf] at this; exact this
    have key : ∀ (w v : State) (l k : List Session), (∀ e, (w.dom e).entry = (v.dom e).entry) →
        l.map (fun x => (x.active, x.set)) = k.map (fun x => (x.active, x.set)) →
        (l.filter Session.active).map (fun x => w.enabledOf x.set) = (k.filter Session.active).map (fun x => v.enabledOf x.set) := by
      intro w v l k hwv
      have hen : ∀ S, w.enabledOf S = v.enabledOf S := fun S => by unfold State.enabledOf; simp only [hwv]
      induction l generalizing k with
      | nil => intro hl; cases k with
        | nil => rfl
        | cons y k => cases hl
      | cons x l ih => intro hl; cases k with
        | nil => cases hl
        | cons y k =>
          simp only [List.map_cons, List.cons.injEq, Prod.mk.injEq] at hl
          simp only [List.filter_cons, hl.1.1]
          split
          · simp only [List.map_cons, hl.1.2, hen, List.cons.injEq, true_and]
            have := ih k hl.2; simp only [hen] at this; exact this
          · have := ih k hl.2; exact this
    exact key _ _ _ _ he hl
  have hd : s.finish.directHolders d = s.directHolders d := by
    unfold State.directHolders State.holdSets State.driveSet State.handoverSet State.alwaysSet
    rw [hsets, base_driveHold hb, base_handoverHold hb, base_alwaysHold hb]
    simp only [he]
  refine ⟨by rw [base_mode hb]; exact h.mode, ?_⟩
  have hstate := h.state
  generalize s.finish = w at hd hst he ⊢
  rw [hd, hst]; simp only [he]; exact hstate

end Sys2Proof.Machine
end

