-- ==== Sys2Proof/Tests/Slice0.lean ====
section
/-! SUPPORT. The author's tests: the checks on terms, the manual's worked figures (the section is named at each), and for every statement
with hypotheses a state and operands that meet them. Expected values are the manual's, or computed by hand from its rules. -/

namespace Sys2Proof.Tests

set_option maxRecDepth 20000

open Sys2Proof Sys2Proof.Machine Host

/-! ### Terms -/

/-- R174: a frame's payload has at most 48 bytes. -/
theorem test_payload_of_48_is_well_formed : (Instr.statusGet (List.replicate 48 0)).wellFormed = true := by decide
theorem test_payload_of_49_is_refused : (Instr.statusGet (List.replicate 49 0)).wellFormed = false := by decide
/-- Section 12.8: 0x01 is in the catalogue and 0x03 is not. -/
theorem test_unknown_type_of_the_catalogue_is_refused : (Instr.unknownTypeFrame 0x01 []).wellFormed = false := by decide
theorem test_unknown_type_is_well_formed : (Instr.unknownTypeFrame 0x03 []).wellFormed = true := by decide
theorem test_unknown_type_with_49_bytes_is_refused : (Instr.unknownTypeFrame 0x03 (List.replicate 49 0)).wellFormed = false := by decide
/-- R102: session ids run from 1 to 255. -/
theorem test_session_id_0_is_refused : (Instr.sessionRunExpiry 0).wellFormed = false := by decide
theorem test_session_id_256_is_refused : (Instr.suspensionLimitExpiry 256).wellFormed = false := by decide
theorem test_session_id_255_is_well_formed : (Instr.sessionRunExpiry 255).wellFormed = true := by decide
/-- A frame of more than 48 bytes and an unknown TYPE of the catalogue are refused by name. -/
theorem test_ill_formed_terms_are_refused :
    exec (.statusGet (List.replicate 49 0)) State.reset = .refused .illFormed ∧
    exec (.unknownTypeFrame 0x01 []) State.reset = .refused .illFormed := ⟨rfl, rfl⟩
/-- No row of the opcode table has bits. -/
theorem test_no_word_spells_a_command : decodeTableWord 8 1 = none ∧ State.reset.withFetchWord 8 1 = State.reset := ⟨rfl, rfl⟩

/-! ### States of the tests -/

/-- Does the state answer next with this property? -/
def next (o : Outcome State Fault Refusal) (p : State → Bool) : Bool :=
  match o with
  | .next t => p t
  | _ => false

/-- HANDOVER with D0 ON and the link live. -/
def lit : State :=
  { State.reset.updDom 0 (fun x => { x with state := .on, timer := 0, pgPin := true }) with
    rmp := { queue := [], slotA := none, slotB := none }, lnk.receiver := .hunting, evq.attn := true }

/-- `lit` with a reply being sent, 2 ms of it left. -/
def busy : State := { lit with lnk.reply := some [], lnk.replyLeft := 2 }

/-- `lit` in another mode with its holds. -/
def litIn (m : Mode) : State :=
  { lit with mdc := { lit.mdc with mode := m, driveHold := m == .drive, handoverHold := m == .handover, alwaysHold := m != .cutoff,
                                   ign := { pin := m == .drive, debounced := m == .drive, interval := none } } }

/-- A domain entry of this parent and current, with hold-off 5 s. -/
def entryOf (parent : Option DomId) (current priority : Nat) : DomainEntry :=
  { DomainEntry.powerOnD0 with parent := parent, runCurrent := current, rampPriority := priority }

/-- The domains of sections 6.9, 7.8 and 8.7, all OFF but those of `on`. -/
def car (on : List DomId) : State :=
  let put := fun (s : State) (d : DomId) (p : Option DomId) (c : Nat) => s.updDom d (fun x =>
    { x with entry := entryOf p c 3, state := if on.contains d then .on else .off, en := on.contains d, timer := 0,
             owner := if on.contains d then (if d = 0 || d = 9 then .session 13 else .session 12) else .nobody })
  let s := put (put (put (put (put (put (put lit 0 none 1200) 1 none 900) 3 (some 1) 600) 4 (some 1) 600) 5 (some 3) 250) 6 none 2500)
    9 none 1500
  { s with mdc := (litIn .parked).mdc }

/-- C1 ACCESS of section 6.9. -/
def access : ClassEntry :=
  { ClassEntry.powerOn with enabled := true, priority := 6, minTier := .conserve, overhead := 2000, fullSet := 0b1111011, fullDuration := 90,
                            reduced := some { set := 0b0111010, amount := 45 }, maxDuration := 300, extensionLimit := 120 }

/-- A session of class C1 with this id, set and profile. -/
def sessionOf (id : Nat) (c : ClassId) (set : DomSet) (p : Profile) : Session :=
  { id := id, cls := c, origin := .line 2, profile := p, state := .running, set := set, admittedAt := 0, elapsed := 0, remaining := 45000,
    estimate := 107750, drawn := 0, drawnRem := 0, extUsed := 0, listenCurrent := none, listening := [], suspendedBy := none,
    suspendedFor := none }

/-! ### Reset and the idle device -/

/-- R14: with every input low the device leaves reset in the state after reset. -/
theorem test_leave_reset_gives_reset : next (exec .leaveReset State.reset.holdInReset) (· == State.reset) = true := by decide
/-- R14, R26: with IGN high it is in DRIVE, and a good PG of D0 takes D0 to ON at once. -/
theorem test_leave_reset_in_drive :
    next (exec .leaveReset { State.reset.holdInReset.updDom 0 (fun x => { x with pgPin := true }) with mdc.ign.pin := true })
      (fun t => t.mdc.mode == .drive && (t.dom 0).state == .on && t.evq.attn) = true := by decide
/-- With nothing due 1 ms passes: D0's ramp timer stands at 499 ms. -/
theorem test_idle_step_lets_time_pass : next (step State.reset) (fun t => (t.dom 0).timer == 499 && t.wsc.fraction == 1) = true := by decide

/-! ### The link (chapter 12) -/

/-- R174: the check register after LEN 0 and TYPE 0x01, and after the nine ASCII digits. -/
theorem test_check_byte : checkByte [0x00, 0x01] = 0x97 ∧
    checkByte [0x31, 0x32, 0x33, 0x34, 0x35, 0x36, 0x37, 0x38, 0x39] = 0x20 := by decide
/-- R174, R181: RESET_ARM heard byte by byte arms the device and is answered OK with TYPE 0xFE. -/
theorem test_reset_arm_is_heard : next (hears lit [0xC3, 0x00, 0x7E, 0x36])
    (fun t => t.lnk.armed && (t.lnk.reply.getD []).take 3 == [0xC3, 0x02, 0xFE]) = true := by decide
/-- Section 12.10: RESET_EXEC with a bad check disarms the device; the counter is 1; the reply carries 0xFF and FRAME_CRC. -/
theorem test_bad_check_disarms : next (hears { lit with lnk.armed := true } [0xC3, 0x00, 0x7F, 0x18])
    (fun t => !t.lnk.armed && t.lnk.frameErrors == 1 && (t.lnk.reply.getD []).take 5 == [0xC3, 0x02, 0xFF, 0x48, 0x50]) = true := by decide
/-- Section 12.10: the RESET_EXEC that follows is refused WRONG_MODE in a reply of type 0xFF. -/
theorem test_unarmed_exec_is_wrong_mode : next (exec (.resetExec []) lit)
    (fun t => (t.lnk.reply.getD []).take 5 == [0xC3, 0x02, 0xFF, 0x48, 0x13]) = true := by decide
/-- R184: the status of the device in HANDOVER: 34 bytes, the mode 1, one record waiting, D0 ON. -/
theorem test_status : lit.statusPayload = [1, 0, 0, 0, 0, 0, 0, 0, 0, 0, 0, 0, 0, 0, 0, 0, 1, 0, 0, 0, 0, 0, 3, 0, 0, 0, 0, 0, 0, 0, 0, 0, 0, 0] := by
  decide

/-! ### Modes, domains and ramps (chapters 1 to 3) -/

/-- Section 3.6: the drive-set members and their priorities, all OFF. -/
def plant : State :=
  let put := fun (s : State) (d : DomId) (p : Option DomId) (pr : Nat) => s.updDom d (fun x =>
    { x with entry := { entryOf p 0 pr with driveSet := true }, state := .off, en := false, timer := 0, pgPin := false, owner := .nobody })
  { put (put (put (put (put lit 0 none 3) 1 (some 0) 3) 2 (some 0) 1) 4 (some 1) 2) 7 none 2 with
    lnk.receiver := .dead, evq.attn := false,
    mdc := { (litIn .parked).mdc with ign := { pin := true, debounced := false, interval := some 0 } } }

/-- Section 3.6: at DRIVE entry D0 and D7 take the slots and the queue stands D1, D4, D2. -/
theorem test_drive_entry_grants : next (exec .ignDebounceEnd plant)
    (fun t => t.rmp.slotA == some 0 && t.rmp.slotB == some 7 && t.queueOrder == [1, 4, 2]) = true := by decide
/-- R24: CUTOFF with IGN rising, D3 in FAULT_WAIT for a session, its child D4 OFF, whose child D5 is LATCHED. -/
def leavingCutoff : State :=
  let put := fun (s : State) (d : DomId) (p : Option DomId) (st : DomState) (a : Nat) =>
    s.updDom d (fun x => { x with entry := entryOf p 0 3, state := st, attempts := a })
  { put (put (put lit 3 none .faultWait 1) 4 (some 3) .off 0) 5 (some 4) .latched 3 with
    ssc.sessions := [sessionOf 12 1 0b1000 .full], btm.tier := .cutoff,
    mdc := { (litIn .cutoff).mdc with ign := { pin := true, debounced := false, interval := some 0 } } }
/-- R4, R24: the session's closing takes D3 to OFF, its attempt count to 0; D4 and with it D3 are queued once the holds are placed. -/
theorem test_leaving_cutoff_queues_after_the_holds : next (exec .ignDebounceEnd leavingCutoff)
    (fun t => (t.dom 3).attempts == 0 && (t.dom 3).state == .ramping && (t.dom 4).state == .queued && t.mdc.mode == .drive) = true := by decide
/-- Section 3.6: PG0 good takes D0 to ON and gives D1 the freed slot. -/
theorem test_first_ramp_frees_a_slot : next (exec .ignDebounceEnd plant) (fun t =>
    next (exec (.rampComplete 0) (t.updDom 0 (fun x => { x with pgPin := true })))
      (fun u => (u.dom 0).state == .on && u.rmp.slotA == some 1 && u.queueOrder == [4, 2])) = true := by decide
/-- Section 1.11: PARK with 150 mAh in HANDOVER: 540,000 mAs, the timer stopped, D0 in HOLDOFF for 5 s, ATTEND. -/
theorem test_park : next (exec (.park [0, 150]) { lit with mdc.handoverTimer := some 80000 })
    (fun t => t.mdc.mode == .parked && t.chm.reserve == 540000 && t.mdc.handoverTimer == none && (t.dom 0).state == .holdoff &&
      (t.dom 0).timer == 5000 && t.mdc.sub == some .attend) = true := by decide

/-! ### Admission, sessions, metering (chapters 6 to 8) -/

/-- Section 6.9: the costs, the headroom and the profile that fits. -/
theorem test_access_costs :
    let s := { car [] with chm.reserve := 540000, chm.floorMah := 100 }
    s.profileCost access .full = 546500 ∧ s.profileCost access .reduced = 107750 ∧ s.headroom [] = 180000 ∧
      s.firstFit access .full 180000 = some .reduced ∧ tenths16 107750 = 299 := by decide
/-- Section 6.9: D4 LATCHED leaves the cost 80,750 mAs. -/
theorem test_latched_domain_costs_nothing :
    (State.updDom (car []) 4 (fun x => { x with state := .latched })).profileCost access .reduced = 80750 := by decide
/-- Section 7.8: the widening costs 485,750 mAs, the lengthening adds 20 s for 47,000 mAs. -/
theorem test_access_grows :
    let s := car [1, 3, 4, 5]
    let x := { sessionOf 12 1 0b0111010 .reduced with elapsed := 20000, remaining := 25000, drawn := 40000 }
    s.widenCost access x = 485750 ∧ addedTime access x (lengthenMs access x) = 20000 ∧ s.sumCurrent x.set * 20 = 47000 := by decide
/-- Section 7.8: 200 s asked for, 120 s granted. -/
theorem test_extension_grant :
    grantedSeconds access { sessionOf 12 1 0b0111010 .reduced with elapsed := 30000, remaining := 35000 } 200 = 120 := by decide
/-- Section 8.7: the shares of 4,047 mA. -/
theorem test_shares :
    let s := car [0, 1, 3, 4, 5, 9]
    s.weight = 5050 ∧ [0, 1, 3, 4, 5, 9].map (s.share 4047) = [961, 721, 480, 480, 200, 1205] ∧
      s.sessionSum 4047 12 = 1881 ∧ s.sessionSum 4047 13 = 2166 := by decide
/-- Section 8.7: session 12 gains 471 mAs and keeps 150; the reserve falls by 1,027 mAs and keeps 150. -/
theorem test_sample_accounts :
    ({ sessionOf 12 1 0 .reduced with drawnRem := 900 }.charge 1881 250).drawn = 471 ∧
    ({ sessionOf 12 1 0 .reduced with drawnRem := 900 }.charge 1881 250).drawnRem = 150 ∧
    (({ lit with chm.reserve := 420000, chm.reserveRem := 400 }).decrement 4107 250).chm.reserve = 418973 ∧
    (({ lit with chm.reserve := 420000, chm.reserveRem := 400 }).decrement 4107 250).chm.reserveRem = 150 ∧
    tenths 418973 = 1164 := by decide

/-! ### Tiers, schedule (chapters 9 and 10) -/

/-- Section 9.5, reading 12: the eighth reading in a row below 12,000 mV steps to CONSERVE; 12,005 mV breaks the run. -/
theorem test_tier_steps_down :
    let b := { Btm.powerOn with fall := 7 }
    (b.counted 11955).step = some .conserve ∧ (b.counted 12005).step = none ∧ (b.counted 12005).fall = 0 := by decide
/-- Section 9.5: in CUTOFF 11,300 mV counts towards the rise and 11,290 mV breaks it. -/
theorem test_tier_steps_up :
    let b := { Btm.powerOn with tier := .cutoff, rise := 39 }
    (b.counted 11300).step = some .critical ∧ (b.counted 11290).rise = 0 := by decide
/-- Section 10.6: the entry with due time 1,000 and period 600 s. -/
def entry3 : SchedEntry := { id := 3, due := 1000, period := 600, cls := 0, lateness := 120, skipInDrive := false, pending := false }
/-- Section 10.6: found at 4,750 it is missed seven times and waits for 5,200. -/
theorem test_entry_found_late : next (exec (.clockSet [0, 0, 0x12, 0x8E]) { lit with wsc.sched := [entry3] })
    (fun t => t.wsc.sched == [{ entry3 with due := 5200 }] &&
      t.evq.events.drop 1 == [{ kind := .schedMissed, time := 4750, subject := 3, detail := 0, value := some 7 }]) = true := by decide
/-- Section 10.6: found at 4,700 it is missed six times, its class's request is made, and it waits for 5,200. -/
theorem test_entry_found_in_time : next (exec (.clockSet [0, 0, 0x12, 0x5C]) ({ lit with wsc.sched := [entry3] }.setClass 0
      { ClassEntry.powerOn with enabled := true })) (fun t => t.wsc.sched == [{ entry3 with due := 5200 }] &&
    t.evq.events.drop 1 == [t.recordOf .schedMissed 3 0 (some 6), t.recordOf .wakeAdmitted 1 1 (some 0)] &&
    t.ssc.sessions.map Session.origin == [.schedule 3]) = true := by decide
/-- R164, R98: of a disabled class the firing is refused, its origin word 0x0103. -/
theorem test_firing_is_refused : next (exec (.clockSet [0, 0, 0x11, 0xF8]) { lit with wsc.sched := [{ entry3 with due := 4600 }] })
    (fun t => t.evq.events.drop 1 == [t.recordOf .wakeRefused 0 0x43 (some 0x0103)]) = true := by decide

/-! ### The statements' hypotheses can be met: one theorem for each statement that has some

Where a statement has clauses, the theorem has one conjunct for each clause's own hypotheses. -/

/-- A decidable form of `Listening`. -/
theorem listening_of {s : State}
    (h : s.held = false ∧ s.linkLive = true ∧ s.lnk.inbound = [] ∧ s.lnk.reply = none ∧ s.work = Work.none) : Listening s :=
  ⟨h.1, h.2.1, h.2.2.1, h.2.2.2.1, h.2.2.2.2⟩

/-- A decidable form of `RampSound`. -/
theorem rampSound_of {s : State}
    (h : (∀ d, (s.dom d).en = (s.dom d).state.enOn ∧ ((s.dom d).state.timed = false → (s.dom d).timer = 0) ∧ (s.dom d).attempts ≤ 3 ∧
        ((s.dom d).attempts = 3 → (s.dom d).state = .latched) ∧ ((s.dom d).state = .off → (s.dom d).attempts = 0)) ∧
      (∀ d, (s.dom d).state = .ramping ↔ (s.rmp.slotA = some d ∨ s.rmp.slotB = some d)) ∧
      (∀ d, s.rmp.slotA = some d → s.rmp.slotB ≠ some d) ∧ (∀ d, (s.dom d).state = .queued ↔ d ∈ s.rmp.queue) ∧ s.rmp.queue.Nodup) :
    RampSound s :=
  ⟨fun d => ⟨(h.1 d).1, (h.1 d).2.1, (h.1 d).2.2.1, (h.1 d).2.2.2.1, (h.1 d).2.2.2.2⟩, h.2.1, h.2.2.1, h.2.2.2.1, h.2.2.2.2⟩

theorem lit_listening : Listening lit := listening_of (by decide)
theorem lit_ready : Ready lit := ⟨rfl, rfl⟩
theorem lit_rampSound : RampSound lit := rampSound_of (by decide)

theorem meets_StepTakesFrontCommand : { lit with pending := [.gapTimeout, .replyEnd] }.pending = .gapTimeout :: [.replyEnd] := rfl
theorem meets_CommandsLeaveTheQueue : ∃ t, exec (.ignLevelChange true) lit = .next t := ⟨_, rfl⟩
theorem meets_IdleStepTakesADueEvent :
    (lit.pending = [] ∧ lit.due = []) ∧ ({ lit with mdc.handoverTimer := some 0 }.due ≠ []) := by decide
theorem meets_EventsThatCannotComeChangeNothing : lit.timeLeft .replyEnd = some none ∧
    (lit.holdInReset.held = true ∧ (Instr.statusGet []).wellFormed = true ∧ actsInReset (.statusGet []) = false) := by decide
theorem lit_steps : ∃ t, step lit = .next t := ⟨lit.lapse 1, by
  have : lit.due = [] := by decide
  show lit.idle = _
  unfold State.idle; rw [this]⟩
theorem meets_ModeStaysSound : ModeSound lit ∧ ∃ t, step lit = .next t := ⟨by constructor <;> decide, lit_steps⟩
theorem meets_RangesStaySound : RangesSound lit ∧ ∃ t, step lit = .next t := ⟨by constructor <;> decide, lit_steps⟩
theorem lit_modeSound : ModeSound lit := by constructor <;> decide
theorem lit_treeSound : TreeSound lit := by unfold TreeSound; decide
theorem lit_demandSound : DemandSound lit := by constructor <;> decide
theorem meets_RampsStaySound : (RampSound lit ∧ ModeSound lit ∧ TreeSound lit ∧ BetweenEvents lit ∧ DemandSound lit) ∧
    ∃ t, step lit = .next t := ⟨⟨lit_rampSound, lit_modeSound, lit_treeSound, rfl, lit_demandSound⟩, lit_steps⟩
theorem meets_TreeStaysSound : TreeSound lit ∧ ∃ t, step lit = .next t := ⟨by unfold TreeSound; decide, lit_steps⟩
theorem meets_SessionsStaySound : SessionsSound lit ∧ ∃ t, step lit = .next t := ⟨by constructor <;> decide, lit_steps⟩
theorem meets_ScheduleStaysSound : ScheduleSound lit ∧ ∃ t, step lit = .next t := ⟨by constructor <;> decide, lit_steps⟩
theorem meets_EventsStaySound : EventsSound lit ∧ ∃ t, step lit = .next t := ⟨by constructor <;> decide, lit_steps⟩
theorem meets_LinkStaysSound : RampSound lit ∧ LinkSound lit ∧ ∃ t, step lit = .next t :=
  ⟨lit_rampSound, by constructor <;> decide, lit_steps⟩
theorem meets_DerivedStateAgrees : DerivedSound lit ∧ BetweenEvents lit ∧ ∃ t, step lit = .next t :=
  ⟨by constructor <;> decide, rfl, lit_steps⟩

/-! Frames and the link -/

theorem meets_ArrivingFramesAreChecked : lit.held = false ∧ lit.lnk.receiver = .hunting ∧ (List.replicate 48 (0 : Byte)).length ≤ 48 ∧
    (0x98 : Byte) ≠ checkByte ([byte ([] : List Byte).length, 0x01] ++ []) := by decide
theorem meets_EntriesReadBack :
    (readDomainEntry 11 [15, 78, 32, 10, 255, 255, 255, 3, 60]).isSome = true ∧
    (readLineEntry 15 [7, 4, 255, 3, 7, 15, 15, 255, 255]).isSome = true ∧
    (readClassEntry [127, 7, 3, 15, 255, 14, 16, 15, 255, 14, 16, 15, 255, 255, 255, 255, 255, 255, 28, 32, 14, 16, 14, 16]).isSome = true ∧
    (readSchedEntry [255, 255, 255, 255, 255, 0, 9, 58, 128, 7, 14, 16, 1]).isSome = true := by decide
/-- The clauses: TYPE, length, LINK_FAULT, lock. -/
theorem meets_LinkChecksComeFirst :
    (requestOf (.unknownTypeFrame 0x03 []) = some (0x03, []) ∧ requestLength 0x03 = none) ∧
    (requestOf (.statusGet [0]) = some (0x01, [0]) ∧ requestLength 0x01 = some 0) ∧
    (Listening { lit with lnk.linkFault := true } ∧ requestLength 0x70 = some 0 ∧ writesTables 0x70 = true) ∧
    (Listening { lit with lnk.locked := true } ∧
      { lit with lnk.locked := true }.lockRefuses 0x28 (List.replicate 10 0) = true ∧ requestLength 0x28 = some 10) :=
  ⟨by decide, by decide, ⟨listening_of (by decide), by decide, by decide⟩, ⟨listening_of (by decide), by decide, by decide⟩⟩
/-- The clauses: taken, taken by an armed device, link not live, one entry waiting, two entries waiting. -/
theorem meets_RequestsAreAnsweredInTurn :
    (requestOf (.statusGet []) = some (0x01, []) ∧ (Instr.statusGet []).wellFormed = true ∧ Listening lit) ∧
    (requestOf (.resetExec []) = some (0x7F, []) ∧ (Instr.resetExec []).wellFormed = true ∧ Listening { lit with lnk.armed := true }) ∧
    (State.reset.held = false ∧ State.reset.linkLive = false) ∧
    (busy.held = false ∧ busy.linkLive = true ∧ busy.lnk.reply.isSome = true ∧
      { busy with lnk.inbound := [.notice .crc] }.lnk.inbound.length < 2) ∧
    2 ≤ { busy with lnk.inbound := [.notice .crc, .notice .crc] }.lnk.inbound.length :=
  ⟨⟨rfl, by decide, lit_listening⟩, ⟨rfl, by decide, listening_of (by decide)⟩, by decide, by decide, by decide⟩
/-- The last byte of a frame but one, and LEN 48 and 49, are boundary cases of the clauses. -/
theorem meets_ReceiverTakesBytesAndGaps : lit.held = false ∧ State.reset.lnk.receiver = .dead ∧ lit.lnk.receiver = .hunting ∧
    (0x30 : Byte).toNat ≤ 48 ∧ 48 < (0x31 : Byte).toNat ∧ ([0x01] : List Byte).length + 2 ≠ (0x01 : Byte).toNat + 3 ∧
    { lit with lnk.receiver := .awaitLength }.lnk.receiver = .awaitLength ∧
    { lit with lnk.receiver := .body [1, 1] }.lnk.receiver = .body (1 :: [1]) ∧
    { lit with lnk.receiver := .draining }.lnk.receiver = .draining := by decide
/-- `lit` in PULSE mode with an empty queue, one frame error below the limit. -/
def quietLink : State := { lit with lnk.frameErrors := 3, evq.events := [], evq.attnMode := .pulse, evq.attn := false }
/-- R172: LINK_FAULT set with the queue empty raises ATTN, and its own record starts no pulse. -/
theorem test_link_fault_raises_attn : next (exec (.frameErrorNotice .crc) quietLink)
    (fun t => t.lnk.linkFault && t.evq.events.length == 1 && t.evq.pulse == none && t.evq.attn) = true := by decide
/-- The clauses: below the limit (3 and 4), at it, with the queue empty, and with LINK_FAULT set and the counter at 255. -/
theorem meets_FrameErrorIsCounted : Listening lit ∧ min 255 (lit.lnk.frameErrors + 1) < lit.lnk.limit ∧
    (Listening { lit with lnk.frameErrors := 3 } ∧ lit.lnk.linkFault = false ∧ lit.lnk.limit ≤ min 255 (3 + 1) ∧
      lit.evq.events.length < 24) ∧
    (Listening quietLink ∧ quietLink.lnk.linkFault = false ∧ quietLink.lnk.limit ≤ min 255 (quietLink.lnk.frameErrors + 1) ∧
      quietLink.evq.events = [] ∧ (quietLink.dom 0).state = .on ∧ quietLink.evq.pulse = none) ∧
    Listening { lit with lnk.frameErrors := 255, lnk.linkFault := true } :=
  ⟨lit_listening, by decide, ⟨listening_of (by decide), by decide⟩, ⟨listening_of (by decide), by decide⟩, listening_of (by decide)⟩
/-- The clauses: nothing waiting, a frame, a RESET_EXEC of an armed device, a notice. -/
theorem meets_ReplyEndFreesTheLink : (busy.held = false ∧ busy.lnk.reply.isSome = true ∧ busy.lnk.resetDue = false ∧
    busy.dmc.d0Held = none ∧ BetweenEvents busy ∧ busy.lnk.inbound = []) ∧
    (ModeSound busy ∧ TreeSound busy ∧ RampSound busy ∧ DemandSound busy ∧ busy.linkLive = true) ∧
    { busy with lnk.inbound := [.frame 0x01 []] }.lnk.inbound = .frame 0x01 [] :: [] ∧
    ({ busy with lnk.armed := true, lnk.inbound := [.frame 0x7F []] }.lnk.armed = true ∧
      { busy with lnk.armed := true, lnk.inbound := [.frame 0x7F []] }.lnk.inbound = .frame 0x7F [] :: []) ∧
    { busy with lnk.inbound := [.notice .crc, .notice .timeout] }.lnk.inbound = .notice .crc :: [.notice .timeout] :=
  ⟨⟨rfl, rfl, rfl, rfl, rfl, rfl⟩,
    ⟨by constructor <;> decide, by unfold TreeSound; decide, rampSound_of (by decide), by constructor <;> decide, rfl⟩, rfl, ⟨rfl, rfl⟩, rfl⟩
/-- `busy` with the software reset due, in the mode and tier, and PG of D0 lost where `lost` is true. -/
def resetDue (m : Mode) (tier : Tier) (lost : Bool) : State :=
  { busy.updDom 0 (fun x => { x with pgPin := !lost }) with mdc := (litIn m).mdc, btm.tier := tier, lnk.resetDue := true }
/-- R15, R181: the reset at the reply's end keeps D0 ON; a loss of D0 that cuts the reply short brings the reset at once, the link dead. -/
theorem test_reset_keeps_d0 :
    next (exec .replyEnd (resetDue .parked .normal false)) (fun t => t.mdc.mode == .handover && (t.dom 0).state == .on &&
      t.lnk.receiver == .hunting && t.evq.events == [t.recordOf .partReset 1 1 none]) = true ∧
    next (exec (.pgLoss 0) (resetDue .handover .normal true)) (fun t => (t.dom 0).state == .faultWait && (t.dom 0).attempts == 1 &&
      t.lnk.receiver == .dead && !t.lnk.resetDue && t.evq.events == [t.recordOf .partReset 1 1 none]) = true := by decide
/-- The clauses: the reply's end and a power-good loss; D0 kept, and CUTOFF entered. -/
theorem meets_SoftwareResetCleansUp :
    ((resetDue .parked .normal false).held = false ∧ (resetDue .parked .normal false).lnk.reply.isSome = true ∧
      (resetDue .parked .normal false).lnk.resetDue = true ∧ (resetDue .parked .normal false).evq.policy = .keepOldest ∧
      BetweenEvents (resetDue .parked .normal false)) ∧
    (RampSound (resetDue .parked .normal false) ∧ TreeSound (resetDue .parked .normal false) ∧
      ((resetDue .parked .normal false).dom 0).entry.enabled = true ∧ (resetDue .parked .normal false).btm.tier ≠ .cutoff ∧
      (resetDue .parked .normal false).linkLive = true) ∧
    ((resetDue .cutoff .cutoff false).mdc.ign.debounced = false ∧ (resetDue .cutoff .cutoff false).btm.tier = .cutoff) ∧
    ((resetDue .handover .normal true).linkLive = true ∧ ((resetDue .handover .normal true).dom 0).pgPin = false ∧
      RampSound (resetDue .handover .normal true) ∧ TreeSound (resetDue .handover .normal true)) :=
  ⟨⟨rfl, rfl, rfl, rfl, rfl⟩, ⟨rampSound_of (by decide), by unfold TreeSound; decide, by decide, by decide, rfl⟩, by decide,
    rfl, by decide, rampSound_of (by decide), by unfold TreeSound; decide⟩
/-- RESET_ARM and RESET_EXEC unarmed, and armed; LINK_SET with limits 1 and 15, timeouts 10 s and 600 s. -/
theorem meets_LinkRequestsAreTaken : (Listening lit ∧ lit.lnk.armed = false) ∧ Listening { lit with lnk.armed := true } ∧
    (lit.lnk.linkFault = false ∧ 1 ≤ (1 : Byte).toNat ∧ (15 : Byte).toNat ≤ 15 ∧ 10 ≤ nat16 0 10 ∧ nat16 2 88 ≤ 600) ∧
    ((0 : Byte).toNat = 0 ∧ 15 < (16 : Byte).toNat ∧ 1 < (2 : Byte).toNat ∧ nat16 0 9 < 10 ∧ 600 < nat16 2 89) :=
  ⟨⟨lit_listening, rfl⟩, listening_of (by decide), by decide, by decide⟩
theorem meets_EventsReadTakesTheOldest : Listening lit ∧ 1 ≤ (1 : Byte).toNat ∧ (8 : Byte).toNat ≤ 8 ∧ 8 < (9 : Byte).toNat := ⟨lit_listening, by decide⟩
theorem meets_ReportsChangeNothing : Listening lit ∧ 11 < (12 : Byte).toNat ∧ 15 < (16 : Byte).toNat ∧ 5 < (6 : Byte).toNat ∧
    (5 : Byte).toNat ≤ 5 := ⟨lit_listening, by decide⟩

/-! Pins and modes -/

/-- A line's entry enabled or not, with this debounce. -/
def litLine (f : Line → Line) : State := lit.updLine 3 f
/-- Line 3 enabled or not in this trigger mode and role, mute and debounce 0, its pin and debounced level LOW. -/
def still3 (enabled : Bool) (m : TriggerMode) (role : Role) (mute : Option Nat) : State :=
  litLine (fun x => { x with entry := { x.entry with enabled := enabled, triggerMode := m, role := role, debounce := 0 }, mute := mute })
/-- R52, R58: a RECORD line with debounce 0 records a rise in the event of the change. -/
theorem test_debounce_0_records_at_once : next (exec (.wlPinChange 3 true) (still3 true .rising .record none))
    (fun t => t.evq.events.drop 1 == [t.recordOf .lineRecord 3 0 none] && (t.line 3).debounced) = true := by decide
theorem meets_LevelsAreDebounced : (lit.held = false ∧ BetweenEvents lit ∧ false = lit.mdc.ign.pin ∧
    (true ≠ lit.mdc.ign.pin ∧ true ≠ lit.mdc.ign.debounced) ∧ (true ≠ lit.mdc.service.pin ∧ true ≠ lit.mdc.service.debounced) ∧
    (true = (lit.dom 0).pgPin ∧ true ≠ (lit.dom 1).pgPin) ∧
    ((lit.line 3).entry.debounce ≠ 0 ∧ true ≠ (lit.line 3).pin ∧ true ≠ (lit.line 3).debounced)) ∧
    ((still3 true .levelHigh .record none).held = false ∧ ((still3 true .levelHigh .record none).line 3).entry.debounce = 0 ∧
      true ≠ ((still3 true .levelHigh .record none).line 3).pin ∧ true ≠ ((still3 true .levelHigh .record none).line 3).debounced ∧
      BetweenEvents (still3 true .levelHigh .record none)) ∧
    (Ready { lit with mdc.service.interval := some 0 } ∧ { lit with mdc.service.interval := some 0 }.mdc.service.interval = some 0) ∧
    (Ready { lit with mdc.ign.interval := some 20 } ∧ lit.mdc.ign.pin = lit.mdc.ign.debounced) :=
  ⟨⟨rfl, rfl, by decide⟩, ⟨rfl, by decide, by decide, by decide, rfl⟩, ⟨⟨rfl, rfl⟩, rfl⟩, ⟨rfl, rfl⟩, rfl⟩
theorem meets_IgnitionOnEntersDrive : Ready plant ∧ plant.mdc.ign.interval = some 0 ∧ plant.mdc.ign.pin = true ∧
    plant.mdc.ign.debounced = false ∧ plant.mdc.mode ≠ .drive ∧ plant.roomFor 1 ∧
    (let s := { plant with ssc.sessions := [sessionOf 12 1 0 .full] };
      SessionsSound s ∧ Ready s ∧ s.roomFor (1 + s.ssc.sessions.length)) :=
  ⟨⟨rfl, rfl⟩, rfl, rfl, rfl, by decide, ⟨rfl, by decide⟩, by constructor <;> decide, ⟨rfl, rfl⟩, rfl, by decide⟩
/-- DRIVE with a debounced fall of IGN coming, at this part second, with this Schedule. -/
def leavingDrive (seconds : Nat) (es : List SchedEntry) : State :=
  { litIn .drive with mdc := { (litIn .drive).mdc with ign := { pin := false, debounced := true, interval := some 20 } },
                      wsc.seconds := seconds, wsc.sched := es }
/-- Section 10.7: the entries 5 and 9, held PENDING at the end of the drive, and entry 7. -/
def timetable : List SchedEntry :=
  [{ id := 5, due := 86400, period := 0, cls := 5, lateness := 600, skipInDrive := false, pending := true },
   { id := 9, due := 90000, period := 21600, cls := 6, lateness := 3600, skipInDrive := false, pending := true },
   { id := 7, due := 94400, period := 3600, cls := 4, lateness := 300, skipInDrive := true, pending := false }]
/-- The step of section 10.7 at 91,500, C6 enabled. -/
def timetableEnds : Outcome State Fault Refusal :=
  exec .ignDebounceEnd ((leavingDrive 91500 timetable).setClass 6 { ClassEntry.powerOn with enabled := true })
/-- Section 10.7: at 91,500 entry 5 is missed once and removed; entry 9 fires, is admitted FULL in HANDOVER and waits for 111,600. -/
theorem test_timetable_at_handover :
    next timetableEnds (fun t => t.evq.events.map Event.kind == [.partReset, .modeChanged, .schedMissed, .wakeAdmitted]) = true ∧
    next timetableEnds (fun t => t.wsc.sched.map (fun e => (e.id, e.due, e.pending)) == [(7, 94400, false), (9, 111600, false)]) = true ∧
    next timetableEnds (fun t => t.ssc.sessions.map Session.origin == [.schedule 9]) = true := by decide
/-- The clauses: no entry PENDING, one PENDING and past due, one whose due time lies ahead. -/
theorem meets_IgnitionOffEntersHandover :
    (Ready (leavingDrive 50 []) ∧ (leavingDrive 50 []).mdc.ign.interval = some 20 ∧ (leavingDrive 50 []).mdc.ign.pin = false ∧
      (leavingDrive 50 []).mdc.ign.debounced = true ∧ (leavingDrive 50 []).mdc.mode = .drive ∧ (leavingDrive 50 []).roomFor 3 ∧
      ∀ e ∈ (leavingDrive 50 []).wsc.sched, e.pending = false) ∧
    (let e : SchedEntry := { id := 9, due := 90000, period := 21600, cls := 6, lateness := 3600, skipInDrive := false, pending := true };
      ScheduleSound (leavingDrive 91500 [e]) ∧ (leavingDrive 91500 [e]).btm.tier ≠ .cutoff ∧ e.due ≤ 91500 ∧
      (∀ x ∈ (leavingDrive 91500 [e]).wsc.sched, x.pending = true → x = e) ∧ 80000 < e.due) :=
  ⟨⟨⟨rfl, rfl⟩, rfl, rfl, rfl, rfl, ⟨rfl, by decide⟩, by decide⟩, by constructor <;> decide, by decide, by decide, by decide, by decide⟩
theorem meets_PowerOnSetsEveryBlock : lit.holdInReset.held = true ∧
    let s := State.reset.holdInReset
    s.held = true ∧ s.mdc.ign.pin = false ∧ s.mdc.service.pin = false ∧ (∀ d, (s.dom d).pgPin = false) ∧ ∀ l, (s.line l).pin = false := by
  decide
/-- The clauses: no activation waits, and that of one enabled, unmuted RECORD line in LEVEL_HIGH waits. -/
theorem meets_HandoverTimeoutParks :
    (Ready { lit with mdc.handoverTimer := some 120000 } ∧ lit.roomFor 1 ∧ ∀ l, (lit.line l).act ≠ .pending) ∧
    (let s := { (still3 true .levelHigh .record none).updLine 3 (fun x => { x with act := .pending }) with mdc.handoverTimer := some 5 };
      Ready s ∧ (∀ k, (s.line k).act = .pending ↔ k = 3) ∧ (s.line 3).entry.enabled = true ∧ (s.line 3).entry.role = .record ∧
      (s.line 3).mute = none ∧ (s.line 3).entry.triggerMode = .levelHigh ∧ s.roomFor 2) :=
  ⟨⟨⟨rfl, rfl⟩, ⟨rfl, by decide⟩, by decide⟩, ⟨rfl, rfl⟩, by decide, by decide, by decide, by decide, by decide, rfl, by decide⟩
/-- PARKED with line 3, a RECORD line, muted for 5 more ms with three triggers counted, its activation waiting. -/
def mutedLine : State :=
  { (still3 true .levelHigh .record (some 5)).updLine 3 (fun x => { x with act := .pending, mutedTriggers := 3, nuisance := 2 }) with
    mdc := (litIn .parked).mdc }
/-- R9, R55, R63: PARK ends the mute with cause PARK, and the activation then triggers. -/
theorem test_park_ends_the_mute_and_triggers : next (exec (.park [0, 150]) mutedLine) (fun t => (t.line 3).mute.isNone &&
    (t.line 3).nuisance == 0 && (t.line 3).act == .spent &&
    t.evq.events.drop 1 == [t.recordOf .lineUnmuted 3 2 (some 3), t.recordOf .lineRecord 3 2 none]) = true := by decide
/-- The clauses: the two modes that refuse, HANDOVER and PARKED, with nothing due and with one entry past due, and one activation that
waits. -/
theorem meets_ParkIsTaken : Listening (litIn .drive) ∧ Listening (litIn .cutoff) ∧
    (Listening lit ∧ lit.mdc.mode = .handover ∧ (∀ k, (lit.line k).mute = none ∧ (lit.line k).act ≠ .pending) ∧ lit.roomFor 3 ∧
      ∀ e ∈ lit.wsc.sched, lit.wsc.seconds < e.due) ∧
    (Listening (litIn .parked) ∧ (litIn .parked).mdc.mode = .parked) ∧
    (Listening mutedLine ∧ mutedLine.mdc.mode = .parked ∧ (∀ j, (mutedLine.line j).act = .pending ↔ j = 3) ∧
      (mutedLine.line 3).entry.enabled = true ∧ (mutedLine.line 3).entry.role = .record ∧
      (mutedLine.line 3).entry.triggerMode = .levelHigh ∧ (mutedLine.line 3).mute.isSome = true ∧ mutedLine.wsc.sched = [] ∧
      mutedLine.roomFor 2) ∧
    (let s := { litIn .parked with wsc.seconds := 4700, wsc.sched := [entry3] };
      Listening s ∧ ScheduleSound s ∧ entry3.due ≤ 4700 ∧ (∀ x ∈ s.wsc.sched, x.due ≤ 4700 → x = entry3) ∧
      ∀ k, (s.line k).act ≠ .pending) :=
  ⟨listening_of (by decide), listening_of (by decide), ⟨lit_listening, by decide, by decide, ⟨rfl, by decide⟩, by decide⟩,
    ⟨listening_of (by decide), by decide⟩,
    ⟨listening_of (by decide), by decide, by decide, by decide, by decide, by decide, by decide, rfl, rfl, by decide⟩,
    listening_of (by decide), by constructor <;> decide, by decide, by decide, by decide⟩

/-! Domains -/

theorem lit_writable : lit.writable := ⟨rfl, .inl rfl⟩
/-- `lit` with the configuration lock set and SERVICE low; a protected entry is then not writable, and another one is (R180). -/
def lockedLit : State := { lit with lnk.locked := true }
theorem lit_entryWritable (guarded : Bool) : lit.entryWritable guarded := ⟨rfl, .inl rfl⟩
theorem lockedLit_entryWritable : lockedLit.entryWritable false ∧ ¬ lockedLit.entryWritable true :=
  ⟨⟨rfl, .inr (.inr rfl)⟩, by unfold State.entryWritable; decide⟩
/-- The bytes of an entry that is read, and of one that is not (retry delay 61 s). -/
theorem meets_DomainSetIsTaken : (Listening lit ∧ lit.lnk.linkFault = false ∧ lit.entryWritable (lit.dom 1).entry.guarded) ∧
    (Listening lockedLit ∧ lockedLit.entryWritable (lockedLit.dom 1).entry.guarded) ∧ 11 < (12 : Byte).toNat ∧
    readDomainEntry 1 [1, 78, 32, 0, 7, 208, 255, 3, 61] = none ∧ (readDomainEntry 1 [1, 78, 32, 0, 7, 208, 255, 3, 60]).isSome = true ∧
    (lit.dom 1).state = .off ∧ (lit.dom 0).state ≠ .off ∧ (lit.dom 0).entry.enabled = true ∧ (lit.dom 2).entry.enabled = false :=
  ⟨⟨lit_listening, rfl, lit_entryWritable _⟩, ⟨listening_of (by decide), lockedLit_entryWritable.1⟩, by decide⟩
theorem meets_DomainFaultIsCleared : Listening lit ∧ RampSound lit ∧ lit.wanted 0 ∧ (lit.dom 0).state = .on ∧
    ((lit.updDom 2 (fun x => { x with state := .latched })).dom 2).state = .latched ∧ 11 < (12 : Byte).toNat :=
  ⟨lit_listening, lit_rampSound, .inl (by decide), by decide, by decide, by decide⟩

/-- Domain 3 RAMPING in HANDOVER, with this attempt count and hold-off, held by the always-on hold or by nobody. -/
def ramping3 (held : Bool) (attempts holdOff : Nat) : State :=
  { lit.updDom 3 (fun x => { x with entry := { (entryOf none 0 3) with alwaysOn := held, holdOff := holdOff }, state := .ramping, en := true,
                                    timer := 500, attempts := attempts, pgPin := true }) with rmp.slotA := some 3 }
/-- Domains 3 and 4 RAMPING, both held by the always-on hold, and domains 5, 6 and 7 QUEUED for it with priorities 1, 2 and 2, in the order
of their arrival; domain 6 waits for domain 4 where `child` is true. -/
def waiting567 (child : Bool) : State :=
  let on := fun (p : Option DomId) (pr : Nat) (st : DomState) (s : State) (d : DomId) => s.updDom d (fun x => { x with
    entry := { (entryOf p 0 pr) with alwaysOn := true }, state := st, en := st.enOn, timer := if st = .ramping then 500 else 0, pgPin := d == 3 })
  { on none 2 .queued (on (if child then some 4 else none) 2 .queued (on none 1 .queued (on none 3 .ramping (on none 3 .ramping lit 3) 4) 5) 6) 7 with
    rmp := { queue := [5, 6, 7], slotA := some 3, slotB := some 4 } }
/-- R40, R42, R43: the freed slot goes to domain 6, the first of priority 2, or past it to domain 7 while its parent is not ON. -/
theorem test_freed_slot_goes_by_priority :
    next (exec (.rampComplete 3) (waiting567 false)) (fun t => t.rmp.slotA == some 6 && t.rmp.queue == [5, 7]) = true ∧
    next (exec (.rampComplete 3) (waiting567 true)) (fun t => t.rmp.slotA == some 7 && t.rmp.queue == [5, 6]) = true := by decide
/-- Domain 3 and its child 4 in these states, 3 with this attempt count and timer; session 12 demands this set, 0 among it, and nothing else
but the mode's holds is a holder. -/
def chain (m : Mode) (set : DomSet) (st st4 : DomState) (attempts timer : Nat) : State :=
  let put := fun (s : State) (d : DomId) (p : Option DomId) (st : DomState) (a t : Nat) => s.updDom d (fun x =>
    { x with entry := entryOf p 0 3, state := st, en := st.enOn, attempts := a, timer := t, pgPin := st == .ramping })
  { put (put lit 3 none st attempts timer) 4 (some 3) st4 0 0 with
    ssc.sessions := [sessionOf 12 1 set .full], btm.tier := if m = .cutoff then .cutoff else .normal, mdc := (litIn m).mdc,
    rmp := { queue := if st4 = .queued then [4] else [], slotA := if st = .ramping then some 3 else none, slotB := none } }
/-- R25, R27, R36: the third failure latches domain 3, and its QUEUED child is reported once. -/
theorem test_latch_reports_the_child : next (exec (.rampTimeout 3) (chain .cutoff 0b10001 .ramping .queued 2 500)) (fun t =>
    t.evq.events.drop 1 == [t.recordOf .domainFault 3 0 (some 3), t.recordOf .domainFault 3 2 (some 3), t.recordOf .dependencyBlocked 4 3 none] &&
    (t.dom 3).state == .latched && (t.dom 4).depReported) = true := by decide
/-- R32, R33: in CUTOFF domains 1 and 4, a chain above domain 0, are up for session 12 alone, and domain 7 is in HOLDOFF. -/
def chainOf0 : State :=
  let put := fun (s : State) (d : DomId) (p : Option DomId) (st : DomState) => s.updDom d (fun x =>
    { x with entry := { entryOf p 0 3 with holdOff := 5 }, state := st, en := true, timer := if st = .holdoff then 60000 else 0 })
  { put (put (put lit 1 (some 0) .on) 4 (some 1) .on) 7 none .holdoff with
    ssc.sessions := [sessionOf 12 1 0b10000 .full], btm.tier := .cutoff, mdc := (litIn .cutoff).mdc }
/-- R32, R33: the session's end leaves nothing powered, domains 0 and 7 included, whatever their hold-off. -/
theorem test_nothing_stays_up_in_cutoff : next (exec (.sessionRunExpiry 12) chainOf0) (fun t => domIds.all (fun d => !(t.dom d).en)) = true := by
  decide
/-- The clauses: wanted, with a queue and with none, unwanted with a hold-off of 1 s and of 0; and both in CUTOFF, by a session for the
child. -/
theorem meets_RampCompletes :
    (PowerSound (chain .cutoff 0b10001 .ramping .queued 0 500) ∧ RampSound (chain .cutoff 0b10001 .ramping .queued 0 500) ∧
      (chain .cutoff 0b10001 .ramping .queued 0 500).wanted 3 ∧ (chain .cutoff 0b10001 .ramping .queued 0 500).directHolders 3 = 0) ∧
    (RampSound (chain .cutoff 1 .ramping .off 0 500) ∧ (chain .cutoff 1 .ramping .off 0 500).unwanted 3) ∧
    (Ready (ramping3 true 0 5) ∧ RampSound (ramping3 true 0 5) ∧ ((ramping3 true 0 5).dom 3).state = .ramping ∧
      ((ramping3 true 0 5).dom 3).pgPin = true ∧ (ramping3 true 0 5).wanted 3 ∧ DemandSound (ramping3 true 0 5)) ∧
    (RampSound (waiting567 true) ∧ ModeSound (waiting567 true) ∧ TreeSound (waiting567 true) ∧ DemandSound (waiting567 true) ∧
      (waiting567 true).wanted 3 ∧ (waiting567 true).rmp.queue = [5, 6] ++ 7 :: [] ∧ ((waiting567 true).dom 7).entry.parent = none ∧
      ((waiting567 true).dom 6).entry.parent = some 4 ∧ ((waiting567 true).dom 4).state ≠ .on ∧
      ((waiting567 true).dom 5).entry.rampPriority < ((waiting567 true).dom 7).entry.rampPriority) ∧
    (RampSound (ramping3 false 0 1) ∧ (ramping3 false 0 1).unwanted 3 ∧ ((ramping3 false 0 1).dom 3).entry.holdOff ≠ 0) ∧
    (RampSound (ramping3 false 0 0) ∧ (ramping3 false 0 0).unwanted 3 ∧ ((ramping3 false 0 0).dom 3).entry.holdOff = 0) :=
  have p (set : DomSet) (st4 : DomState) : (set = 0b10001 ∧ st4 = .queued ∨ set = 1 ∧ st4 = .off) →
      PowerSound (chain .cutoff set .ramping st4 0 500) := by
    rintro (⟨rfl, rfl⟩ | ⟨rfl, rfl⟩) <;> exact ⟨by constructor <;> decide, by unfold TreeSound; decide, by constructor <;> decide⟩
  ⟨⟨p _ _ (.inl ⟨rfl, rfl⟩), rampSound_of (by decide), .inr ⟨p _ _ (.inl ⟨rfl, rfl⟩), by decide, by decide⟩, by decide⟩,
    ⟨rampSound_of (by decide), .inr ⟨p _ _ (.inr ⟨rfl, rfl⟩), by decide⟩⟩,
    ⟨⟨rfl, rfl⟩, rampSound_of (by decide), rfl, rfl, .inl (by decide), by constructor <;> decide⟩,
    ⟨rampSound_of (by decide), by constructor <;> decide, by unfold TreeSound; decide, by constructor <;> decide,
      .inl (by decide), rfl, by decide, by decide, by decide, by decide⟩,
    ⟨rampSound_of (by decide), .inl (by decide), by decide⟩,
    rampSound_of (by decide), .inl (by decide), by decide⟩
/-- Attempt counts 1 and 2: the second failure, and the third, with a QUEUED child that is not reported yet and one that is. -/
theorem meets_RampTimeoutIsAFailure :
    (let s := chain .cutoff 0b10001 .ramping .queued 2 500;
      PowerSound s ∧ RampSound s ∧ s.wanted 3 ∧ (s.dom 4).state = .queued ∧ (s.dom 4).entry.parent = some 3 ∧
      (s.dom 4).depReported = false ∧ s.roomFor 3) ∧
    PowerSound ((chain .cutoff 0b10001 .ramping .queued 2 500).updDom 4 (fun x => { x with depReported := true })) ∧
    (Ready (ramping3 true 1 5) ∧ RampSound (ramping3 true 1 5) ∧ (ramping3 true 1 5).wanted 3 ∧ (ramping3 true 1 5).roomFor 1 ∧
      ((ramping3 true 1 5).dom 3).attempts + 1 < 3) ∧
    (RampSound (ramping3 true 2 5) ∧ (ramping3 true 2 5).wanted 3 ∧ ((ramping3 true 2 5).dom 3).attempts + 1 = 3 ∧
      (ramping3 true 2 5).roomFor 2) ∧
    (RampSound (ramping3 false 2 5) ∧ (ramping3 false 2 5).unwanted 3) :=
  have p : PowerSound (chain .cutoff 0b10001 .ramping .queued 2 500) :=
    ⟨by constructor <;> decide, by unfold TreeSound; decide, by constructor <;> decide⟩
  ⟨⟨p, rampSound_of (by decide), .inr ⟨p, by decide, by decide⟩, by decide, by decide, by decide, rfl, by decide⟩,
    ⟨by constructor <;> decide, by unfold TreeSound; decide, by constructor <;> decide⟩,
    ⟨⟨rfl, rfl⟩, rampSound_of (by decide), .inl (by decide), ⟨rfl, by decide⟩, by decide⟩,
    ⟨rampSound_of (by decide), .inl (by decide), by decide, rfl, by decide⟩,
    rampSound_of (by decide), .inl (by decide)⟩

/-- Domain 3 in this state with this attempt count and timer and PG low, held by the always-on hold or by nobody. -/
def stands3 (held : Bool) (st : DomState) (attempts timer : Nat) : State :=
  lit.updDom 3 (fun x => { x with entry := { (entryOf none 0 3) with alwaysOn := held }, state := st, en := st.enOn, timer := timer,
                                  attempts := attempts })
/-- Domain 3 ON behind two full slots, its child 4 QUEUED for session 12. -/
def childWaits : State :=
  let ramp := fun (s : State) (d : DomId) => s.updDom d (fun x =>
    { x with entry := { entryOf none 0 3 with alwaysOn := true }, state := .ramping, en := true, timer := 500 })
  { ramp (ramp (chain .handover 0b10001 .on .queued 2 0) 7) 8 with rmp := { queue := [4], slotA := some 7, slotB := some 8 } }
/-- The clauses: wanted by a hold, and in CUTOFF by a session for its child; the third failure, and that with a QUEUED child; not wanted, and
not wanted any more once its child in HOLDOFF is off. -/
theorem meets_PowerGoodLossIsAFailure :
    (Ready (stands3 true .on 1 0) ∧ RampSound (stands3 true .on 1 0) ∧ ((stands3 true .on 1 0).dom 3).pgPin = false ∧
      (stands3 true .on 1 0).lnk.resetDue = false ∧ (stands3 true .on 1 0).wantedAtLoss 3 ∧ (stands3 true .on 1 0).roomFor 1) ∧
    (RampSound (chain .cutoff 0b10001 .on .faultWait 1 0) ∧ (chain .cutoff 0b10001 .on .faultWait 1 0).wantedAtLoss 3) ∧
    (RampSound (stands3 true .holdoff 2 5000) ∧ (stands3 true .holdoff 2 5000).wantedAtLoss 3 ∧ (stands3 true .holdoff 2 5000).roomFor 2 ∧
      ((stands3 true .holdoff 2 5000).dom 3).attempts + 1 = 3) ∧
    (RampSound childWaits ∧ PowerSound childWaits ∧ childWaits.wantedAtLoss 3 ∧ childWaits.roomFor 14 ∧
      (childWaits.dom 4).entry.parent = some 3 ∧ (childWaits.dom 4).state = .queued ∧ (childWaits.dom 4).depReported = false) ∧
    (RampSound (stands3 false .on 0 0) ∧ (stands3 false .on 0 0).unwantedAtLoss 3) ∧
    (RampSound (chain .handover 1 .on .holdoff 1 0) ∧ (chain .handover 1 .on .holdoff 1 0).unwantedAtLoss 3) :=
  have p1 : PowerSound (chain .cutoff 0b10001 .on .faultWait 1 0) :=
    ⟨by constructor <;> decide, by unfold TreeSound; decide, by constructor <;> decide⟩
  have p2 : PowerSound childWaits := ⟨by constructor <;> decide, by unfold TreeSound; decide, by constructor <;> decide⟩
  have p3 : PowerSound (chain .handover 1 .on .holdoff 1 0) :=
    ⟨by constructor <;> decide, by unfold TreeSound; decide, by constructor <;> decide⟩
  ⟨⟨⟨rfl, rfl⟩, rampSound_of (by decide), rfl, rfl, .inl (by decide), rfl, by decide⟩,
    ⟨rampSound_of (by decide), .inr ⟨p1, ⟨4, by decide, .inl (by decide)⟩, by decide⟩⟩,
    ⟨rampSound_of (by decide), .inl (by decide), ⟨rfl, by decide⟩, by decide⟩,
    ⟨rampSound_of (by decide), p2, .inr ⟨p2, ⟨4, by decide, .inl (by decide)⟩, by decide⟩, ⟨rfl, by decide⟩, by decide, by decide, by decide⟩,
    ⟨rampSound_of (by decide), .inl (by decide)⟩,
    rampSound_of (by decide), .inr ⟨p3, by unfold State.rooted; decide⟩⟩
/-- The clauses: unwanted and wanted, outside CUTOFF and in it. -/
theorem meets_HoldOffAndRetryExpire :
    (Ready (stands3 false .holdoff 0 5000) ∧ RampSound (stands3 false .holdoff 0 5000) ∧ (stands3 false .holdoff 0 5000).unwanted 3) ∧
    (RampSound (chain .cutoff 1 .holdoff .off 0 5000) ∧ (chain .cutoff 1 .holdoff .off 0 5000).unwanted 3) ∧
    (RampSound (stands3 true .faultWait 2 1) ∧ (stands3 true .faultWait 2 1).wanted 3) ∧
    (RampSound (chain .cutoff 0b10001 .faultWait .queued 1 1000) ∧ (chain .cutoff 0b10001 .faultWait .queued 1 1000).wanted 3) :=
  ⟨⟨⟨rfl, rfl⟩, rampSound_of (by decide), .inl (by decide)⟩,
    ⟨rampSound_of (by decide),
      .inr ⟨⟨by constructor <;> decide, by unfold TreeSound; decide, by constructor <;> decide⟩, by decide⟩⟩,
    ⟨rampSound_of (by decide), .inl (by decide)⟩, rampSound_of (by decide),
    .inr ⟨⟨by constructor <;> decide, by unfold TreeSound; decide, by constructor <;> decide⟩, by decide, by decide⟩⟩
/-- PARKED, D0 in HOLDOFF, a reply being sent: the expiry to come, and the switch-off already held. -/
def closing (held : Option HeldCause) : State :=
  { busy.updDom 0 (fun x => { x with state := .holdoff, timer := if held.isSome then 0 else 3000 }) with
    mdc := (litIn .parked).mdc, dmc.d0Held := held }
/-- R35: a state with D0's switch-off held, its reply being sent and its cause standing, is sound. -/
theorem test_held_switch_off_is_sound : DemandSound (closing (some .demandGone)) := by constructor <;> decide
theorem meets_D0WaitsForTheReply :
    (Ready (closing none) ∧ RampSound (closing none) ∧ ((closing none).dom 0).state = .holdoff ∧ (closing none).unwanted 0 ∧
      (closing none).lnk.reply.isSome = true) ∧
    (RampSound (closing (some .demandGone)) ∧ (closing (some .demandGone)).unwanted 0 ∧
      (closing (some .demandGone)).lnk.resetDue = false) :=
  ⟨⟨⟨rfl, rfl⟩, rampSound_of (by decide), rfl, .inl (by decide), rfl⟩,
    rampSound_of (by decide), .inl (by decide), rfl⟩

/-! Lines, approach qualification, classes and sessions -/

/-- The bytes of an entry of line 3 (debounce 251, RECORD, LEVEL_LOW), and of none (role 4, limit 16, its own index as partner); a line that
is enabled, one that is muted, and one whose trigger mode changes; an entry that the mode ignores. -/
theorem meets_LineSetIsTaken : Listening lit ∧ lit.entryWritable (lit.line 3).entry.guarded ∧ 15 < (16 : Byte).toNat ∧
    readLineEntry 3 [1, 4, 251, 4, 0, 0, 0, 1, 1] = none ∧ readLineEntry 3 [1, 4, 251, 3, 0, 0, 16, 1, 1] = none ∧
    readLineEntry 3 [1, 4, 251, 1, 0, 3, 0, 1, 1] = none ∧
    (readLineEntry 3 [1, 4, 251, 3, 0, 0, 0, 1, 1]).isSome = true ∧ (lit.line 3).entry.enabled = false ∧
    (lit.line 3).debounced = TriggerMode.levelLow.activeLevel ∧ (lit.line 3).debounced ≠ TriggerMode.levelHigh.activeLevel ∧
    lit.roomFor 1 ∧
    (Listening (still3 true .rising .record none) ∧ ((still3 true .rising .record none).line 3).entry.enabled = true ∧
      ((still3 true .rising .record none).line 3).mute = none ∧ ((still3 true .rising .record none).line 3).entry.triggerMode ≠ .levelLow) ∧
    ((still3 true .rising .record (some 1)).line 3).mute.isSome = true ∧
    triggerIgnored (litIn .cutoff).mdc.mode ((still3 true .levelLow .record none).line 3).entry ∧
    ¬ triggerIgnored lit.mdc.mode ((still3 true .levelLow .record none).line 3).entry ∧
    ((litLine (fun x => { x with entry.enabled := true, nuisance := 2 })).line 3).entry.enabled = true :=
  ⟨lit_listening, lit_entryWritable _, by decide, by decide, by decide, by decide, by decide, by decide, by decide, by decide,
    ⟨rfl, by decide⟩, ⟨listening_of (by decide), by decide, by decide, by decide⟩, by decide, by unfold triggerIgnored; decide,
    by unfold triggerIgnored; decide, by decide⟩
/-- R55: a line that stays enabled and is re-armed at its active level triggers with the edge LEVEL. -/
theorem test_rearming_triggers : next (exec (.lineSet [3, 1, 4, 0, 3, 0, 0, 0, 1, 1]) (still3 true .rising .record none))
    (fun t => t.evq.events.drop 1 == [t.recordOf .lineRecord 3 2 none] && (t.line 3).act == .spent) = true := by decide
theorem meets_LineUnmuteEndsTheMute : (Listening lit ∧ (lit.line 15).mute = none ∧ 15 < (16 : Byte).toNat) ∧
    (Listening (litLine (fun x => { x with mute := some 1 })) ∧ ((litLine (fun x => { x with mute := some 1 })).line 3).mute.isSome = true ∧
      (litLine (fun x => { x with mute := some 1 })).roomFor 1) :=
  ⟨⟨lit_listening, by decide⟩, listening_of (by decide), by decide, rfl, by decide⟩
/-- Line 3 with its pin HIGH above a LOW debounced level, the interval running out. -/
def rising3 (enabled : Bool) (mute : Option Nat) : State :=
  litLine (fun x => { x with entry.enabled := enabled, pin := true, interval := some 0, mute := mute, window := some 1 })
/-- A decidable form of `FormsTrigger`. -/
theorem formsTrigger_of {s : State} {l : LineId} {n : Nat}
    (h : (s.line l).interval = some n ∧ (s.line l).pin ≠ (s.line l).debounced ∧ (s.line l).entry.enabled = true ∧
      ((s.line l).entry.triggerMode = .both ∨ (s.line l).entry.triggerMode = (if (s.line l).pin then .rising else .falling) ∨
        (s.line l).entry.triggerMode = (if (s.line l).pin then .levelHigh else .levelLow)) ∧
      modeActs s.mdc.mode (s.line l).entry = true) : FormsTrigger s l n := ⟨h.1, h.2.1, h.2.2.1, h.2.2.2.1, h.2.2.2.2⟩
/-- Line 3 of `still3` with its pin HIGH above the LOW debounced level, or the other way round, the interval running out, in this mode. -/
def moving3 (m : Mode) (up enabled : Bool) (tm : TriggerMode) (role : Role) (mute : Option Nat) : State :=
  { (still3 enabled tm role mute).updLine 3 (fun x => { x with pin := up, debounced := !up, interval := some 0, act := .spent }) with
    mdc := (litIn m).mdc }
/-- R54, R56: in CUTOFF a level line that is not cutoff-capable is left PENDING; its return to the inactive level ends the activation. -/
theorem test_ignored_activation_waits :
    next (exec (.wlDebounceEnd 3) (moving3 .cutoff true true .levelHigh .record none)) (fun t => (t.line 3).act == .pending &&
      t.evq.events.length == 1) = true ∧
    next (exec (.wlDebounceEnd 3) (moving3 .cutoff false true .levelHigh .record none)) (fun t => (t.line 3).act == .inactive) = true := by
  decide
/-- The clauses: no change; and, of `StableChange`, a disabled line, an edge and a level that the mode does not name, a trigger ignored, one
of a muted line and one of a RECORD line; window and mute. -/
theorem meets_WakeLineTimesEnd :
    (Ready (litLine (fun x => { x with interval := some 5 })) ∧ ((litLine (fun x => { x with interval := some 5 })).line 3).pin =
      ((litLine (fun x => { x with interval := some 5 })).line 3).debounced) ∧
    (Ready (rising3 false none) ∧ ((rising3 false none).line 3).pin ≠ ((rising3 false none).line 3).debounced ∧
      ((rising3 false none).line 3).entry.enabled = false ∧ ((rising3 false none).line 3).window = some 1) ∧
    (Ready (moving3 .parked false true .rising .record none) ∧ ¬ TriggerMode.rising.names false ∧ ¬ TriggerMode.levelHigh.names false ∧
      TriggerMode.levelHigh.names true ∧ TriggerMode.both.names false) ∧
    (triggerIgnored .cutoff ((moving3 .cutoff true true .levelHigh .record none).line 3).entry ∧
      triggerIgnored .drive ((moving3 .drive true true .levelHigh .direct none).line 3).entry ∧
      ¬ triggerIgnored .drive ((moving3 .drive true true .levelHigh .record none).line 3).entry) ∧
    ((moving3 .parked true true .rising .record none).roomFor 1 ∧
      ((moving3 .parked true true .rising .record none).line 3).entry.role = .record) ∧
    (Ready (rising3 true (some 1)) ∧ FormsTrigger (rising3 true (some 1)) 3 0 ∧ ((rising3 true (some 1)).line 3).mute = some 1) :=
  ⟨⟨⟨rfl, rfl⟩, by decide⟩, ⟨⟨rfl, rfl⟩, by decide⟩, ⟨⟨rfl, rfl⟩, by unfold TriggerMode.names; decide⟩,
    by unfold triggerIgnored; decide, ⟨⟨rfl, by decide⟩, by decide⟩, ⟨rfl, rfl⟩, formsTrigger_of (by decide), by decide⟩

/-- A LISTEN session of lines 3 and, if both listen, 4. -/
def listening (both enabled : Bool) : State :=
  let s := { lit with ssc.sessions := [{ sessionOf 1 1 0 .listen with listening := if both then [3, 4] else [3] }] }
  let s := s.updApproach 3 (fun a => { a with listen := some { session := 1, partner := 4, window := 100 } })
  s.updLine 3 (fun x => { x with entry.enabled := enabled, entry.nuisanceLimit := 2 })
/-- R62, R75: the second unqualified trigger reaches the limit of 2 and mutes line 3 after APPROACH_EXPIRED. -/
theorem test_expiry_mutes_at_the_limit :
    let s := (listening true true).updLine 3 (fun x => { x with nuisance := 1, window := some 400 })
    next (exec (.approachExpired 3) s) (fun t => (t.line 3).mute.isSome && (t.line 3).window.isNone && (t.line 3).nuisance == 2 &&
      t.evq.events.drop 1 == [t.recordOf .approachExpired 3 1 none, t.recordOf .lineMuted 3 2 (some (t.line 3).entry.muteTime)]) = true := by decide
theorem meets_ApproachExpires :
    (((listening true true).updLine 3 (fun x => { x with nuisance := 1 })).line 3).atLimit ∧ ¬ ((listening true true).line 3).atLimit ∧
      (listening true true).roomFor 2 ∧
    (Ready (listening true true) ∧ ((listening true true).approach 3).listen = some { session := 1, partner := 4, window := 100 } ∧
      (∃ x, (listening true true).session? 1 = some x ∧ x.active = true ∧ x.listening.filter (· != 3) ≠ []) ∧
      ((listening true true).line 3).mute = none ∧
      min 15 (((listening true true).line 3).nuisance + 1) < ((listening true true).line 3).entry.nuisanceLimit ∧
      (listening true true).roomFor 1) ∧
    (Ready (listening false false) ∧ (∃ x, (listening false false).session? 1 = some x ∧ x.active = true ∧
      x.listening.filter (· != 3) = []) ∧ ((listening false false).line 3).entry.enabled = false) :=
  ⟨by unfold Line.atLimit; decide, by unfold Line.atLimit; decide, ⟨rfl, by decide⟩,
    ⟨⟨rfl, rfl⟩, by decide, ⟨_, rfl, by decide, by decide⟩, by decide, by decide, rfl, by decide⟩,
    ⟨rfl, rfl⟩, ⟨_, rfl, by decide, by decide⟩, by decide⟩

/-- A SUSPENDED session of class C1 that has waited for 1 s. -/
def outstayed : Session := { sessionOf 2 1 0 .full with state := .suspended, suspendedBy := some 7, suspendedFor := some 1000 }
/-- The 24 bytes of an entry with this minimum tier and suspension limit 1 s. -/
def classBytes (tier : Byte) : List Byte := [1, 0, tier, 0, 0, 0, 60, 0, 0, 0, 0, 0, 0, 0, 0, 0, 0, 100, 2, 88, 0, 0, 0, 1]
theorem meets_ClassSetIsTaken : Listening lit ∧ lit.entryWritable (lit.cls 1).guarded ∧ 7 < (8 : Byte).toNat ∧ readClassEntry (classBytes 4) = none ∧
    (∃ e, readClassEntry (classBytes 0) = some e ∧ e.minTier = (lit.cls 1).minTier ∧ e.suspensionLimit * 1000 = 1000) ∧
    (∃ e, readClassEntry (classBytes 1) = some e ∧ e.minTier ≠ (lit.cls 1).minTier) ∧
    (SessionsSound { lit with ssc.sessions := [outstayed] } ∧ Listening { lit with ssc.sessions := [outstayed] } ∧
      ({ lit with ssc.sessions := [outstayed] }.sessionOf? 1).isSome = true ∧ outstayed.cls = 1 ∧ outstayed.active = false ∧
      1000 ≤ outstayed.suspendedFor.getD 0 ∧ { lit with ssc.sessions := [outstayed] }.roomFor 1) :=
  ⟨lit_listening, lit_entryWritable _, by decide, by decide, ⟨_, rfl, by decide, by decide⟩, ⟨_, rfl, by decide⟩,
    by constructor <;> decide, listening_of (by decide), by decide, by decide, by decide, by decide, rfl, by decide⟩
theorem meets_ClassGetReportsTheEntry : Listening lit ∧ 7 < (8 : Byte).toNat := ⟨lit_listening, by decide⟩
/-- The car of section 6.9 with its link live and D0 ON, and class C1 as given there. -/
def door : State := ({ car [0] with chm.reserve := 540000, chm.floorMah := 100 }).setClass 1 access
/-- `lit` with class C1 given by k, these sessions, and line 3 of class C1 in this role, its pin HIGH above a LOW debounced level. -/
def touched (role : Role) (k : ClassEntry) (xs : List Session) : State :=
  { (lit.setClass 1 k).updLine 3 (fun x => { x with
      entry := { x.entry with enabled := true, role := role, cls := 1 }, pin := true, interval := some 0 }) with ssc.sessions := xs }
/-- C1 with a listen window of 10 s. -/
def listenClass : ClassEntry := { access with listen := some { set := 0, amount := 100 } }
/-- A LISTEN session of C1 of line 5, this far into its run time. -/
def listenOf5 (elapsed : Nat) : Session := { sessionOf 1 1 0 .listen with listening := [5], elapsed := elapsed }
/-- The state with line k LISTENING for session 1, its partner line 3. -/
def hears3 (k : LineId) (s : State) : State :=
  s.updApproach k (fun a => { a with listen := some { session := 1, partner := 3, window := 100 } })
/-- The clauses: DIRECT admitted and refused; STAGE1 asking FULL and LISTEN, refused, joining with a window and with none; a repeat; STAGE2
ignored, refused and upgrading. -/
theorem meets_TriggersActByRole :
    (Ready (touched .direct access []) ∧ FormsTrigger (touched .direct access []) 3 0 ∧ ((touched .direct access []).line 3).mute = none ∧
      Admissible ((touched .direct access []).stableAt 3 0) 1 ∧ access.exclusive = false ∧
      ((touched .direct access []).stableAt 3 0).fits access 546500 = true ∧ (touched .direct access []).roomFor 1) ∧
    (((touched .direct ClassEntry.powerOn []).line 3).entry.role = .direct ∧ ((touched .direct ClassEntry.powerOn []).cls 1).enabled = false) ∧
    (((touched .stage1 access []).line 3).entry.role = .stage1 ∧ ((touched .stage1 access []).cls 1).listen = none ∧
      (((touched .stage1 access []).stableAt 3 0).approach 3).listen = none) ∧
    (((touched .stage1 listenClass []).cls 1).listen.isSome = true ∧ Admissible ((touched .stage1 listenClass []).stableAt 3 0) 1) ∧
    (((touched .stage1 listenClass [listenOf5 0]).stableAt 3 0).sessionOf? 1 = some (listenOf5 0) ∧ 3 ∉ (listenOf5 0).listening ∧
      min (100 * 100) (listenClass.maxDuration * 1000 - (listenOf5 0).elapsed) ≠ 0 ∧
      min (100 * 100) (listenClass.maxDuration * 1000 - (listenOf5 300000).elapsed) = 0) ∧
    ((((hears3 3 (touched .stage1 listenClass [listenOf5 0])).stableAt 3 0).approach 3).listen.isSome = true) ∧
    (((touched .stage2 listenClass []).line 3).entry.role = .stage2 ∧ ((touched .stage2 listenClass []).stableAt 3 0).ssc.sessions = []) ∧
    (SessionsSound (hears3 5 (touched .stage2 listenClass [listenOf5 0])) ∧
      (((hears3 5 (touched .stage2 listenClass [listenOf5 0])).stableAt 3 0).approach 5).listen =
        some { session := 1, partner := 3, window := 100 } ∧
      (hears3 5 (touched .stage2 listenClass [listenOf5 0])).exempt listenClass = true ∧
      tierPasses (hears3 5 (touched .stage2 listenClass [listenOf5 0])).btm.tier listenClass.minTier = true ∧
      (hears3 5 (touched .stage2 ClassEntry.powerOn [listenOf5 0])).exempt ClassEntry.powerOn = true) :=
  ⟨⟨⟨rfl, rfl⟩, formsTrigger_of (by decide), by decide, ⟨by decide, by decide, by decide, by decide⟩, by decide, by decide, rfl, by decide⟩,
    by decide, by decide, ⟨by decide, ⟨by decide, by decide, by decide, by decide⟩⟩, by decide, by decide, by decide,
    by constructor <;> decide, by decide, by decide, by decide, by decide⟩
/-- R70, R71: the partner's trigger upgrades the LISTEN session to FULL. -/
theorem test_confirmation_upgrades : next (exec (.wlDebounceEnd 3) (hears3 5 (touched .stage2 listenClass [listenOf5 0])))
    (fun t => t.ssc.sessions.map (fun x => (x.profile, x.remaining, x.listening)) == [(.full, 90000, [])] &&
      (t.approach 5).listen == none) = true := by decide

/-- Six sessions of the classes but C1 and C7. -/
def crowd : List Session := [0, 2, 3, 4, 5, 6].map (fun c : ClassId => sessionOf (20 + c.val) c 0 .full)
/-- `lit` with class C1 given by k and these sessions. -/
def withSessions (k : ClassEntry) (xs : List Session) : State := { lit.setClass 1 k with ssc.sessions := xs }
/-- Section 6.10: C5 CLIMATE is suspendable, C4 TELEMATICS is not, both are disabled now and still have a session. -/
def climate : State :=
  { (door.setClass 5 { ClassEntry.powerOn with priority := 2, suspendable := true }).setClass 4 { ClassEntry.powerOn with priority := 4 } with
    chm.reserve := 600000,
    ssc := { sessions := [{ sessionOf 9 5 0 .full with estimate := 300000, drawn := 120000 },
                          { sessionOf 11 4 0 .full with estimate := 90000, drawn := 40000 }], nextId := 12 } }
/-- Section 6.10: the request in FULL is admitted REDUCED as session 12, which suspends session 9. -/
theorem test_making_room_by_suspension : next (exec (.sessionOpen [1, 1]) climate) (fun t => t.evq.events.drop 1 ==
    [t.recordOf .sessionSuspended 9 12 none, t.recordOf .wakeAdmitted 12 2 (some 299)] && t.headroom [] == 82250) = true := by decide
/-- Section 6.11: C0 ALARM is exclusive, sessions 9 and 14 may yield, 11 and 12 may not. -/
def alarm (waits : Bool) : State :=
  let s := door.setClass 0 { ClassEntry.powerOn with enabled := true, essential := true, exclusive := true, priority := 7, minTier := .cutoff,
                                                     fullDuration := 120, overhead := 217000 }
  let s := (s.setClass 5 { ClassEntry.powerOn with priority := 2, suspendable := true }).setClass 6
    { ClassEntry.powerOn with priority := 3, suspendable := true }
  { s with ssc := { sessions := [if waits then { sessionOf 9 5 0 .full with state := .suspended, suspendedBy := some 12, suspendedFor := some 0 }
                                 else sessionOf 9 5 0 .full,
                                 sessionOf 14 6 0 .full, sessionOf 11 4 0 .full, sessionOf 12 1 0 .full], nextId := 15 } }
/-- Section 6.11: session 9 is suspended, 14 closed PREEMPTED, 15 admitted at 60.3 mAh; with 9 SUSPENDED before, only the others follow. -/
theorem test_exclusive_alarm :
    next (exec (.sessionOpen [0, 1]) (alarm false)) (fun t => t.evq.events.drop 1 == [t.recordOf .sessionSuspended 9 15 none,
      t.recordOf .sessionClosed 14 5 (some 0), t.recordOf .wakeAdmitted 15 1 (some 603)]) = true ∧
    next (exec (.sessionOpen [0, 1]) (alarm true)) (fun t => t.evq.events.drop 1 == [t.recordOf .sessionClosed 14 5 (some 0),
      t.recordOf .wakeAdmitted 15 1 (some 603)]) = true := by decide
/-- R96, R97: with session 11 SUSPENDED before, 9 and 14 are both closed, the one of lower class priority first; sessions 9 and 14 are of
the classes of priority 2 and 3, and then of 3 and 2. -/
theorem test_exclusive_closes_in_candidate_order (swap : Bool) :
    let s := { alarm false with ssc.sessions := (alarm false).ssc.sessions.map (fun x =>
      if x.id = 11 then { x with state := .suspended, suspendedBy := some 12, suspendedFor := some 0 }
      else if swap && x.id = 9 then { x with cls := 6 } else if swap && x.id = 14 then { x with cls := 5 } else x) }
    next (exec (.sessionOpen [0, 1]) s) (fun t => t.evq.events.drop 1 ==
      (if swap then [t.recordOf .sessionClosed 14 5 (some 0), t.recordOf .sessionClosed 9 5 (some 0)]
        else [t.recordOf .sessionClosed 9 5 (some 0), t.recordOf .sessionClosed 14 5 (some 0)]) ++ [t.recordOf .wakeAdmitted 15 1 (some 603)]) = true := by
  cases swap <;> decide
/-- R103: with the counter at 255, which session 255 holds, and session 1 in the table, the new session is given id 2, and the counter then
stands at 3. -/
theorem test_ids_wrap : next (exec (.sessionOpen [1, 2])
    { door with ssc.sessions := [sessionOf 255 5 0 .full, sessionOf 1 6 0 .full], ssc.nextId := 255, chm.reserve := 9000000 }) (fun t =>
      t.ssc.sessions.map Session.id == [255, 1, 2] && t.ssc.nextId == 3) = true := by decide
/-- Section 6.9: at 180,000 mAs of headroom FULL at 546,500 mAs does not fit and REDUCED does: ACCEPTED in REDUCED at 29.9 mAh. -/
theorem test_full_falls_back : next (exec (.sessionOpen [1, 1]) door) (fun t =>
    t.evq.events.drop 1 == [t.recordOf .wakeAdmitted 1 2 (some 299)] &&
    ((t.lnk.reply.getD []).drop 4).take 5 == [0x01, 1, 2, 1, 43]) = true := by decide
/-- The clauses: an index and a profile out of range, a class without REDUCED, DRIVE, and the refusals in their order; admitted as asked for, of
an exclusive class with nobody to yield too, and in REDUCED for FULL. -/
theorem meets_SessionIsOpened :
    (7 < (8 : Byte).toNat ∧ (0 : Byte).toNat = 0 ∧ 2 < (3 : Byte).toNat ∧ (lit.cls 1).reduced = none) ∧
    (Listening (door.setClass 1 { access with exclusive := true }) ∧ (door.setClass 1 { access with exclusive := true }).yielding 6 = []) ∧
    (door.mdc.mode = .parked ∧ (door.cls 1).essential = false ∧ door.headroom [] < door.profileCost (door.cls 1) .full ∧
      door.profileCost (door.cls 1) .reduced ≤ door.headroom []) ∧
    (Listening (litIn .drive) ∧ (litIn .drive).mdc.mode = .drive) ∧
    (Listening lit ∧ lit.mdc.mode ≠ .drive ∧ (lit.cls 1).enabled = false ∧ lit.roomFor 1) ∧
    (Listening { withSessions access [] with btm.tier := .critical } ∧ access.enabled = true ∧ access.minTier.code < Tier.critical.code) ∧
    (Listening (withSessions access crowd) ∧ access.essential = false ∧ (withSessions access crowd).sessionOf? 1 = none ∧
      6 ≤ (withSessions access crowd).ssc.sessions.length) ∧
    (Listening { door with chm.reserve := 0 } ∧ door.sessionOf? 1 = none ∧ door.mdc.mode = .parked ∧ { door with chm.reserve := 0 }.yielding 6 = [] ∧
      ∀ p ∈ profilesTried (door.cls 1) .full, { door with chm.reserve := 0 }.headroom [] < { door with chm.reserve := 0 }.profileCost
        (door.cls 1) p) ∧
    (Listening door ∧ door.mdc.mode ≠ .drive ∧ Admissible door 1 ∧ (door.cls 1).reduced.isSome = true ∧ (door.cls 1).exclusive = false ∧
      door.fits (door.cls 1) (door.profileCost (door.cls 1) .reduced) = true ∧ door.roomFor 1) :=
  ⟨by decide, ⟨listening_of (by decide), by decide⟩, by decide, ⟨listening_of (by decide), by decide⟩,
    ⟨lit_listening, by decide, by decide, rfl, by decide⟩, ⟨listening_of (by decide), by decide, by decide⟩, ⟨listening_of (by decide), by decide, by decide, by decide⟩,
    ⟨listening_of (by decide), by decide, by decide, by decide, by decide⟩,
    listening_of (by decide), by decide, ⟨by decide, by decide, by decide, by decide⟩, by decide, by decide, by decide, rfl, by decide⟩
/-- The clauses: eviction, charge-triggered suspension, an exclusive class with the slot free and with it taken. -/
theorem meets_RoomIsMadeForASession :
    (Listening (withSessions { access with essential := true } crowd) ∧ SessionsSound (withSessions { access with essential := true } crowd) ∧
      (withSessions { access with essential := true } crowd).ranksFirst (sessionOf 20 0 0 .full) (crowd.filter (fun y =>
        !((withSessions { access with essential := true } crowd).cls y.cls).essential)) ∧
      (∀ y ∈ crowd, y.suspendedBy ≠ some 20) ∧ (withSessions { access with essential := true } crowd).roomFor 2) ∧
    (Listening climate ∧ SessionsSound climate ∧ climate.mdc.mode = .parked ∧ climate.headroom [] < climate.profileCost (climate.cls 1) .reduced ∧
      (∀ y ∈ climate.ssc.sessions, y.active = true) ∧
      climate.yielding 6 = [{ sessionOf 9 5 0 .full with estimate := 300000, drawn := 120000 }] ∧
      climate.profileCost (climate.cls 1) .reduced ≤ climate.headroom [9]) ∧
    (Listening (alarm false) ∧ SessionsSound (alarm false) ∧ (∀ y ∈ (alarm false).ssc.sessions, y.active = true) ∧
      (alarm false).sessionOf? 0 = none ∧ (alarm false).fits ((alarm false).cls 0) 217000 = true ∧
      (alarm false).ranksFirst (sessionOf 9 5 0 .full) ((alarm false).yielding 7) ∧ (alarm false).roomFor 7 ∧
      ∀ x ∈ (alarm false).yielding 7, ∀ y ∈ (alarm false).ssc.sessions, y.suspendedBy ≠ some x.id) ∧
    (Listening (alarm true) ∧ SessionsSound (alarm true) ∧ (∃ y ∈ (alarm true).ssc.sessions, y.active = false) ∧
      (alarm true).yielding 7 = [sessionOf 14 6 0 .full] ∧ ∀ y ∈ (alarm true).ssc.sessions, y.suspendedBy ≠ some 14) :=
  ⟨⟨listening_of (by decide), by constructor <;> decide, ⟨[], crowd.drop 1, by decide, by decide, by decide⟩, by decide, rfl, by decide⟩,
    ⟨listening_of (by decide), by constructor <;> decide, by decide, by decide, by decide, by decide, by decide⟩,
    ⟨listening_of (by decide), by constructor <;> decide, by decide, by decide, by decide,
      ⟨[], [sessionOf 14 6 0 .full], by decide, by decide, by decide⟩, ⟨rfl, by decide⟩, by decide⟩,
    listening_of (by decide), by constructor <;> decide, by decide, by decide, by decide⟩
/-- `door` with the session of section 7.8, active or SUSPENDED, and this reserve. -/
def grown (active : Bool) (reserve : Nat) : State :=
  { door with chm.reserve := reserve,
              ssc.sessions := [if active then sessionOf 12 1 0b0111010 .reduced
                else { sessionOf 12 1 0b0111010 .reduced with state := .suspended, suspendedFor := some 0 }] }
/-- `door` with one session of C1, this reserve. -/
def holding (x : Session) (reserve : Nat) : State := { door with chm.reserve := reserve, ssc.sessions := [x] }
/-- The clauses, by the session of C1 that is there: REDUCED asked for REDUCED, with nothing to add, 20 s that fit, and 20 s that do not;
SUSPENDED; REDUCED asked for FULL that fits; LISTEN upgraded, in REDUCED for FULL, after a suspension, and refused. -/
theorem meets_RequestsAreCoalesced :
    let x := sessionOf 12 1 0b0111010 .reduced
    let y := { x with remaining := 25000 }
    let l := { sessionOf 12 1 0 .listen with listening := [5], estimate := 0 }
    (Listening (holding x 0) ∧ SessionsSound (holding x 0) ∧ (holding x 0).sessionOf? 1 = some x ∧
      tierPasses (holding x 0).btm.tier ((holding x 0).cls 1).minTier = true) ∧
    min 45000 (300000 - x.elapsed) - x.remaining = 0 ∧
    (min 45000 (300000 - y.elapsed) - y.remaining = 20000 ∧ (holding y 900000).fits ((holding y 900000).cls 1) 47000 = true ∧
      (holding y 0).fits ((holding y 0).cls 1) 47000 = false) ∧
    (let z : Session := { y with state := .suspended, suspendedBy := some 7, suspendedFor := some 0 };
      SessionsSound (holding z 0) ∧ (holding z 0).sessionOf? 1 = some z ∧ z.active = false) ∧
    (holding x 9000000).fits ((holding x 9000000).cls 1) ((holding x 9000000).widenCost access x) = true ∧
    (Listening (holding l 9000000) ∧ SessionsSound (holding l 9000000) ∧ l.active = true ∧
      (holding l 9000000).profileCost ((holding l 9000000).cls 1) .reduced ≤ (holding l 9000000).headroom [12] ∧
      (∀ p ∈ profilesTried ((holding l 0).cls 1) .full, (holding l 0).headroom [12] < (holding l 0).profileCost ((holding l 0).cls 1) p) ∧
      (holding l 0).yielding 6 = [] ∧ (holding l 0).exempt ((holding l 0).cls 1) = false) ∧
    ((holding l 540000).headroom [12] < (holding l 540000).profileCost ((holding l 540000).cls 1) .full ∧
      (holding l 540000).profileCost ((holding l 540000).cls 1) .reduced ≤ (holding l 540000).headroom [12]) ∧
    (let y := { sessionOf 9 5 0 .full with estimate := 300000, drawn := 120000 };
      let s := { climate with ssc.sessions := [y, l] };
      Listening s ∧ SessionsSound s ∧ s.sessionOf? 1 = some l ∧ s.yielding 6 = [y] ∧ (∀ z ∈ s.ssc.sessions, z.active = true) ∧
        s.headroom [12] < s.profileCost (s.cls 1) .reduced ∧ s.profileCost (s.cls 1) .reduced ≤ s.headroom [9, 12] ∧
        profilesTried (s.cls 1) .reduced = [.reduced]) :=
  ⟨⟨listening_of (by decide), by constructor <;> decide, by decide, by decide⟩, by decide, by decide,
    ⟨by constructor <;> decide, by decide, by decide⟩, by decide,
    ⟨listening_of (by decide), by constructor <;> decide, by decide, by decide, by decide, by decide, by decide⟩, by decide,
    listening_of (by decide), by constructor <;> decide, by decide, by decide, by decide, by decide, by decide, rfl⟩
/-- Section 7.8: 20 s more for a REDUCED session asked for REDUCED: LENGTHENED with 20. -/
theorem test_lengthening : next (exec (.sessionOpen [1, 2]) (holding { sessionOf 12 1 0b0111010 .reduced with remaining := 25000 } 900000))
    (fun t => t.evq.events.drop 1 == [t.recordOf .wakeCoalesced 12 0 (some 20)]) = true := by decide
/-- Session 12 of C1 and session 9 of C5, which waits for it. -/
def waiting (reserve : Nat) : State :=
  { climate with chm.reserve := reserve,
                 ssc.sessions := [{ sessionOf 9 5 0 .full with state := .suspended, suspendedBy := some 12, suspendedFor := some 0 },
                                  sessionOf 12 1 0 .reduced], adm.classes := climate.adm.classes.set 5 { climate.cls 5 with overhead := 1 } }
/-- R121, R122: with the suspender gone session 9 comes back, or at a headroom below its cost of 1 mAs is refused. -/
theorem test_suspended_session_comes_back :
    next (exec (.sessionRelease [12, 0]) (waiting 600000)) (fun t => t.evq.events.drop 1 ==
      [t.recordOf .sessionClosed 12 0 (some 0), t.recordOf .sessionResumed 9 12 none]) = true ∧
    next (exec (.sessionRelease [12, 0]) (waiting 0)) (fun t => t.ssc.sessions == [] && t.evq.events.drop 1 ==
      [t.recordOf .sessionClosed 12 0 (some 0), t.recordOf .sessionClosed 9 6 (some 0)]) = true := by decide
theorem meets_SuspendedSessionComesBack : Listening (waiting 600000) ∧ Listening (waiting 0) ∧ SessionsSound (waiting 600000) ∧
    SessionsSound (waiting 0) ∧ (∀ y ∈ (waiting 0).ssc.sessions, y.suspendedBy = some 12 → y.id = 9) ∧
    (∃ x ∈ (waiting 0).ssc.sessions, x.active = false ∧ x.suspendedBy = some 12) ∧
    (1 ≤ ((waiting 600000).without [sessionOf 12 1 0 .reduced]).headroom [] ∧
      ((waiting 0).without [sessionOf 12 1 0 .reduced]).headroom [] < 1) :=
  ⟨listening_of (by decide), listening_of (by decide), by constructor <;> decide, by constructor <;> decide, by decide, by decide, by decide⟩
/-- The clauses: id 0, no session, no seconds, no charge, granted, SUSPENDED. -/
theorem meets_SessionIsExtended : (Listening (grown true 540000) ∧ (grown true 540000).session? 13 = none) ∧
    (∃ x, (grown true 540000).session? 12 = some x ∧ x.active = true ∧
      (grown true 540000).fits ((grown true 540000).cls x.cls) ((grown true 540000).sumCurrent x.set * 3) = true) ∧
    (Listening (grown true 0) ∧ ∃ x, (grown true 0).session? 12 = some x ∧ x.active = true ∧
      (grown true 0).fits ((grown true 0).cls x.cls) ((grown true 0).sumCurrent x.set * 1) = false) ∧
    (Listening (grown false 0) ∧ ∃ x, (grown false 0).session? 12 = some x ∧ x.active = false) :=
  ⟨⟨listening_of (by decide), by decide⟩, ⟨_, rfl, by decide, by decide⟩, ⟨listening_of (by decide), _, rfl, by decide, by decide⟩,
    listening_of (by decide), _, rfl, by decide⟩
/-- `grown` with line 2, the origin of session 12, enabled with this nuisance limit. -/
def fromLine2 (limit : Nat) : State := (grown true 540000).updLine 2 (fun y => { y with entry.enabled := true, entry.nuisanceLimit := limit })
/-- R116, R62: the SPURIOUS release is the first count, which reaches a limit of 1 and mutes line 2 after the closing. -/
theorem test_spurious_release_mutes : next (exec (.sessionRelease [12, 1]) (fromLine2 1)) (fun t => t.ssc.sessions == [] &&
    (t.evq.events.drop 1).map Event.kind == [.sessionClosed, .lineMuted] && (t.line 2).mute.isSome) = true := by decide
/-- The clauses: id 0, a verdict of 2, an id of no session; session 12 of origin line 2, which is enabled, at its limit and not; in CUTOFF a
domain up for session 12 whose child is LATCHED; and a SUSPENDED session of a class with a suspension limit. -/
theorem meets_SessionCloses :
    (1 < (2 : Byte).toNat ∧ ∀ x ∈ (grown true 540000).ssc.sessions, x.id ≠ (13 : Byte).toNat) ∧
    (∃ x, (grown true 540000).session? 12 = some x ∧ x.id = 12 ∧ x.active = true ∧ x.profile ≠ .listen ∧ x.origin = .line 2 ∧
      (∀ y ∈ (grown true 540000).ssc.sessions, y.suspendedBy ≠ some 12)) ∧
    Listening (grown true 540000) ∧ Ready (grown true 540000) ∧ (grown true 540000).roomFor 2 ∧
    (Listening (fromLine2 1) ∧ ((fromLine2 1).line 2).entry.enabled = true ∧ ((fromLine2 1).line 2).mute = none ∧
      ((fromLine2 1).line 2).atLimit ∧ ¬ ((fromLine2 2).line 2).atLimit) ∧
    (let s := chain .cutoff 0b1001 .on .latched 0 0;
      Listening s ∧ PowerSound s ∧ RampSound s ∧ s.session? 12 = some (sessionOf 12 1 0b1001 .full) ∧ (s.dom 4).entry.parent = some 3 ∧
      (s.dom 4).state = .latched ∧ (s.dom 3).state = .on ∧ { s with ssc.sessions := [] }.sessionDemands 3 = false) ∧
    (Ready { lit with ssc.sessions := [outstayed], adm.classes := lit.adm.classes.set 1 { access with suspensionLimit := 1 } } ∧
      { lit with ssc.sessions := [outstayed] }.session? 2 = some outstayed ∧ outstayed.active = false) :=
  ⟨by decide, ⟨_, rfl, by decide, by decide, by decide, by decide, by decide⟩, listening_of (by decide), ⟨rfl, rfl⟩, ⟨rfl, by decide⟩,
    ⟨listening_of (by decide), by decide, by decide, by unfold Line.atLimit; decide, by unfold Line.atLimit; decide⟩,
    ⟨listening_of (by decide), ⟨by constructor <;> decide, by unfold TreeSound; decide, by constructor <;> decide⟩, rampSound_of (by decide),
      by decide, by decide, by decide, by decide, by decide⟩,
    ⟨rfl, rfl⟩, by decide, by decide⟩

/-! Meter, schedule, clock -/

/-- `lit` in this mode at this tier, one reading before each confirmation. -/
def beforeStep (m : Mode) (tier : Tier) : State := { litIn m with btm := { Btm.powerOn with tier := tier, fall := 7, rise := 39 } }
/-- PARKED with this reserve, a session at its cap of 1 mAh and one that is far from its cap. -/
def metered (reserve : Nat) : State :=
  { ((litIn .parked).setClass 1 { access with chargeCap := 1 }).setClass 2 { access with chargeCap := 100 } with
    chm.reserve := reserve, ssc.sessions := [{ sessionOf 12 1 0 .full with drawn := 3600 }, sessionOf 13 2 0 .full] }
/-- R136, R131: the one closes CAP with 1.0 mAh; then the reserve's fall to 0 is recorded, METERED, and the other closes RESERVE. -/
theorem test_sample_closes : next (exec (.sample 4000 13000) (metered 1)) (fun t => t.ssc.sessions == [] && t.chm.reserve == 0 &&
    t.evq.events.drop 1 == [t.recordOf .sessionClosed 12 2 (some 10), t.recordOf .reserveExhausted 2 0 none,
      t.recordOf .sessionClosed 13 3 (some 0)]) = true := by decide
/-- The clauses: both kinds of sample, each mode, a charge to share and none, a cap reached, the reserve exhausted, each reading. -/
theorem meets_SampleIsTaken : (Ready lit ∧ lit.chm.earlyDue = false) ∧ { lit with chm.earlyDue := true }.chm.earlyDue = true ∧
    ((litIn .parked).mdc.mode = .parked ∧ (litIn .drive).mdc.mode = .drive ∧ ∀ l, ((litIn .cutoff).line l).act ≠ .pending) ∧
    ((car [0, 9]).mdc.mode = .parked ∧ 100 - (car [0, 9]).chm.baseline ≠ 0 ∧ (car [0, 9]).weight ≠ 0) ∧
    (100 - (litIn .parked).chm.baseline ≠ 0 ∧ (litIn .parked).weight = 0) ∧
    (SessionsSound (metered 1) ∧ (∃ x ∈ (metered 1).ssc.sessions, (metered 1).capped 4000 (metered 1).chm.period x) ∧ (metered 1).roomFor 7 ∧
      (metered 1).exhausts 4000 (metered 1).chm.period ∧
      ∃ x ∈ (metered 1).ssc.sessions, ((metered 1).cls x.cls).essential = false ∧ ¬ (metered 1).capped 4000 (metered 1).chm.period x) ∧
    (RangesSound lit ∧ lit.btm.tier = .normal ∧ 11999 < lit.btm.conserve ∧ lit.btm.fall + 1 < lit.btm.fallConfirm) ∧
    (RangesSound (beforeStep .parked .cutoff) ∧ (beforeStep .parked .cutoff).btm.cutoff + (beforeStep .parked .cutoff).btm.hysteresis ≤ 11300 ∧
      (beforeStep .parked .normal).btm.fall + 1 = (beforeStep .parked .normal).btm.fallConfirm ∧
      (beforeStep .parked .cutoff).btm.rise + 1 = (beforeStep .parked .cutoff).btm.riseConfirm) :=
  ⟨⟨lit_ready, rfl⟩, by decide, by decide, by decide, by decide,
    ⟨by constructor <;> decide, by unfold State.capped; decide, ⟨rfl, by decide⟩, by unfold State.exhausts; decide, by unfold State.capped; decide⟩,
    ⟨by constructor <;> decide, by decide⟩, by constructor <;> decide, by decide⟩
/-- R148, R149: the step into CUTOFF and the recovery from it, at the thresholds' own boundaries. -/
theorem test_tier_steps_move_the_mode :
    next (exec (.sample 0 10999) (beforeStep .parked .critical)) (fun t => t.mdc.mode == .cutoff && !t.mdc.alwaysHold &&
      t.evq.events.drop 1 == [t.recordOf .tierChanged 3 2 (some 10999), t.recordOf .modeChanged 3 4 none]) = true ∧
    next (exec (.sample 0 11300) (beforeStep .cutoff .cutoff)) (fun t => t.mdc.mode == .parked && t.mdc.alwaysHold &&
      t.evq.events.drop 1 == [t.recordOf .tierChanged 2 3 (some 11300), t.recordOf .modeChanged 2 5 none]) = true := by decide
/-- PARKED at NORMAL one reading before CONSERVE, with a session of class 2, whose minimum tier is NORMAL. -/
def belowTier : State :=
  { (beforeStep .parked .normal).setClass 2 { access with minTier := .normal, essential := true } with ssc.sessions := [sessionOf 13 2 0 .full] }
/-- R147: the step to CONSERVE closes the session TIER after its own record. -/
theorem test_tier_step_closes : next (exec (.sample 0 11999) belowTier) (fun t => t.ssc.sessions == [] &&
    t.evq.events.drop 1 == [t.recordOf .tierChanged 1 0 (some 11999), t.recordOf .sessionClosed 13 4 (some 0)]) = true := by decide
/-- The steps that the clauses name: down and up, in HANDOVER, PARKED, CUTOFF and DRIVE; a session below the new tier. -/
theorem meets_TierStepsAreTaken :
    (Ready belowTier ∧ SessionsSound belowTier ∧ belowTier.roomFor 8 ∧ next (exec (.sample 0 11999) belowTier)
      (fun t => t.btm.tier == .conserve) = true ∧ ∃ x ∈ belowTier.ssc.sessions, (belowTier.cls x.cls).minTier.code < Tier.conserve.code ∧
      ¬ belowTier.capped 0 belowTier.chm.period x ∧ (belowTier.cls x.cls).essential = true) ∧
    (Ready (beforeStep .parked .critical) ∧ (beforeStep .parked .critical).chm.earlyDue = false ∧ (beforeStep .parked .critical).roomFor 9 ∧
      SessionsSound (beforeStep .parked .critical) ∧ RampSound (beforeStep .parked .critical)) ∧
    next (exec (.sample 0 10999) (beforeStep .handover .critical)) (fun t => t.btm.tier == .cutoff) = true ∧
    next (exec (.sample 0 11300) (beforeStep .cutoff .cutoff)) (fun t => t.btm.tier == .critical) = true ∧
    next (exec (.sample 0 11599) (beforeStep .parked .conserve)) (fun t => t.btm.tier == .critical) = true ∧
    next (exec (.sample 0 11999) (beforeStep .drive .normal)) (fun t => t.btm.tier == .conserve) = true ∧
    (Ready { beforeStep .parked .critical with chm.earlyDue := true } ∧ { beforeStep .parked .critical with chm.earlyDue := true }.chm.earlyDue = true ∧
      next (exec (.periodChangeSample 0 10999) { beforeStep .parked .critical with chm.earlyDue := true })
        (fun t => t.btm.tier == .cutoff && t.mdc.mode == .cutoff) = true) :=
  ⟨⟨⟨rfl, rfl⟩, by constructor <;> decide, ⟨rfl, by decide⟩, by decide, by unfold State.capped; decide⟩,
    ⟨⟨rfl, rfl⟩, rfl, ⟨rfl, by decide⟩, by constructor <;> decide, rampSound_of (by decide)⟩, by decide, by decide, by decide, by decide,
    ⟨rfl, rfl⟩, rfl, by decide⟩
theorem meets_SharesComeToTheExcess : 0 < 4047 ∧ 0 < (car [0, 9]).weight := by decide
/-- Thresholds and counts at their bounds, and one below; I_q 2,000 and 2,001 mA. -/
theorem meets_MeterAndTierSettingsAreTaken : Listening lit ∧ lit.writable ∧
    (8000 ≤ nat16 0x1F 0x40 ∧ nat16 0x1F 0x40 < nat16 0x1F 0x41 ∧ nat16 0x1F 0x41 < nat16 0x3A 0x98 ∧ nat16 0x3A 0x98 ≤ 15000 ∧
      1 ≤ (32 : Byte).toNat ∧ (32 : Byte).toNat ≤ 32 ∧ 1 ≤ (255 : Byte).toNat) ∧
    ¬ (8000 ≤ nat16 0x1F 0x3F) ∧ nat16 0x07 0xD0 ≤ 2000 ∧ 2000 < nat16 0x07 0xD1 := ⟨lit_listening, lit_writable, by decide⟩
/-- R131, R138: a fall of the reserve to 0 closes the session of a class that is not essential, RESERVE, after its own record. -/
theorem test_adjusted_to_0 : next (exec (.reserveAdjust [0xFF, 0xFF]) { metered 3600 with ssc.sessions := [sessionOf 13 2 0 .full] })
    (fun t => t.ssc.sessions == [] && t.evq.events.drop 1 ==
      [t.recordOf .reserveExhausted 2 1 none, t.recordOf .sessionClosed 13 3 (some 0)]) = true := by decide
theorem meets_ReserveIsAdjusted : (SessionsSound (metered 3600) ∧ Listening (metered 3600) ∧ (metered 3600).roomFor 3) ∧
    (Listening (litIn .drive) ∧ (litIn .drive).mdc.mode = .drive) ∧
    (Listening lit ∧ lit.mdc.mode = .handover ∧ lit.chm.reserve = 0) ∧
    (Listening { lit with chm.reserve := 3600 } ∧ (3600 : Int) + ((0xFF : Byte) ++ (0xFF : Byte) : BitVec 16).toInt * 3600 = 0) :=
  ⟨⟨by constructor <;> decide, listening_of (by decide), rfl, by decide⟩, ⟨listening_of (by decide), by decide⟩,
    ⟨lit_listening, by decide⟩, listening_of (by decide), by decide⟩
/-- An entry with this due time and flags, its lateness limit 0. -/
def addBytes (id due flags : Byte) : List Byte := [id, 0, 0, 0, due, 0, 0, 0, 0, 0, 0, 0, flags]
/-- The device at part second 50, in this mode, with this Schedule. -/
def at50 (m : Mode) (es : List SchedEntry) : State := { litIn m with wsc.seconds := 50, wsc.sched := es }
theorem meets_ScheduleEntryIsAdded :
    (Listening (at50 .parked []) ∧ (at50 .parked []).lnk.linkFault = false ∧ readSchedEntry (addBytes 0 9 0) = none) ∧
    (∃ e, readSchedEntry (addBytes 3 49 0) = some e ∧ e.due + e.lateness < (at50 .parked []).wsc.seconds ∧ e.period = 0 ∧
      ∃ x ∈ (at50 .parked [entry3]).wsc.sched, x.id = e.id) ∧
    (∃ e, readSchedEntry (addBytes 3 51 0) = some e ∧ (at50 .parked []).wsc.seconds < e.due ∧
      (∀ x ∈ (List.replicate 16 { entry3 with id := 4 } : List SchedEntry), x.id ≠ e.id)) ∧
    (Listening (at50 .drive []) ∧ (∃ e, readSchedEntry (addBytes 3 50 0) = some e ∧ e.due ≤ 50 ∧ e.skipInDrive = false) ∧
      (∃ e, readSchedEntry (addBytes 3 50 1) = some e ∧ e.due ≤ 50 ∧ e.skipInDrive = true ∧ e.period = 0)) ∧
    (at50 .parked []).roomFor 2 ∧
    (let s := (at50 .parked []).setClass 0 { ClassEntry.powerOn with enabled := true };
      Listening s ∧ (∃ e, readSchedEntry (addBytes 3 50 0) = some e ∧ e.due ≤ 50 ∧ 50 - e.due ≤ e.lateness ∧ e.period = 0 ∧ e.cls = 0) ∧
      Admissible s 0 ∧ (s.cls 0).exclusive = false ∧ s.fits (s.cls 0) (s.profileCost (s.cls 0) .full) = true ∧
      ((at50 .parked []).cls 0).enabled = false) :=
  ⟨⟨listening_of (by decide), by decide, by decide⟩, ⟨_, rfl, by decide, by decide, by decide⟩, ⟨_, rfl, by decide, by decide⟩,
    ⟨listening_of (by decide), ⟨_, rfl, by decide, by decide⟩, _, rfl, by decide, by decide, by decide⟩, ⟨rfl, by decide⟩,
    listening_of (by decide), ⟨_, rfl, by decide, by decide, by decide, by decide⟩, ⟨by decide, by decide, by decide, by decide⟩, by decide,
    by decide, by decide⟩
theorem meets_ScheduleIsCancelledAndListed : Listening (at50 .parked [entry3]) ∧
    (∃ e ∈ (at50 .parked [entry3]).wsc.sched, e.id = (3 : Byte).toNat) ∧
    (∀ e ∈ (at50 .parked [entry3]).wsc.sched, e.id ≠ (4 : Byte).toNat) ∧ 15 < (16 : Byte).toNat ∧ (15 : Byte).toNat ≤ 15 :=
  ⟨listening_of (by decide), by decide, by decide, by decide, by decide⟩
/-- The clauses: nothing due; due in DRIVE and held; a single occurrence; a repeating entry, and one without a next due time; missed; and
firing, for a disabled class, for one whose tier is not reached and for one that admits. -/
theorem meets_ClockMovesTheSchedule :
    (Listening (at50 .parked [entry3]) ∧ (at50 .parked [entry3]).lnk.linkFault = false ∧ ScheduleSound (at50 .parked [entry3]) ∧
      ∀ e ∈ (at50 .parked [entry3]).wsc.sched, nat32 0 0 3 231 < e.due) ∧
    (Ready (at50 .parked [entry3]) ∧ (∀ e ∈ (at50 .parked [entry3]).wsc.sched, e.due ≠ 51)) ∧
    (ScheduleSound (at50 .parked [{ entry3 with due := 51, period := 0 }]) ∧ (at50 .parked []).mdc.mode ≠ .drive) ∧
    ((at50 .drive [entry3]).mdc.mode = .drive ∧ entry3.skipInDrive = false ∧ entry3.due ≤ nat32 0 0 3 232) ∧
    (entry3.due + ((4750 - entry3.due) / entry3.period + 1) * entry3.period = 5200 ∧
      entry3.lateness < 4750 - (entry3.due + (4750 - entry3.due) / entry3.period * entry3.period) ∧ (at50 .parked [entry3]).roomFor 1) ∧
    4294967295 < 4294967000 + ((4294967000 - 4294967000) / 600 + 1) * 600 ∧
    (let s := (at50 .parked [entry3]).setClass 0 { ClassEntry.powerOn with enabled := true };
      Listening s ∧ Admissible s 0 ∧ s.yieldsNone (s.cls 0) ∧ s.fits (s.cls 0) (s.profileCost (s.cls 0) .full) = true ∧
      4700 - (entry3.due + (4700 - entry3.due) / entry3.period * entry3.period) ≤ entry3.lateness ∧ s.roomFor 2 ∧
      ((at50 .parked [entry3]).cls 0).enabled = false ∧ ClassEntry.powerOn.minTier.code < Tier.cutoff.code) :=
  ⟨⟨listening_of (by decide), by decide, by constructor <;> decide, by decide⟩, ⟨⟨rfl, rfl⟩, by decide⟩,
    ⟨by constructor <;> decide, by decide⟩, by decide, ⟨by decide, by decide, rfl, by decide⟩, by decide,
    listening_of (by decide), ⟨by decide, by decide, by decide, by decide⟩, .inl rfl, by decide, by decide, ⟨rfl, by decide⟩, by decide, by decide⟩
/-- R161: in DRIVE the entry of section 10.6 is held PENDING, its due time kept. -/
theorem test_entry_waits_in_drive : next (exec (.clockSet [0, 0, 0x12, 0x8E]) (at50 .drive [entry3]))
    (fun t => t.wsc.sched == [{ entry3 with pending := true }]) = true := by decide
/-- `lit` in this ATTN mode with these records and this pulse, line 3's mute running out. -/
def pulsing (mode : AttnMode) (records : Nat) (pulse : Option Nat) : State :=
  { litLine (fun x => { x with mute := some 0 }) with
    evq := { lit.evq with events := List.replicate records (lit.recordOf .modeChanged 0 0 none), attnMode := mode, pulse := pulse } }
/-- R172: a kept record starts the pulse again; with the queue empty before it raises ATTN; dropped at 24 it starts none. -/
theorem test_records_pulse :
    next (exec (.muteExpiry 3) (pulsing .pulse 1 (some 0))) (fun t => t.evq.pulse == some 1 && !t.evq.attn) = true ∧
    next (exec (.muteExpiry 3) (pulsing .pulse 0 none)) (fun t => t.evq.pulse == none && t.evq.attn) = true ∧
    next (exec (.muteExpiry 3) (pulsing .pulse 24 none)) (fun t => t.evq.pulse == none && t.evq.lost == 1) = true := by decide
/-- A queued domain 4 whose parent is LATCHED, not yet reported, comes with the pulse's end (R25). -/
def blocked4 : State :=
  ((pulsing .pulse 1 (some 1)).updDom 3 (fun x => { x with entry := entryOf none 0 3, state := .latched, attempts := 3 })).updDom 4 (fun x =>
    { x with entry := { (entryOf (some 3) 0 3) with alwaysOn := true } })
/-- The clauses: a queue with room and a full one; the condition held and not held, the record dropped, LEVEL mode; the read that leaves
records and its reply's end; the pulse's end alone, and with a record. -/
theorem meets_RecordsAndPulsesKeepTheirRules :
    (lit.evq.events.length < 24 ∧ (pulsing .level 24 none).evq.events.length = 24) ∧
    (Ready (pulsing .pulse 1 (some 0)) ∧ ((pulsing .pulse 1 (some 0)).line 3).mute = some 0 ∧ ((pulsing .pulse 1 (some 0)).dom 0).state = .on ∧
      (pulsing .pulse 1 (some 0)).evq.events ≠ [] ∧ (pulsing .pulse 0 none).evq.events = [] ∧ (pulsing .pulse 0 none).lnk.linkFault = false ∧
      (pulsing .pulse 24 none).evq.policy = .keepOldest) ∧
    (Listening (pulsing .pulse 3 none) ∧ 1 ≤ (1 : Byte).toNat ∧ (8 : Byte).toNat ≤ 8) ∧
    (let s := { pulsing .pulse 2 none with lnk.reply := some [], evq.readPulse := true };
      Ready s ∧ s.lnk.reply.isSome = true ∧ s.lnk.inbound = [] ∧ (s.dom 0).state = .on ∧ s.evq.events ≠ []) ∧
    (Ready (pulsing .pulse 1 (some 1)) ∧ (pulsing .pulse 1 (some 1)).evq.pulse = some 1) ∧
    next (exec .attnPulseEnd blocked4) (fun t => t.evq.events.length == 2 && t.evq.pulse == some 1) = true :=
  ⟨by decide, ⟨⟨rfl, rfl⟩, by decide⟩, ⟨listening_of (by decide), by decide⟩, ⟨⟨rfl, rfl⟩, by decide⟩, ⟨⟨rfl, rfl⟩, by decide⟩, by decide⟩

end Sys2Proof.Tests
end

section
/-! The taking of a request that LNK can take at once, up to the owner's part (R177), and CLASS_GET (R82): obligation O45. -/

namespace Sys2Proof.Machine

/-! ### The taking of a request frame -/

/-- The state that the owner of a request sees: the arm flag and the frame-error counter cleared, a reply in progress (R177, R181). -/
def State.taken (s : State) : State := { s with lnk.reply := some [], lnk.armed := false, lnk.frameErrors := 0 }

theorem takeFrame_of_not_resetExec (s : State) {type : Byte} (p : List Byte) (ht : type ≠ 0x7F) :
    s.takeFrame type p = (s.taken.answerFrame type p).1.sendReply (type + 0x80) (s.taken.answerFrame type p).2 := by
  have hr : ¬ (s.lnk.armed && type = 0x7F && p.isEmpty) := by rw [decide_eq_false ht]; simp
  exact if_neg hr

/-- The reply to the taken request is the only change beside what the taking changes. -/
theorem taken_sendReply (s : State) (type : Byte) (r : Result) (w : List Byte) :
    s.taken.sendReply (type + 0x80) { result := r, payload := w } = s.answered type r w := rfl

theorem receive_frame_of_listening {s : State} (h : Listening s) (type : Byte) (p : List Byte) :
    s.receive (.frame type p) = s.takeFrame type p := by
  have harrive : s.arrive (.frame type p) = { s with lnk.inbound := [.frame type p] } := by
    simp [State.arrive, h.empty]
  have hidle : ¬ s.lnk.reply.isSome := by simp [h.silent]
  have hrest : ({ s with lnk.inbound := [] } : State) = s := by rw [← h.empty]
  calc s.receive (.frame type p)
    _ = State.takeNext { s with lnk.inbound := [.frame type p] } := by rw [State.receive, if_pos h.live, harrive]
    _ = State.takeFrame { s with lnk.inbound := [] } type p := if_neg hidle
    _ = s.takeFrame type p := by rw [hrest]

theorem linkRequest_of_listening {s : State} (h : Listening s) (type : Byte) {p : List Byte} (hp : p.length ≤ 48) :
    linkRequest type p s = .next (s.takeFrame type p) := by
  simp [linkRequest, h.awake, receive_frame_of_listening h, Nat.not_lt.2 hp]

/-- A request whose answer leaves the state as it was taken has no effect but its reply. -/
theorem linkRequest_of_unchanged {s : State} (h : Listening s) {type : Byte} {p w : List Byte} {r : Result} (hp : p.length ≤ 48)
    (ht : type ≠ 0x7F) (ha : s.taken.answerFrame type p = (s.taken, { result := r, payload := w })) :
    linkRequest type p s = .next (s.answered type r w) := by
  rw [linkRequest_of_listening h type hp, takeFrame_of_not_resetExec s p ht, ha, taken_sendReply]

/-- A request of its TYPE's length that neither LINK_FAULT nor the lock refuses is carried out by its owner (R177 steps 3 to 6). -/
theorem answerFrame_eq_carryOut (s : State) {type : Byte} {p : List Byte} (hl : requestLength type = some p.length)
    (hf : (s.lnk.linkFault && writesTables type) = false) (hk : s.lockRefuses type p = false) :
    s.answerFrame type p = carryOut s type p := by
  simp [State.answerFrame, hl, hf, hk]

/-! ### Class indices -/

theorem readClass_byte (c : ClassId) : readClass (byte c.val) = some c := by
  have hc : (byte c.val).toNat = c.val := by
    rw [byte, BitVec.toNat_ofNat]
    omega
  simp [readClass, hc]

theorem readClass_eq_none {b : Byte} (h : 7 < b.toNat) : readClass b = none := by
  simp [readClass, Nat.succ_le_of_lt h]

/-! ### CLASS_GET (R82) -/

/-- The id of the class's session in the Session Table, or 0 when the class has none (R82). -/
def State.sessionIdOf (s : State) (c : ClassId) : Nat := match s.sessionOf? c with | some x => x.id | none => 0

theorem reqClassGet_of_some (s : State) {b : Byte} {c : ClassId} (h : readClass b = some c) :
    reqClassGet s [b] = (s, { result := .ok, payload := [byte c.val] ++ classEntryBytes (s.cls c) ++
      [byte (s.sessionIdOf c)] }) := by
  rw [reqClassGet, h]
  rfl

theorem reqClassGet_of_none (s : State) {b : Byte} (h : readClass b = none) :
    reqClassGet s [b] = (s, { result := .badField, payload := [] }) := by
  simp [reqClassGet, refusal, h]

/-- CLASS_GET writes no table and names no protected entry, so LINK_FAULT and the lock let it through (R177 step 4, R180). -/
theorem answerFrame_classGet (s : State) (b : Byte) : s.answerFrame 0x21 [b] = reqClassGet s [b] := by
  have hf : (s.lnk.linkFault && writesTables 0x21) = false := by
    rw [show writesTables 0x21 = false from rfl, Bool.and_false]
  have hk : s.lockRefuses 0x21 [b] = false := by
    simp [State.lockRefuses]
  exact answerFrame_eq_carryOut s rfl hf hk

theorem exec_classGet (s : State) (p : List Byte) : exec (.classGet p) s = linkRequest 0x21 p s := rfl

theorem exec_classGet_of_unchanged {s : State} (h : Listening s) {b : Byte} {r : Result} {w : List Byte}
    (ha : reqClassGet s.taken [b] = (s.taken, { result := r, payload := w })) :
    exec (.classGet [b]) s = .next (s.answered 0x21 r w) := by
  rw [exec_classGet]
  exact linkRequest_of_unchanged h (by simp) (by decide) ((answerFrame_classGet _ b).trans ha)

/-- Settles O45: the index byte is read as its class or, above 7, as none, and the owner's answer leaves the state as it was taken. -/
theorem classGetReportsTheEntry : Obligations.ClassGetReportsTheEntry := by
  intro s h
  constructor
  · intro c
    exact exec_classGet_of_unchanged h (reqClassGet_of_some s.taken (readClass_byte c))
  · intro b hb
    exact exec_classGet_of_unchanged h (reqClassGet_of_none s.taken (readClass_eq_none hb))

end Sys2Proof.Machine
end

section
/-! The shares of a sample's excess (R132, R133): obligation O54. -/

namespace Sys2Proof.Machine

/-! ### The active set and its heaviest domain (R132, R133) -/

/-- Π is in index order, so the first of its domains with a property has the lowest index. -/
theorem activeSet_pairwise_lt (s : State) : s.activeSet.Pairwise (· < ·) :=
  (by decide : domIds.Pairwise (· < ·)).filter _

theorem activeSet_ne_nil_of_weight_pos {s : State} (hw : 0 < s.weight) : s.activeSet ≠ [] := by
  intro hnil
  simp [State.weight, hnil] at hw

theorem heaviest_eq_argmax (s : State) : s.heaviest = s.activeSet.argmax (fun d => (s.dom d).entry.runCurrent) := by
  unfold State.heaviest List.argmax
  congr 1
  funext best d
  cases best <;> rfl

theorem le_of_idxOf_le {l : List DomId} (hl : l.Pairwise (· < ·)) {a b : DomId} (ha : a ∈ l) (hb : b ∈ l)
    (h : l.idxOf a ≤ l.idxOf b) : a ≤ b := by
  rcases h.lt_or_eq with hlt | heq
  · have hget := List.pairwise_iff_getElem.1 hl _ _ (List.idxOf_lt_length_iff.2 ha) (List.idxOf_lt_length_iff.2 hb) hlt
    simpa using hget.le
  · exact ((List.idxOf_inj ha).1 heq).le

/-- R133: a domain of the largest declared current, of several with that current the one with the lowest index. -/
theorem heaviest_eq_some {s : State} (hw : 0 < s.weight) : ∃ h ∈ s.activeSet, s.heaviest = some h ∧
    ∀ d ∈ s.activeSet, (s.dom d).entry.runCurrent < (s.dom h).entry.runCurrent ∨
      ((s.dom d).entry.runCurrent = (s.dom h).entry.runCurrent ∧ h ≤ d) := by
  obtain ⟨h, hh⟩ : ∃ h, s.heaviest = some h := by
    rw [← Option.ne_none_iff_exists', heaviest_eq_argmax, Ne, List.argmax_eq_none]
    exact activeSet_ne_nil_of_weight_pos hw
  obtain ⟨hmem, hmax, hfirst⟩ := List.argmax_eq_some_iff.1 ((heaviest_eq_argmax s).symm.trans hh)
  refine ⟨h, hmem, hh, fun d hd => ?_⟩
  rcases (hmax d hd).lt_or_eq with hlt | heq
  · exact .inl hlt
  · exact .inr ⟨heq, le_of_idxOf_le (activeSet_pairwise_lt s) hmem hd (hfirst d hd heq.ge)⟩

theorem runCurrent_pos_of_heaviest {s : State} (hw : 0 < s.weight) {h : DomId}
    (hmax : ∀ d ∈ s.activeSet, (s.dom d).entry.runCurrent ≤ (s.dom h).entry.runCurrent) : 0 < (s.dom h).entry.runCurrent := by
  by_contra h0
  exact hw.ne' (List.sum_eq_zero (List.forall_mem_map.2 fun d hd => Nat.eq_zero_of_le_zero ((hmax d hd).trans (Nat.le_of_not_lt h0))))

/-! ### The floored shares (R133) -/

/-- The floored shares over all of Π. -/
def State.flooredSum (s : State) (e : Nat) : Nat := (s.activeSet.map (s.flooredShare e)).sum

/-- The exact shares E × I, before they are divided by W, come to E × W. -/
theorem sum_map_mul_runCurrent (s : State) (e : Nat) :
    (s.activeSet.map (fun d => e * (s.dom d).entry.runCurrent)).sum = e * s.weight :=
  List.sum_map_mul_left _ _ _

theorem flooredSum_le (s : State) (e : Nat) (hw : 0 < s.weight) : s.flooredSum e ≤ e := by
  refine Nat.le_of_mul_le_mul_left ?_ hw
  calc s.weight * s.flooredSum e
    _ = (s.activeSet.map (fun d => s.weight * s.flooredShare e d)).sum := (List.sum_map_mul_left _ _ _).symm
    _ ≤ (s.activeSet.map (fun d => e * (s.dom d).entry.runCurrent)).sum := List.sum_le_sum fun _ _ => Nat.mul_div_le _ _
    _ = s.weight * e := by rw [sum_map_mul_runCurrent, Nat.mul_comm]

/-- Each floor loses less than one unit, so together they lose less than the number of domains. -/
theorem lt_flooredSum_add_length (s : State) (e : Nat) (hw : 0 < s.weight) : e < s.flooredSum e + s.activeSet.length := by
  refine Nat.lt_of_mul_lt_mul_left (a := s.weight) ?_
  calc s.weight * e
    _ = (s.activeSet.map (fun d => e * (s.dom d).entry.runCurrent)).sum := by rw [sum_map_mul_runCurrent, Nat.mul_comm]
    _ < (s.activeSet.map (fun d => s.weight * (s.flooredShare e d + 1))).sum :=
      List.sum_lt_sum_of_ne_nil (activeSet_ne_nil_of_weight_pos hw) _ _ fun _ _ => Nat.lt_mul_div_succ _ hw
    _ = s.weight * (s.activeSet.map (fun d => s.flooredShare e d + 1)).sum := List.sum_map_mul_left _ _ _
    _ = s.weight * (s.flooredSum e + s.activeSet.length) := by simp [State.flooredSum, List.sum_map_add]

/-! ### The shares (R133) -/

theorem share_of_heaviest {s : State} {h : DomId} (hh : s.heaviest = some h) (e : Nat) :
    s.share e h = s.flooredShare e h + (e - s.flooredSum e) := by
  rw [State.share, if_pos hh, State.flooredSum]

theorem share_of_not_heaviest {s : State} {h d : DomId} (hh : s.heaviest = some h) (hd : d ≠ h) (e : Nat) :
    s.share e d = s.flooredShare e d := by
  have hne : s.heaviest ≠ some d := by
    rw [hh, Ne, Option.some_inj]
    exact hd.symm
  rw [State.share, if_neg hne, Nat.add_zero]

/-- The remainder is added once, for the heaviest domain stands in Π once. -/
theorem sum_map_share {s : State} {h : DomId} (hmem : h ∈ s.activeSet) (hh : s.heaviest = some h) (e : Nat) :
    (s.activeSet.map (s.share e)).sum = s.flooredSum e + (e - s.flooredSum e) := by
  have honce : s.activeSet.count h = 1 := List.count_eq_one_of_mem (activeSet_pairwise_lt s).nodup hmem
  have hrest : (s.activeSet.map (fun d => if s.heaviest = some d then e - s.flooredSum e else 0)).sum = e - s.flooredSum e := by
    rw [List.sum_map_eq_nsmul_single h _ (fun d hd _ => if_neg (by simpa [hh] using hd.symm)), honce, one_smul, if_pos hh]
  calc (s.activeSet.map (s.share e)).sum
    _ = s.flooredSum e + (s.activeSet.map (fun d => if s.heaviest = some d then e - s.flooredSum e else 0)).sum :=
      List.sum_map_add
    _ = s.flooredSum e + (e - s.flooredSum e) := by rw [hrest]

/-- Settles O54: the floors lose less than one unit each, and the heaviest domain's share takes what they lose. -/
theorem sharesComeToTheExcess : Obligations.SharesComeToTheExcess := by
  intro s e _ hw
  obtain ⟨h, hmem, hh, hmax⟩ := heaviest_eq_some hw
  have hle : s.flooredSum e ≤ e := flooredSum_le s e hw
  have hlt : e < s.flooredSum e + s.activeSet.length := lt_flooredSum_add_length s e hw
  have hsum : (s.activeSet.map (s.share e)).sum = e := (sum_map_share hmem hh e).trans (Nat.add_sub_of_le hle)
  have hrem : e - s.flooredSum e < s.activeSet.length := by omega
  have hpos : 0 < (s.dom h).entry.runCurrent :=
    runCurrent_pos_of_heaviest hw fun d hd => (hmax d hd).elim Nat.le_of_lt fun ⟨heq, _⟩ => heq.le
  exact ⟨hsum, hle, hrem, h, hmem, hpos, hmax, share_of_heaviest hh e, fun d _ hd => share_of_not_heaviest hh hd e⟩

end Sys2Proof.Machine
end

section
/-! SCHED_CANCEL (R156) and SCHED_LIST (R157): obligation O58. -/

namespace Sys2Proof.Machine

/-! ### The entry of an id (R154) -/

theorem entry?_isSome_iff {s : State} {id : Nat} : (s.entry? id).isSome ↔ ∃ e ∈ s.wsc.sched, e.id = id := by
  simp [State.entry?, List.find?_isSome]

/-! ### SCHED_CANCEL (R156) -/

theorem reqSchedCancel_of_zero (s : State) : reqSchedCancel s [0] = (s, { result := .badField, payload := [] }) := rfl

theorem reqSchedCancel_of_absent {s : State} {i : Byte} (hi : i ≠ 0) (h : ∀ e ∈ s.wsc.sched, e.id ≠ i.toNat) :
    reqSchedCancel s [i] = (s, { result := .notFound, payload := [] }) := by
  have hnone : ¬ (s.entry? i.toNat).isSome := by
    rw [entry?_isSome_iff]
    exact fun ⟨e, he, hid⟩ => h e he hid
  rw [reqSchedCancel, if_neg hi, if_neg hnone, refusal]

theorem reqSchedCancel_of_present {s : State} {i : Byte} (hi : i ≠ 0) (h : ∃ e ∈ s.wsc.sched, e.id = i.toNat) :
    reqSchedCancel s [i] = (s.removeEntry i.toNat, { result := .ok, payload := [] }) := by
  rw [reqSchedCancel, if_neg hi, if_pos (entry?_isSome_iff.2 h), okay]

/-! ### SCHED_LIST (R157) -/

theorem reqSchedList_of_gt (s : State) {i : Byte} (h : 15 < i.toNat) :
    reqSchedList s [i] = (s, { result := .badField, payload := [] }) := by
  rw [reqSchedList, if_neg (Nat.not_le.2 h), refusal]

theorem reqSchedList_of_le (s : State) {i : Byte} (h : i.toNat ≤ 15) :
    reqSchedList s [i] = (s, { result := .ok, payload :=
      [byte s.wsc.sched.length, byte (min 4 (s.wsc.sched.length - i.toNat))] ++ be32 s.wsc.seconds ++
        ((s.wsc.sched.drop i.toNat).take 4).flatMap schedEntryBytes }) := by
  have hlen : ((s.wsc.sched.drop i.toNat).take 4).length = min 4 (s.wsc.sched.length - i.toNat) := by
    rw [List.length_take, List.length_drop]
  rw [reqSchedList, if_pos h, ← hlen]

/-! ### Both requests as commands -/

/-- R177 step 4 and R180: neither request is refused by LINK_FAULT or by the lock. -/
theorem answerFrame_schedCancel (s : State) (i : Byte) : s.answerFrame 0x31 [i] = reqSchedCancel s [i] :=
  answerFrame_eq_carryOut s rfl (Bool.and_false _) (by simp [State.lockRefuses])

theorem answerFrame_schedList (s : State) (i : Byte) : s.answerFrame 0x32 [i] = reqSchedList s [i] :=
  answerFrame_eq_carryOut s rfl (Bool.and_false _) (by simp [State.lockRefuses])

/-- A request whose owner turns `s` into `t`, the link's taking of it aside, has the effect of `t` and its reply. -/
theorem linkRequest_of_answerFrame {s t : State} (h : Listening s) {type : Byte} {p w : List Byte} {r : Result} (hp : p.length ≤ 48)
    (ht : type ≠ 0x7F) (ha : s.taken.answerFrame type p = (t.taken, { result := r, payload := w })) :
    linkRequest type p s = .next (t.answered type r w) := by
  rw [linkRequest_of_listening h type hp, takeFrame_of_not_resetExec s p ht, ha, taken_sendReply]

theorem exec_schedCancel_of_req {s t : State} (h : Listening s) {i : Byte} {r : Result} {w : List Byte}
    (ha : reqSchedCancel s.taken [i] = (t.taken, { result := r, payload := w })) :
    exec (.schedCancel [i]) s = .next (t.answered 0x31 r w) :=
  linkRequest_of_answerFrame h (by simp) (by decide) ((answerFrame_schedCancel _ i).trans ha)

theorem exec_schedList_of_req {s : State} (h : Listening s) {i : Byte} {r : Result} {w : List Byte}
    (ha : reqSchedList s.taken [i] = (s.taken, { result := r, payload := w })) :
    exec (.schedList [i]) s = .next (s.answered 0x32 r w) :=
  linkRequest_of_unchanged h (by simp) (by decide) ((answerFrame_schedList _ i).trans ha)

/-- Settles O58: the owner's answer in each case, where the taking of the frame leaves the Schedule and the seconds as they were. -/
theorem scheduleIsCancelledAndListed : Obligations.ScheduleIsCancelledAndListed := by
  intro i s h
  refine ⟨?zero, ?absent, ?present, ?startAbove, ?listed⟩
  case zero =>
    rintro rfl
    exact exec_schedCancel_of_req h (reqSchedCancel_of_zero s.taken)
  case absent =>
    intro hi hne
    exact exec_schedCancel_of_req h (reqSchedCancel_of_absent (s := s.taken) hi hne)
  case present =>
    intro hi hex
    exact exec_schedCancel_of_req (t := s.removeEntry i.toNat) h (reqSchedCancel_of_present (s := s.taken) hi hex)
  case startAbove =>
    intro hi
    exact exec_schedList_of_req h (reqSchedList_of_gt s.taken hi)
  case listed =>
    intro hi
    exact exec_schedList_of_req h (reqSchedList_of_le s.taken hi)

end Sys2Proof.Machine
end

section
/-! EVENTS_READ (R169): obligation O24. -/

namespace Sys2Proof.Machine

/-! ### How many records a read removes (R169) -/

/-- The bytes that a reply carries for these records. -/
def bytesOf (es : List Event) : Nat := (es.flatMap eventBytes).length

@[simp] theorem bytesOf_nil : bytesOf [] = 0 := rfl

@[simp] theorem bytesOf_cons (r : Event) (rest : List Event) : bytesOf (r :: rest) = (eventBytes r).length + bytesOf rest := by
  simp [bytesOf]

theorem readable_le_length (n room : Nat) (es : List Event) : readable n room es ≤ es.length := by
  fun_induction readable n room es with
  | case1 | case2 | case4 => exact Nat.zero_le _
  | case3 room n r rest hfits ih =>
    rw [List.length_cons]
    omega

theorem readable_le_maximum (n room : Nat) (es : List Event) : readable n room es ≤ n := by
  fun_induction readable n room es with
  | case1 | case2 | case4 => exact Nat.zero_le _
  | case3 room n r rest hfits ih => omega

theorem bytesOf_take_readable_le (n room : Nat) (es : List Event) : bytesOf (es.take (readable n room es)) ≤ room := by
  fun_induction readable n room es with
  | case1 | case2 | case4 => exact Nat.zero_le _
  | case3 room n r rest hfits ih =>
    rw [Nat.add_comm, List.take_succ_cons, bytesOf_cons]
    omega

/-- Where neither the maximum nor the queue's end stops the read, the next record does not fit. -/
theorem lt_bytesOf_take_readable_succ (n room : Nat) (es : List Event) (hn : readable n room es < n)
    (hl : readable n room es < es.length) : room < bytesOf (es.take (readable n room es + 1)) := by
  fun_induction readable n room es with
  | case1 => exact absurd hn (Nat.not_lt_zero _)
  | case2 => exact absurd hl (Nat.not_lt_zero _)
  | case3 room n r rest hfits ih =>
    rw [List.length_cons] at hl
    have hrest := ih (by omega) (by omega)
    rw [Nat.add_comm 1, List.take_succ_cons, bytesOf_cons]
    omega
  | case4 room n r rest hfits => simpa using hfits

/-! ### The state after the read -/

theorem refreshAttn_eq (s : State) : ∃ attn pulse, s.refreshAttn = { s with evq.attn := attn, evq.pulse := pulse } := by
  unfold State.refreshAttn
  dsimp only
  split <;> split <;> exact ⟨_, _, rfl⟩

/-- The state once k records have been removed, before ATTN follows (R169); whether records stay behind is kept for the reply's end
(R172). -/
def State.afterRead (s : State) (k : Nat) : State :=
  { s with evq.events := s.evq.events.drop k, evq.lost := 0, evq.readPulse := !(s.evq.events.drop k).isEmpty }

/-- The payload of the reply: the number removed, the lost count, the records (R169). -/
def State.readPayload (s : State) (k : Nat) : List Byte :=
  [byte k, byte s.evq.lost] ++ (s.evq.events.take k).flatMap eventBytes

theorem reqEventsRead_of_badField (s : State) {m : Byte} (h : m.toNat = 0 ∨ 8 < m.toNat) :
    reqEventsRead s [m] = (s, { result := .badField, payload := [] }) := by
  have hout : ¬ (1 ≤ m.toNat && m.toNat ≤ 8) := by
    rw [Bool.and_eq_true, decide_eq_true_eq, decide_eq_true_eq]
    omega
  rw [reqEventsRead, if_neg hout, refusal]

theorem reqEventsRead_of_taken (s : State) {m : Byte} (h1 : 1 ≤ m.toNat) (h8 : m.toNat ≤ 8) :
    reqEventsRead s [m] = ((s.afterRead (readable m.toNat 56 s.evq.events)).refreshAttn,
      { result := .ok, payload := s.readPayload (readable m.toNat 56 s.evq.events) }) := by
  have hin : (1 ≤ m.toNat && m.toNat ≤ 8) := by
    rw [Bool.and_eq_true, decide_eq_true_eq, decide_eq_true_eq]
    exact ⟨h1, h8⟩
  rw [reqEventsRead, if_pos hin]
  rfl

/-- R169: the request is refused neither for LINK_FAULT nor by the lock. -/
theorem answerFrame_eventsRead (s : State) (m : Byte) : s.answerFrame 0x02 [m] = reqEventsRead s [m] :=
  answerFrame_eq_carryOut s rfl (Bool.and_false _) (by simp [State.lockRefuses])

theorem exec_eventsRead (p : List Byte) (s : State) : exec (.eventsRead p) s = linkRequest 0x02 p s := rfl

theorem exec_eventsRead_of_badField {s : State} (h : Listening s) {m : Byte} (hm : m.toNat = 0 ∨ 8 < m.toNat) :
    exec (.eventsRead [m]) s = .next (s.answered 0x02 .badField []) := by
  rw [exec_eventsRead]
  exact linkRequest_of_unchanged h (by simp) (by decide)
    ((answerFrame_eventsRead _ m).trans (reqEventsRead_of_badField _ hm))

/-- Only ATTN, with its pulse, is left open beside the records removed and what every reply changes. -/
theorem exec_eventsRead_of_taken {s : State} (h : Listening s) {m : Byte} (h1 : 1 ≤ m.toNat) (h8 : m.toNat ≤ 8) :
    ∃ attn pulse, exec (.eventsRead [m]) s = .next
      (State.sendReply { (s.afterRead (readable m.toNat 56 s.evq.events)).taken with evq.attn := attn, evq.pulse := pulse }
        (0x02 + 0x80) { result := .ok, payload := s.readPayload (readable m.toNat 56 s.evq.events) }) := by
  obtain ⟨attn, pulse, hattn⟩ := refreshAttn_eq (s.taken.afterRead (readable m.toNat 56 s.evq.events))
  refine ⟨attn, pulse, ?_⟩
  rw [exec_eventsRead, linkRequest_of_listening h _ (by simp), takeFrame_of_not_resetExec s _ (by decide),
    answerFrame_eventsRead, reqEventsRead_of_taken s.taken h1 h8]
  exact congrArg (fun t => Host.Outcome.next (State.sendReply t _ _)) hattn

/-- Settles O24: the number removed is `readable` of the queue, which stops at the maximum, at the queue's end, or at the first record
that does not fit. -/
theorem eventsReadTakesTheOldest : Obligations.EventsReadTakesTheOldest := by
  intro m s h
  constructor
  · exact exec_eventsRead_of_badField h
  · intro h1 h8
    obtain ⟨attn, pulse, hexec⟩ := exec_eventsRead_of_taken h h1 h8
    exact ⟨readable m.toNat 56 s.evq.events, _, hexec, readable_le_length _ _ _, readable_le_maximum _ _ _,
      bytesOf_take_readable_le _ _ _, lt_bytesOf_take_readable_succ _ _ _, rfl, rfl, ⟨_, rfl⟩, rfl, rfl, rfl⟩

end Sys2Proof.Machine
end

section
/-! The block as a machine: obligations O1, O2, O3, O4 and O5. -/

namespace Sys2Proof.Machine

/-! ### Steps and commands -/

/-- Settles O1: by the definition of a step. -/
theorem stepTakesFrontCommand : Obligations.StepTakesFrontCommand := by
  intro c rest s h
  rw [step, h]

theorem choose_mem (s : State) (c : Instr) (rest : List Instr) : s.choose c rest ∈ c :: rest := by
  cases rest with
  | nil => exact List.mem_cons_self
  | cons d rest =>
    have hlt : Config.tieBreak s.freeIdx % ((d :: rest).length + 1) < (c :: d :: rest).length := Nat.mod_lt _ (Nat.succ_pos _)
    show (c :: d :: rest).getD _ c ∈ _
    rw [List.getD_eq_getElem _ _ hlt]
    exact List.getElem_mem hlt

theorem step_of_idle {s : State} (h : s.pending = []) : step s = s.idle := by
  rw [step, h]

/-- Settles O3: by the cases of what is due. -/
theorem idleStepTakesADueEvent : Obligations.IdleStepTakesADueEvent := by
  intro s hp
  rw [step_of_idle hp, State.idle]
  cases hdue : s.due with
  | nil => exact ⟨fun _ => rfl, fun h => absurd rfl h⟩
  | cons c rest =>
    refine ⟨fun h => ?_, fun _ => ⟨s.choose c rest, choose_mem s c rest, rfl⟩⟩
    cases h

/-! ### The queue of waiting commands -/

/-- The queue of waiting commands is this one. -/
def Queued (q : List Instr) (s : State) : Prop := s.pending = q

theorem Queued.of_base {q : List Instr} {s t : State} (h : Queued q s) (hb : t.base = s.base) : Queued q t :=
  (base_pending hb).trans h

theorem lapse_pending (s : State) (n : Nat) : (s.lapse n).pending = s.pending := by
  unfold State.lapse
  (repeat' split) <;> rfl

theorem refreshAttn_pending (s : State) : s.refreshAttn.pending = s.pending := base_pending (refreshAttn_base s)
theorem record_pending (s : State) (k : RecordKind) (a b : Nat) (v : Option Nat) : (s.record k a b v).pending = s.pending :=
  base_pending (record_base s k a b v)

theorem takeNotice_pending (s : State) (e : FrameError) : (s.takeNotice e).pending = s.pending := by
  unfold State.takeNotice
  dsimp only
  split
  · rw [endEvent_pending, refreshAttn_pending]
    exact record_pending ..
  · rfl

theorem Queued.closed (q : List Instr) : Closed (Queued q) where
  settle s h := h.of_base (deep_base (settle_deep s))
  record s k a b v _ h := h.of_base (record_base s k a b v)
  refreshSub s h := h.of_base (refreshSub_base s)
  mdc _ _ h := h
  line _ _ _ h := h
  apq _ _ h := h
  session _ _ _ _ h := h
  suspended _ _ _ _ h := h
  removed _ _ h := h
  takeId _ h := h
  created _ _ _ _ _ _ _ _ _ _ _ _ _ h := h
  charged _ _ _ h := h
  chm _ _ h := h
  btm _ _ h := h
  advance s e d _ h := h.of_base (advance_base s e d)
  setPending _ _ _ h := h
  noSched _ h := h
  clock _ _ _ h := h
  resume _ _ h := h
  forceCutoff s h := h.of_base (forceCutoff_base s)

theorem clearFault_deep (s : State) (d : DomId) : (s.clearFault d).deep = s.deep := by
  unfold State.clearFault
  split <;> simp

theorem Queued.requests (q : List Instr) : Requests (Queued q) (Queued q) where
  weak _ h := h
  closed := Queued.closed q
  finish s h := h.of_base (finish_base s)
  adm _ _ h := h
  eventsRead _ _ _ h := (refreshAttn_pending _).trans h
  faultClear _ h := (refreshAttn_pending _).trans h
  linkSet _ _ _ _ _ _ _ h := (refreshAttn_pending _).trans h
  lock _ h := h
  arm _ h := h
  entry _ _ _ _ _ _ h := h
  clearFault s d h := h.of_base (deep_base (clearFault_deep s d))
  unmute _ _ h := h
  tierSet _ _ _ _ _ _ _ _ _ _ _ _ _ _ _ _ _ h := h
  meterSet _ _ _ _ _ h := h
  schedAdd _ _ _ _ _ h := h
  schedCancel _ _ h := h
  extend s id _ _ ls ms h := (Queued.closed q).lengthenWindows ls ms (s := s.updSession id _) h
  reserve _ _ _ h := h
  clock _ _ _ h := h
  taken _ h := h
  takenReset _ h := h
  replied _ _ _ h := h

theorem Queued.happenings (q : List Instr) : Happenings (Queued q) (Queued q) where
  lapse s n h := (lapse_pending s n).trans h
  dequeue _ _ h := h
  notice s e h := (takeNotice_pending s e).trans h
  arrive s e h := by
    unfold State.arrive
    split <;> exact h
  receiver _ _ h := h
  ignPin _ _ _ h := h
  servicePin _ _ h := h
  pgPin _ _ _ h := h
  wlPinHeld _ _ _ _ h := h
  holdInReset _ h := h
  powerOn _ h := h
  ignSettles _ h := (Queued.closed q).ignSettles h
  rampDone s d _ h := h.of_base (deep_base (rampDone_deep s d))
  pgLost s d _ h := h.of_base (deep_base (pgLost_deep s d))
  rampFailed s d _ h := h.of_base (deep_base (rampFailed_deep s d))
  holdoff s d _ h := h.of_base (deep_base (powerOff_deep s d _))
  retry s d _ h := h.of_base (deep_base (enterQueued_deep s d))
  handoverTimeout _ _ h := (Queued.closed q).enterParked _ h
  sample _ i v p h := (Queued.closed q).sampleWork i v p h
  secondRises _ h := (Queued.closed q).secondRises h
  pulseEnd _ h := h
  softwareReset s h := (softwareReset_pending s).trans h
  clearReply _ h := h
  release _ h := h
  d0Off s h := h.of_base (deep_base (enterOff_deep s 0))
  pulseAfterRead s h := h.of_base (pulseAfterRead_base s)

/-- Settles O2: no piece of a command's work writes the queue. -/
theorem commandsLeaveTheQueue : Obligations.CommandsLeaveTheQueue := by
  intro c s t he
  exact exec_keeps ((Queued.requests s.pending).kept (Queued.happenings s.pending)) (P := Queued s.pending) rfl he

/-! ### Events that cannot come -/

theorem timed_none (s : State) (work : State → State) : s.timed none work = .next s := by
  unfold State.timed
  split <;> rfl

theorem timed_held {s : State} (h : s.held = true) (left : Option Nat) (work : State → State) : s.timed left work = .next s := by
  unfold State.timed
  exact if_pos h

/-- A command whose event comes with time, the link's two and LEAVE_RESET apart, is `State.timed` of the time left. -/
theorem exec_eq_timed {c : Instr} {s : State} {left : Option Nat} (h : s.timeLeft c = some left) (hg : c ≠ .gapTimeout)
    (hr : c ≠ .replyEnd) (hl : c ≠ .leaveReset) : ∃ work, exec c s = s.timed left work := by
  cases c <;> simp only [State.timeLeft, Option.some.injEq, reduceCtorEq] at h <;> subst h
  case gapTimeout => exact absurd rfl hg
  case replyEnd => exact absurd rfl hr
  case leaveReset => exact absurd rfl hl
  case ignDebounceEnd => exact ⟨_, by rw [exec, execIgnDebounceEnd]⟩
  case serviceDebounceEnd => exact ⟨_, by rw [exec, execServiceDebounceEnd]⟩
  case rampComplete d => exact ⟨_, by rw [exec, execRampComplete]⟩
  case pgLoss d => exact ⟨_, by rw [exec, execPgLoss]⟩
  case rampTimeout d => exact ⟨_, by rw [exec, execRampTimeout]⟩
  case holdoffExpiry d => exact ⟨_, by rw [exec, execHoldoffExpiry]⟩
  case retryExpiry d => exact ⟨_, by rw [exec, execRetryExpiry]⟩
  case wlDebounceEnd l => exact ⟨_, by rw [exec, execWlDebounceEnd]⟩
  case nuisanceWindowExpiry l => exact ⟨_, by rw [exec, execNuisanceWindowExpiry]⟩
  case muteExpiry l => exact ⟨_, by rw [exec, execMuteExpiry]⟩
  case approachExpired l => exact ⟨_, by rw [exec, execApproachExpired]⟩
  case handoverTimeout => exact ⟨_, by rw [exec, execHandoverTimeout]⟩
  case sample i v => exact ⟨_, by rw [exec, execSample]⟩
  case periodChangeSample i v => exact ⟨_, by rw [exec, execPeriodChangeSample]⟩
  case sessionRunExpiry id => exact ⟨_, by rw [exec, execSessionRunExpiry]⟩
  case suspensionLimitExpiry id => exact ⟨_, by rw [exec, execSuspensionLimitExpiry]⟩
  case partSecondRise => exact ⟨_, by rw [exec, execPartSecondRise]⟩
  case attnPulseEnd => exact ⟨_, by rw [exec, execAttnPulseEnd]⟩

theorem exec_of_timeLeft_none {c : Instr} {s : State} (h : s.timeLeft c = some none) : exec c s = .next s := by
  by_cases hg : c = .gapTimeout
  · subst hg
    have hleft : s.leftGap = none := Option.some.inj h
    show execGapTimeout s = _
    rw [execGapTimeout, hleft]
    split <;> rfl
  by_cases hr : c = .replyEnd
  · subst hr
    have hleft : s.leftReply = none := Option.some.inj h
    show execReplyEnd s = _
    rw [execReplyEnd, hleft]
    split <;> rfl
  by_cases hl : c = .leaveReset
  · subst hl
    have hleft : s.leftReset = none := Option.some.inj h
    show execLeaveReset s = _
    rw [execLeaveReset, hleft]
  obtain ⟨work, hexec⟩ := exec_eq_timed h hg hr hl
  exact hexec.trans (timed_none s work)

theorem linkRequest_held {s : State} (h : s.held = true) (type : Byte) {p : List Byte} (hp : payloadFits p = true) :
    linkRequest type p s = .next s := by
  have hlen : ¬ 48 < p.length := Nat.not_lt.2 (of_decide_eq_true hp)
  rw [linkRequest, if_neg hlen, if_pos h]

/-- A TYPE of the catalogue is one of the 27 that have a payload length (section 12.8). -/
theorem requestLength_isSome_iff (type : Byte) : (requestLength type).isSome = catalogueTypes.contains type := by
  revert type
  decide

/-- A host request is the arrival of a frame with its TYPE and payload. -/
theorem exec_of_requestOf {c : Instr} {type : Byte} {p : List Byte} (h : requestOf c = some (type, p)) (hw : c.wellFormed = true)
    (s : State) : exec c s = linkRequest type p s ∧ payloadFits p = true := by
  cases c <;> simp only [requestOf, Option.some.injEq, Prod.mk.injEq, reduceCtorEq] at h
  case unknownTypeFrame t q =>
    obtain ⟨rfl, rfl⟩ := h
    simp only [Instr.wellFormed, Bool.and_eq_true, Bool.not_eq_true'] at hw
    have hnone : ¬ (requestLength t).isSome = true := by
      rw [requestLength_isSome_iff, hw.2]
      decide
    exact ⟨if_neg hnone, hw.1⟩
  all_goals
    obtain ⟨rfl, rfl⟩ := h
    exact ⟨rfl, hw⟩

theorem exec_of_held {c : Instr} {s : State} (h : s.held = true) (hw : c.wellFormed = true) (ha : actsInReset c = false) :
    exec c s = .next s := by
  rcases hreq : requestOf c with _ | ⟨type, p⟩
  · by_cases hg : c = .gapTimeout
    · exact hg ▸ if_pos h
    by_cases hr : c = .replyEnd
    · exact hr ▸ if_pos h
    have hl : c ≠ .leaveReset := fun hl => by rw [hl, actsInReset] at ha; cases ha
    rcases hleft : s.timeLeft c with _ | left
    · cases c <;> simp only [actsInReset, requestOf, State.timeLeft, reduceCtorEq] at ha hreq hleft
      case frameErrorNotice e => exact if_pos h
      case lrxByte b => exact if_pos h
    · obtain ⟨work, hexec⟩ := exec_eq_timed hleft hg hr hl
      exact hexec.trans (timed_held h left work)
  · obtain ⟨hexec, hfits⟩ := exec_of_requestOf hreq hw s
    exact hexec.trans (linkRequest_held h type hfits)

/-- Settles O4: by the two ways in which a command has no effect. -/
theorem eventsThatCannotComeChangeNothing : Obligations.EventsThatCannotComeChangeNothing := by
  intro c s
  exact ⟨exec_of_timeLeft_none, exec_of_held⟩

/-! ### The state after reset -/

/-- Settles O5: the state after reset is a closed term, and each respect a finite check. -/
theorem resetIsSound : Obligations.ResetIsSound := by
  refine ⟨?mode, ?ranges, ?ramps, ?tree, ?demand, ?sessions, ?schedule, ?events, ?link, ?derived, rfl⟩
  case mode => constructor <;> decide
  case ranges => constructor <;> decide
  case ramps => exact Tests.rampSound_of (by decide)
  case tree => unfold TreeSound; decide
  case demand => constructor <;> decide
  case sessions => constructor <;> decide
  case schedule => constructor <;> decide
  case events => constructor <;> decide
  case link => constructor <;> decide
  case derived => constructor <;> decide

end Sys2Proof.Machine
end

section
/-! What is derived from other state is set afresh at the end of every event: obligation O14. -/

namespace Sys2Proof.Machine

/-! ### What the derived state is derived from -/

theorem stateOf_congr {s t : State} (h : ∀ d, (t.dom d).state = (s.dom d).state) (x : Session) : t.stateOf x = s.stateOf x := by
  unfold State.stateOf
  simp only [h]

theorem stateOf_refreshed (s : State) (x : Session) : s.stateOf { x with state := s.stateOf x } = s.stateOf x := by
  have hset : ∀ y z : Session, y.active = z.active → y.set = z.set → s.stateOf y = s.stateOf z := by
    intro y z ha hs
    unfold State.stateOf
    rw [ha, hs]
  exact hset _ _ (stateOf_active s x) rfl

theorem withAncestors_congr {s t : State} (h : ∀ d, (t.dom d).entry = (s.dom d).entry) (S : DomSet) :
    t.withAncestors S = s.withAncestors S := by
  unfold State.withAncestors
  simp only [h]

theorem setDemands_congr {s t : State} (h : ∀ d, (t.dom d).entry = (s.dom d).entry) (S : DomSet) (d : DomId) :
    t.setDemands S d = s.setDemands S d := by
  unfold State.setDemands
  rw [withAncestors_congr h]

theorem enabledOf_congr {s t : State} (h : ∀ d, (t.dom d).entry = (s.dom d).entry) (S : DomSet) : t.enabledOf S = s.enabledOf S := by
  unfold State.enabledOf
  simp only [h]

/-- What of a session its ownership of domains and its state depend on. -/
def Session.claim (x : Session) : Nat × SessState × DomSet := (x.id, x.state, x.set)

/-- The owner among the sessions: the earliest active one that demands the domain (R37). -/
def State.claimant (s : State) (d : DomId) (l : List (Nat × SessState × DomSet)) : Owner :=
  (l.find? (fun q => q.2.1 != .suspended && s.setDemands (s.enabledOf q.2.2) d)).elim .nobody (fun q => .session q.1)

theorem ownerOf_eq (s : State) (d : DomId) : s.ownerOf d =
    if s.mdc.driveHold && s.setDemands s.driveSet d then .driveHold
    else if s.mdc.handoverHold && s.setDemands s.handoverSet d then .handoverHold
    else if s.mdc.alwaysHold && s.setDemands s.alwaysSet d then .alwaysHold
    else s.claimant d (s.ssc.sessions.map Session.claim) := by
  unfold State.ownerOf State.claimant
  rw [List.find?_map]
  simp only [Function.comp_def, Session.claim, Session.active]
  cases s.ssc.sessions.find? (fun x => x.state != .suspended && s.setDemands (s.enabledOf x.set) d) <;> rfl

/-- What an owner is chosen from: the holds, the entries, and the sessions' ids, states and sets. -/
theorem ownerOf_congr {s t : State} (hd : t.mdc.driveHold = s.mdc.driveHold) (hh : t.mdc.handoverHold = s.mdc.handoverHold)
    (ha : t.mdc.alwaysHold = s.mdc.alwaysHold) (he : ∀ d, (t.dom d).entry = (s.dom d).entry)
    (hs : t.ssc.sessions.map Session.claim = s.ssc.sessions.map Session.claim) (d : DomId) : t.ownerOf d = s.ownerOf d := by
  rw [ownerOf_eq, ownerOf_eq, hd, hh, ha, hs]
  unfold State.driveSet State.handoverSet State.alwaysSet State.claimant
  simp only [setDemands_congr he, enabledOf_congr he, he]

theorem quiet_congr {s t : State} (hd : ∀ d, (t.dom d).state = (s.dom d).state ∧ (t.dom d).entry = (s.dom d).entry)
    (hs : t.ssc.sessions.isEmpty = s.ssc.sessions.isEmpty) : t.quiet = s.quiet := by
  unfold State.quiet
  simp only [hd, hs]

theorem subNow_congr {s t : State} (hm : t.mdc.mode = s.mdc.mode)
    (hd : ∀ d, (t.dom d).state = (s.dom d).state ∧ (t.dom d).entry = (s.dom d).entry)
    (hs : t.ssc.sessions.isEmpty = s.ssc.sessions.isEmpty) : t.subNow = s.subNow := by
  unfold State.subNow
  rw [hm, quiet_congr hd hs]

/-! ### The end of an event -/

theorem refreshOwners_same (s : State) : ∃ v, s.refreshOwners = { s with dmc := v } :=
  foldl_closed (P := fun t : State => ∃ v, t = { s with dmc := v }) _ (fun t d h => by
    obtain ⟨v, rfl⟩ := h
    exact ⟨_, rfl⟩) _ ⟨s.dmc, rfl⟩

theorem refreshSub_eq (s : State) : ∃ c : Chm, c.period = samplePeriod s.mdc.mode s.subNow ∧
    s.refreshSub = { s with mdc.sub := s.subNow, chm := c } := by
  unfold State.refreshSub State.takePeriod
  dsimp only
  split
  · next h => exact ⟨s.chm, h.symm, rfl⟩
  · split <;> exact ⟨_, rfl, rfl⟩

theorem attention_congr {s t : State} (hd : (t.dom 0).state = (s.dom 0).state) (he : t.evq.events = s.evq.events)
    (hf : t.lnk.linkFault = s.lnk.linkFault) : t.attention = s.attention := by
  unfold State.attention
  rw [hd, he, hf]

/-- R171: ATTN has been driven from the condition and the pulse. -/
theorem refreshAttn_attn (s : State) : s.refreshAttn.evq.attn = (s.refreshAttn.attention && s.refreshAttn.evq.pulse.isNone) := by
  unfold State.refreshAttn
  dsimp only
  split <;> split <;> rfl

/-! ### The derived state between events -/

/-- The derived state agrees, and no event is in progress. -/
def Settled (s : State) : Prop := DerivedSound s ∧ BetweenEvents s

/-- Two states agree in the derived state, ATTN apart, and in what it is derived from. -/
structure SameDerived (t s : State) : Prop where
  held : t.held = s.held
  mode : t.mdc.mode = s.mdc.mode
  sub : t.mdc.sub = s.mdc.sub
  holds : t.mdc.driveHold = s.mdc.driveHold ∧ t.mdc.handoverHold = s.mdc.handoverHold ∧ t.mdc.alwaysHold = s.mdc.alwaysHold
  domains : ∀ d, (t.dom d).state = (s.dom d).state ∧ (t.dom d).entry = (s.dom d).entry ∧ (t.dom d).owner = (s.dom d).owner
  sessions : t.ssc.sessions.map Session.claim = s.ssc.sessions.map Session.claim
  period : t.chm.period = s.chm.period
  work : t.work = s.work

/-- Where the blocks concerned are the same, so is all of this. -/
theorem SameDerived.of_blocks {s t : State} (held : t.held = s.held) (mdc : t.mdc = s.mdc) (dmc : t.dmc = s.dmc) (ssc : t.ssc = s.ssc)
    (chm : t.chm = s.chm) (work : t.work = s.work) : SameDerived t s := by
  have hdom : ∀ d, t.dom d = s.dom d := fun d => by rw [State.dom, dmc]; rfl
  exact ⟨held, by rw [mdc], by rw [mdc], by rw [mdc]; exact ⟨rfl, rfl, rfl⟩, fun d => by rw [hdom]; exact ⟨rfl, rfl, rfl⟩,
    by rw [ssc], by rw [chm], work⟩

theorem Settled.congr {s t : State} (h : Settled s) (hd : SameDerived t s)
    (ha : t.evq.attn = (t.attention && t.evq.pulse.isNone)) : Settled t := by
  obtain ⟨⟨hsess, howners, hsub, hperiod, -⟩, hbetween⟩ := h
  have hst : ∀ d, (t.dom d).state = (s.dom d).state := fun d => (hd.domains d).1
  have hentry : ∀ d, (t.dom d).entry = (s.dom d).entry := fun d => (hd.domains d).2.1
  have hempty : t.ssc.sessions.isEmpty = s.ssc.sessions.isEmpty := by
    have hmap := congrArg List.isEmpty hd.sessions
    rwa [List.isEmpty_map, List.isEmpty_map] at hmap
  refine ⟨⟨?_, ?_, ?_, ?_, ha⟩, hd.work.trans hbetween⟩
  · intro y hy
    obtain ⟨x, hx, hclaim⟩ := List.mem_map.1 (hd.sessions ▸ List.mem_map_of_mem (f := Session.claim) hy)
    simp only [Session.claim, Prod.mk.injEq] at hclaim
    obtain ⟨-, hstate, hset⟩ := hclaim
    rw [← hstate, hsess x hx, stateOf_congr hst]
    unfold State.stateOf Session.active
    rw [hstate, hset]
  · intro hh d
    rw [(hd.domains d).2.2, howners (hd.held ▸ hh) d]
    exact (ownerOf_congr hd.holds.1 hd.holds.2.1 hd.holds.2.2 hentry hd.sessions d).symm
  · rw [hd.sub, hsub]
    exact (subNow_congr hd.mode (fun d => ⟨hst d, hentry d⟩) hempty).symm
  · rw [hd.period, hd.mode, hd.sub, hperiod]

/-- Only D0's state, the queue and LINK_FAULT decide the attention condition (R171). -/
theorem Settled.of_blocks {s t : State} (h : Settled s) (held : t.held = s.held) (mdc : t.mdc = s.mdc) (dmc : t.dmc = s.dmc)
    (ssc : t.ssc = s.ssc) (chm : t.chm = s.chm) (work : t.work = s.work) (evq : t.evq = s.evq)
    (fault : t.lnk.linkFault = s.lnk.linkFault) : Settled t := by
  have hattn : t.attention = s.attention := attention_congr (by rw [State.dom, dmc]; rfl) (by rw [evq]) fault
  refine h.congr (.of_blocks held mdc dmc ssc chm work) ?_
  rw [hattn, evq]
  exact h.1.attn

theorem Settled.refreshAttn {s t : State} (h : Settled s) (hd : SameDerived t s) : Settled t.refreshAttn := by
  obtain ⟨attn, pulse, heq⟩ := refreshAttn_eq t
  refine h.congr ?_ (refreshAttn_attn t)
  rw [heq]
  exact ⟨hd.held, hd.mode, hd.sub, hd.holds, hd.domains, hd.sessions, hd.period, hd.work⟩

/-- Whatever an event did, its end leaves every derived part in agreement. -/
theorem finish_settled (s : State) : Settled s.finish := by
  unfold State.finish
  generalize (State.grants 12 s.resumeNow.settle.enqueueArrivals).recordBlocked = u
  obtain ⟨v, hv⟩ := refreshOwners_same u.refreshSessions
  have hdom := refreshOwners_dom u.refreshSessions
  generalize hw : u.refreshSessions.refreshOwners = w at *
  obtain ⟨c, hperiod, hsub⟩ := refreshSub_eq w
  obtain ⟨attn, pulse, hattn⟩ := refreshAttn_eq w.refreshSub
  have ha := refreshAttn_attn w.refreshSub
  rw [hsub] at hattn
  have hst : ∀ d, (w.dom d).state = (u.dom d).state := fun d => by rw [hdom]; rfl
  have hentry : ∀ d, (w.dom d).entry = (u.dom d).entry := fun d => by rw [hdom]; rfl
  have hsess : w.ssc.sessions = u.ssc.sessions.map (fun x => { x with state := u.stateOf x }) := by rw [hv]; rfl
  have hmdc : w.mdc = u.mdc := by rw [hv]; rfl
  have hend : w.refreshSub.refreshAttn.endEvent =
      { w with mdc.sub := w.subNow, chm := c, evq.attn := attn, evq.pulse := pulse, work := Work.none } := by
    rw [hsub, hattn]
    rfl
  refine ⟨⟨?_, ?_, ?_, ?_, ha⟩, rfl⟩
  · rw [hend]
    intro x hx
    obtain ⟨y, -, rfl⟩ := List.mem_map.1 (hsess ▸ hx)
    exact (stateOf_refreshed u y).symm.trans (stateOf_congr (s := w) (t := u) (fun d => (hst d).symm) _)
  · rw [hend]
    intro _ d
    have howner : (w.dom d).owner = u.refreshSessions.ownerOf d := by rw [hdom]
    have hclaims : u.refreshSessions.ssc.sessions.map Session.claim = w.ssc.sessions.map Session.claim := by rw [hsess]; rfl
    exact howner.trans (ownerOf_congr (s := w) (t := u.refreshSessions) (by rw [hmdc]; rfl) (by rw [hmdc]; rfl) (by rw [hmdc]; rfl)
      (fun d => (hentry d).symm) hclaims d)
  · rw [hend]
    rfl
  · rw [hend]
    exact hperiod

/-! ### Commands -/

theorem lengthenWindows_same (s : State) (ls : List LineId) (ms : Nat) : ∃ a, s.lengthenWindows ls ms = { s with apq := a } :=
  foldl_closed (P := fun t : State => ∃ a, t = { s with apq := a }) _ (fun t l h => by
    obtain ⟨a, rfl⟩ := h
    exact ⟨_, rfl⟩) _ ⟨s.apq, rfl⟩

theorem claims_updSession (s : State) (id : Nat) (f : Session → Session) (hf : ∀ x, (f x).claim = x.claim) :
    (s.updSession id f).ssc.sessions.map Session.claim = s.ssc.sessions.map Session.claim := by
  unfold State.updSession
  rw [List.map_map]
  refine List.map_congr_left fun x _ => ?_
  rw [Function.comp_apply]
  split
  · exact hf x
  · rfl

/-- Every event's work keeps what holds of every state. -/
theorem Closed.trivial : Closed (fun _ => True) := by
  constructor <;> intros <;> exact True.intro

theorem Settled.requests : Requests Settled (fun _ => True) where
  weak _ _ := True.intro
  closed := Closed.trivial
  finish s _ := finish_settled s
  adm _ _ h := h.of_blocks rfl rfl rfl rfl rfl rfl rfl rfl
  eventsRead _ _ _ h := h.refreshAttn (.of_blocks rfl rfl rfl rfl rfl rfl)
  faultClear _ h := h.refreshAttn (.of_blocks rfl rfl rfl rfl rfl rfl)
  linkSet _ _ _ _ _ _ _ h := h.refreshAttn ⟨rfl, rfl, rfl, ⟨rfl, rfl, rfl⟩, fun _ => ⟨rfl, rfl, rfl⟩, rfl, rfl, rfl⟩
  lock _ h := h.of_blocks rfl rfl rfl rfl rfl rfl rfl rfl
  arm _ h := h.of_blocks rfl rfl rfl rfl rfl rfl rfl rfl
  entry _ _ _ _ _ _ _ := True.intro
  clearFault _ _ _ := True.intro
  unmute _ _ h := h.of_blocks rfl rfl rfl rfl rfl rfl rfl rfl
  tierSet _ _ _ _ _ _ _ _ _ _ _ _ _ _ _ _ _ h := h.of_blocks rfl rfl rfl rfl rfl rfl rfl rfl
  meterSet _ _ _ _ _ h := h.congr ⟨rfl, rfl, rfl, ⟨rfl, rfl, rfl⟩, fun _ => ⟨rfl, rfl, rfl⟩, rfl, rfl, rfl⟩ h.1.attn
  schedAdd _ _ _ _ _ h := h.of_blocks rfl rfl rfl rfl rfl rfl rfl rfl
  schedCancel _ _ h := h.of_blocks rfl rfl rfl rfl rfl rfl rfl rfl
  extend s id _ _ ls ms h := by
    obtain ⟨a, heq⟩ := lengthenWindows_same (s.updSession id (fun x => x.extended _ _)) ls ms
    rw [heq]
    exact h.congr ⟨rfl, rfl, rfl, ⟨rfl, rfl, rfl⟩, fun _ => ⟨rfl, rfl, rfl⟩, claims_updSession s id _ (fun _ => rfl), rfl, rfl⟩ h.1.attn
  reserve _ _ _ h := h.congr ⟨rfl, rfl, rfl, ⟨rfl, rfl, rfl⟩, fun _ => ⟨rfl, rfl, rfl⟩, rfl, rfl, rfl⟩ h.1.attn
  clock _ _ _ _ := True.intro
  taken _ h := h.of_blocks rfl rfl rfl rfl rfl rfl rfl rfl
  takenReset _ h := h.of_blocks rfl rfl rfl rfl rfl rfl rfl rfl
  replied _ _ _ h := h.of_blocks rfl rfl rfl rfl rfl rfl rfl rfl

/-- Time moves no session, domain, hold, sub-state or period, and ends no pulse. -/
theorem lapse_settled (s : State) (n : Nat) (h : Settled s) : Settled (s.lapse n) := by
  unfold State.lapse
  split
  · exact h
  split
  · exact h.congr ⟨rfl, rfl, rfl, ⟨rfl, rfl, rfl⟩, fun _ => ⟨rfl, rfl, rfl⟩, rfl, rfl, rfl⟩ h.1.attn
  · have hdom : ∀ d : DomId, (mapVec (Domain.lapse n) s.dmc.domains)[d.val] = (s.dom d).lapse n := fun d => getElem_mapVec _ _ _ _
    refine h.congr ⟨rfl, rfl, rfl, ⟨rfl, rfl, rfl⟩, fun d => ?_, ?_, rfl, rfl⟩ ?_
    · simp only [State.dom] at hdom ⊢
      rw [hdom]
      exact ⟨rfl, rfl, rfl⟩
    · rw [List.map_map]
      refine List.map_congr_left fun x _ => ?_
      rw [Function.comp_apply]
      unfold Session.lapse
      split <;> rfl
    · have hpulse : (countDown n s.evq.pulse).isNone = s.evq.pulse.isNone := by
        unfold countDown
        cases s.evq.pulse <;> rfl
      refine h.1.attn.trans ?_
      rw [hpulse]
      refine congrArg (· && _) (attention_congr ?_ rfl rfl)
      simp only [State.dom] at hdom ⊢
      rw [hdom 0]
      rfl

theorem noteAppend_eq (s : State) : ∃ w, s.noteAppend = { s with work := w } := by
  unfold State.noteAppend
  split <;> exact ⟨_, rfl⟩

/-- A record changes the queue and the notes on the event alone. -/
theorem record_eq (s : State) (k : RecordKind) (a b : Nat) (v : Option Nat) :
    ∃ q w, s.record k a b v = { s with evq := q, work := w } := by
  obtain ⟨w, hw⟩ := noteAppend_eq s
  unfold State.record
  dsimp only
  rw [hw]
  split
  · exact ⟨_, _, rfl⟩
  · split <;> exact ⟨_, _, rfl⟩

/-- The notice's reply is being sent, the arm flag is cleared and the error counted (R178). -/
def State.noticeAnswered (s : State) (e : FrameError) : State :=
  { { s with lnk.armed := false }.sendReply 0xFF { result := FrameErrorResult e, payload := [] } with
    lnk.frameErrors := min 255 (s.lnk.frameErrors + 1) }

/-- LINK_FAULT is recorded and set (R178). -/
def State.faultRaised (s : State) (e : FrameError) : State :=
  { s.record .linkFault (FrameErrorResult e).code s.lnk.limit (some s.lnk.frameErrors) with lnk.linkFault := true }

theorem takeNotice_eq (s : State) (e : FrameError) : s.takeNotice e =
    if decide (s.lnk.limit ≤ min 255 (s.lnk.frameErrors + 1)) && !s.lnk.linkFault
    then ((s.noticeAnswered e).faultRaised e).refreshAttn.endEvent else s.noticeAnswered e := rfl

theorem faultRaised_eq (s : State) (e : FrameError) : ∃ q w, s.faultRaised e = { s with evq := q, work := w, lnk.linkFault := true } := by
  obtain ⟨q, w, h⟩ := record_eq s .linkFault (FrameErrorResult e).code s.lnk.limit (some s.lnk.frameErrors)
  refine ⟨q, w, ?_⟩
  rw [State.faultRaised, h]

theorem takeNotice_settled (s : State) (e : FrameError) (h : Settled s) : Settled (s.takeNotice e) := by
  rw [takeNotice_eq]
  split
  · obtain ⟨q, w, hraised⟩ := faultRaised_eq (s.noticeAnswered e) e
    generalize (s.noticeAnswered e).faultRaised e = u at hraised
    obtain ⟨attn, pulse, heq⟩ := refreshAttn_eq u
    refine h.congr ?_ (refreshAttn_attn u)
    rw [heq, hraised]
    exact .of_blocks rfl rfl rfl rfl rfl h.2.symm
  · exact h.of_blocks rfl rfl rfl rfl rfl rfl rfl rfl

theorem pgPin_settled (s : State) (d : DomId) (b : Bool) (h : Settled s) :
    Settled (s.updDom d (fun x => if s.held then { x with pgPin := b } else x.pgChange b)) := by
  have hdom : ∀ e, ((s.updDom d (fun x => if s.held then { x with pgPin := b } else x.pgChange b)).dom e).state = (s.dom e).state ∧
      ((s.updDom d (fun x => if s.held then { x with pgPin := b } else x.pgChange b)).dom e).entry = (s.dom e).entry ∧
      ((s.updDom d (fun x => if s.held then { x with pgPin := b } else x.pgChange b)).dom e).owner = (s.dom e).owner := by
    intro e
    rw [dom_updDom]
    split
    · next he =>
      subst he
      unfold Domain.pgChange
      (repeat' split) <;> exact ⟨rfl, rfl, rfl⟩
    · exact ⟨rfl, rfl, rfl⟩
  refine h.congr ⟨rfl, rfl, rfl, ⟨rfl, rfl, rfl⟩, hdom, rfl, rfl, rfl⟩ (h.1.attn.trans ?_)
  exact congrArg (· && _) (attention_congr (hdom 0).1 rfl rfl).symm

/-- With every block at its power-on value, held in reset, the sub-state, period and ATTN are those of an idle device. -/
theorem holdInReset_settled (s : State) : Settled s.holdInReset := by
  have hoff : ∀ d, (s.holdInReset.dom d).state = .off := by
    intro d
    by_cases hd : d = 0
    · subst hd
      simp [State.dom, State.holdInReset, State.powerOn, Domain.powerOn]
    · have hv : ¬ 0 = d.val := fun h => hd (Fin.ext h.symm)
      simp [State.dom, State.holdInReset, State.powerOn, Domain.powerOn, Vector.getElem_set_ne, hv]
  have hmode : s.holdInReset.mdc.mode ≠ .parked := by
    show (if s.mdc.ign.pin then Mode.drive else .handover) ≠ .parked
    split <;> decide
  refine ⟨⟨fun x hx => (by cases hx), fun hh => (by cases hh), ?_, ?_, ?_⟩, rfl⟩
  · exact (if_neg hmode).symm
  · show 250 = samplePeriod (if s.mdc.ign.pin then .drive else .handover) none
    split <;> rfl
  · rw [State.attention, hoff]
    rfl

theorem Settled.happenings : Happenings Settled (fun _ => True) where
  lapse := lapse_settled
  dequeue _ _ h := h.of_blocks rfl rfl rfl rfl rfl rfl rfl rfl
  notice := takeNotice_settled
  arrive s e h := by
    unfold State.arrive
    split <;> exact h.of_blocks rfl rfl rfl rfl rfl rfl rfl rfl
  receiver _ _ h := h.of_blocks rfl rfl rfl rfl rfl rfl rfl rfl
  ignPin _ _ _ h := h.congr ⟨rfl, rfl, rfl, ⟨rfl, rfl, rfl⟩, fun _ => ⟨rfl, rfl, rfl⟩, rfl, rfl, rfl⟩ h.1.attn
  servicePin _ _ h := h.congr ⟨rfl, rfl, rfl, ⟨rfl, rfl, rfl⟩, fun _ => ⟨rfl, rfl, rfl⟩, rfl, rfl, rfl⟩ h.1.attn
  pgPin := pgPin_settled
  wlPinHeld _ _ _ _ h := h.of_blocks rfl rfl rfl rfl rfl rfl rfl rfl
  holdInReset s _ := holdInReset_settled s
  powerOn _ _ := True.intro
  ignSettles _ _ := True.intro
  rampDone _ _ _ _ := True.intro
  pgLost _ _ _ _ := True.intro
  rampFailed _ _ _ _ := True.intro
  holdoff _ _ _ _ := True.intro
  retry _ _ _ _ := True.intro
  handoverTimeout _ _ _ := True.intro
  sample _ _ _ _ _ := True.intro
  secondRises _ _ := True.intro
  pulseEnd _ _ := True.intro
  softwareReset _ _ := True.intro
  clearReply _ _ := True.intro
  release _ _ := True.intro
  d0Off _ _ := True.intro
  pulseAfterRead _ _ := True.intro

/-- Settles O14: an event's end sets the derived state afresh, and what ends no event leaves what it is derived from. -/
theorem derivedStateAgrees : Obligations.DerivedStateAgrees := by
  intro s t hd hb hstep
  refine step_keeps (Settled.requests.kept Settled.happenings) (fun s q h => ?_) (fun s n h => ?_) ⟨hd, hb⟩ hstep
  · exact h.of_blocks rfl rfl rfl rfl rfl rfl rfl rfl
  · exact h.of_blocks rfl rfl rfl rfl rfl rfl rfl rfl

end Sys2Proof.Machine
end

section
/-! The tree stays closed under enabled ancestors (R16, R17): obligation O9. -/

namespace Sys2Proof.Machine

theorem TreeSound.congr {s t : State} (h : TreeSound s) (he : ∀ d, (t.dom d).entry = (s.dom d).entry) : TreeSound t := by
  intro d p hp
  rw [he] at hp
  rw [he, he]
  exact h d p hp

theorem TreeSound.of_base {s t : State} (h : TreeSound s) (hb : t.base = s.base) : TreeSound t := h.congr (fun d => base_entry hb d)

/-- A tree with no parent named is closed. -/
theorem TreeSound.of_orphans {s : State} (h : ∀ d, (s.dom d).entry.parent = none) : TreeSound s := by
  intro d p hp
  rw [h] at hp
  cases hp

/-- The refusals of R17 are what a write must pass to keep the tree closed. -/
theorem TreeSound.write {s : State} (h : TreeSound s) {d : DomId} {e : DomainEntry} (hr : s.treeRefuses d e = false)
    (hp : ∀ p, e.parent = some p → p < d) (f : Domain → Domain) (hf : ∀ x, (f x).entry.parent = e.parent ∧ (f x).entry.enabled = e.enabled) :
    TreeSound (s.updDom d f) := by
  obtain ⟨hparent, henabled⟩ := hf (s.dom d)
  intro x p hx
  by_cases hxd : x = d
  · subst hxd
    rw [dom_updDom_self, hparent] at hx
    have hlt := hp p hx
    refine ⟨hlt, fun hen => ?_⟩
    rw [dom_updDom_self, henabled] at hen
    rw [dom_updDom_ne _ _ _ _ hlt.ne]
    simpa [State.treeRefuses, hen, hx] using hr
  · rw [dom_updDom_ne _ _ _ _ hxd] at hx ⊢
    obtain ⟨hlt, hen⟩ := h x p hx
    refine ⟨hlt, fun hx' => ?_⟩
    by_cases hpd : p = d
    · subst hpd
      rw [dom_updDom_self, henabled]
      by_contra hoff
      simp only [State.treeRefuses, hoff, if_false, List.any_eq_false] at hr
      have hchild := hr x (mem_domIds x)
      simp [hxd, hx', hx] at hchild
    · rw [dom_updDom_ne _ _ _ _ hpd]
      exact hen hx'

theorem powerOn_dom (s : State) (d : DomId) :
    s.powerOn.dom d = Domain.powerOn (if d = 0 then DomainEntry.powerOnD0 else DomainEntry.powerOn) (s.dom d).pgPin := by
  by_cases hd : d = 0
  · subst hd
    simp [State.dom, State.powerOn]
  · have hv : ¬ 0 = d.val := fun h => hd (Fin.ext h.symm)
    simp [State.dom, State.powerOn, Vector.getElem_set_ne, hv, hd]

theorem powerOn_tree (s : State) : TreeSound s.powerOn := by
  refine TreeSound.of_orphans fun d => ?_
  rw [powerOn_dom]
  show (if d = 0 then DomainEntry.powerOnD0 else DomainEntry.powerOn).parent = none
  split <;> rfl

theorem TreeSound.closed : Closed TreeSound where
  settle s h := h.of_base (deep_base (settle_deep s))
  record s k a b v _ h := h.of_base (record_base s k a b v)
  refreshSub s h := h.of_base (refreshSub_base s)
  mdc _ _ h := h
  line _ _ _ h := h
  apq _ _ h := h
  session _ _ _ _ h := h
  suspended _ _ _ _ h := h
  removed _ _ h := h
  takeId _ h := h
  created _ _ _ _ _ _ _ _ _ _ _ _ _ h := h
  charged _ _ _ h := h
  chm _ _ h := h
  btm _ _ h := h
  advance s e d _ h := h.of_base (advance_base s e d)
  setPending _ _ _ h := h
  noSched _ h := h
  clock _ _ _ h := h
  resume _ _ h := h
  forceCutoff s h := h.of_base (forceCutoff_base s)

theorem refreshAttn_tree {s : State} (h : TreeSound s) : TreeSound s.refreshAttn := h.of_base (refreshAttn_base s)

theorem TreeSound.requests : Requests TreeSound TreeSound where
  weak _ h := h
  closed := TreeSound.closed
  finish s h := h.of_base (finish_base s)
  adm _ _ h := h
  eventsRead _ _ _ h := refreshAttn_tree h
  faultClear _ h := refreshAttn_tree h
  linkSet _ _ _ _ _ _ _ h := refreshAttn_tree h
  lock _ h := h
  arm _ h := h
  entry _ _ _ hr _ hp h := h.write hr hp _ (fun _ => ⟨rfl, rfl⟩)
  clearFault s d h := h.of_base (deep_base (clearFault_deep s d))
  unmute _ _ h := h
  tierSet _ _ _ _ _ _ _ _ _ _ _ _ _ _ _ _ _ h := h
  meterSet _ _ _ _ _ h := h
  schedAdd _ _ _ _ _ h := h
  schedCancel _ _ h := h
  extend s id _ _ ls ms h := TreeSound.closed.lengthenWindows ls ms (s := s.updSession id _) h
  reserve _ _ _ h := h
  clock _ _ _ h := h
  taken _ h := h
  takenReset _ h := h
  replied _ _ _ h := h

theorem lapse_entry (s : State) (n : Nat) (d : DomId) : ((s.lapse n).dom d).entry = (s.dom d).entry := by
  unfold State.lapse
  (repeat' split) <;> simp [State.dom, Domain.lapse]

theorem pgPin_entry (s : State) (d e : DomId) (b : Bool) :
    ((s.updDom d (fun x => if s.held then { x with pgPin := b } else x.pgChange b)).dom e).entry = (s.dom e).entry := by
  rw [dom_updDom]
  split
  · next he =>
    subst he
    unfold Domain.pgChange
    (repeat' split) <;> rfl
  · rfl

theorem takeNotice_dmc (s : State) (e : FrameError) : (s.takeNotice e).dmc = s.dmc := by
  rw [takeNotice_eq]
  split
  · obtain ⟨q, w, hraised⟩ := faultRaised_eq (s.noticeAnswered e) e
    generalize (s.noticeAnswered e).faultRaised e = u at hraised
    obtain ⟨attn, pulse, heq⟩ := refreshAttn_eq u
    rw [heq, hraised]
    rfl
  · rfl

theorem softwareReset_entry (s : State) (d : DomId) : (s.softwareReset.dom d).entry = (s.dom d).entry :=
  (base_entry (softwareReset_base s) d).trans rfl

theorem TreeSound.happenings : Happenings TreeSound TreeSound where
  lapse s n h := h.congr (lapse_entry s n)
  dequeue _ _ h := h
  notice s e h := h.congr (fun d => by rw [State.dom, takeNotice_dmc]; rfl)
  arrive s e h := by
    unfold State.arrive
    split <;> exact h
  receiver _ _ h := h
  ignPin _ _ _ h := h
  servicePin _ _ h := h
  pgPin s d b h := h.congr (fun e => pgPin_entry s d e b)
  wlPinHeld _ _ _ _ h := h
  holdInReset s _ := powerOn_tree s
  powerOn s _ := powerOn_tree s
  ignSettles _ h := TreeSound.closed.ignSettles h
  rampDone s d _ h := h.of_base (deep_base (rampDone_deep s d))
  pgLost s d _ h := h.of_base (deep_base (pgLost_deep s d))
  rampFailed s d _ h := h.of_base (deep_base (rampFailed_deep s d))
  holdoff s d _ h := h.of_base (deep_base (powerOff_deep s d _))
  retry s d _ h := h.of_base (deep_base (enterQueued_deep s d))
  handoverTimeout _ _ h := TreeSound.closed.enterParked _ h
  sample _ i v p h := TreeSound.closed.sampleWork i v p h
  secondRises _ h := TreeSound.closed.secondRises h
  pulseEnd _ h := h
  softwareReset s h := h.congr (softwareReset_entry s)
  clearReply _ h := h
  release _ h := h
  d0Off s h := h.of_base (deep_base (enterOff_deep s 0))
  pulseAfterRead s h := h.of_base (pulseAfterRead_base s)

/-- Settles O9: entries change by DOMAIN_SET alone, and R17's refusals keep the tree closed. -/
theorem treeStaysSound : Obligations.TreeStaysSound := by
  intro s t h hstep
  exact step_keeps (TreeSound.requests.kept TreeSound.happenings) (fun _ _ h => h) (fun _ _ h => h) h hstep

end Sys2Proof.Machine
end

section
/-! The Schedule stays in its order, one entry for each id (R154): obligation O11. -/

namespace Sys2Proof.Machine

/-- Schedule order: by due time and then id (R154). -/
def SchedEntry.Precedes (a b : SchedEntry) : Prop := a.due < b.due ∨ (a.due = b.due ∧ a.id < b.id)

theorem before_iff (a b : SchedEntry) : a.before b = true ↔ a.Precedes b := by
  simp [SchedEntry.before, SchedEntry.Precedes]

theorem SchedEntry.Precedes.trans {a b c : SchedEntry} (h : a.Precedes b) (h' : b.Precedes c) : a.Precedes c := by
  unfold SchedEntry.Precedes at *
  omega

/-- Of two entries with different ids one precedes the other. -/
theorem precedes_of_not_before {a b : SchedEntry} (hid : a.id ≠ b.id) (h : ¬ a.before b = true) : b.Precedes a := by
  rw [before_iff] at h
  unfold SchedEntry.Precedes at *
  omega

/-- A list in schedule order, one entry for each id. -/
structure InOrder (l : List SchedEntry) : Prop where
  order : l.Pairwise SchedEntry.Precedes
  ids : (l.map SchedEntry.id).Nodup

theorem scheduleSound_iff (s : State) : ScheduleSound s ↔ s.wsc.sched.length ≤ 16 ∧ InOrder s.wsc.sched :=
  ⟨fun h => ⟨h.count, h.order, h.ids⟩, fun ⟨hc, ho, hi⟩ => ⟨hc, ho, hi⟩⟩

theorem InOrder.sublist {l k : List SchedEntry} (h : InOrder l) (hk : k.Sublist l) : InOrder k :=
  ⟨h.order.sublist hk, h.ids.sublist (hk.map _)⟩

theorem mem_placeEntry {e x : SchedEntry} {l : List SchedEntry} : x ∈ placeEntry e l ↔ x = e ∨ x ∈ l := by
  induction l with
  | nil => simp [placeEntry]
  | cons y l ih =>
    unfold placeEntry
    split
    · simp
    · simp only [List.mem_cons, ih]
      tauto

theorem length_placeEntry (e : SchedEntry) (l : List SchedEntry) : (placeEntry e l).length = l.length + 1 := by
  induction l with
  | nil => rfl
  | cons y l ih =>
    unfold placeEntry
    split <;> simp [ih]

theorem InOrder.place {e : SchedEntry} {l : List SchedEntry} (h : InOrder l) (he : ∀ x ∈ l, x.id ≠ e.id) : InOrder (placeEntry e l) := by
  induction l with
  | nil => exact ⟨List.pairwise_singleton _ _, List.nodup_singleton _⟩
  | cons y l ih =>
    obtain ⟨hl, hy⟩ := List.pairwise_cons.1 h.order |>.symm
    have hids := List.nodup_cons.1 h.ids
    unfold placeEntry
    split
    · next hb =>
      have hey : e.Precedes y := (before_iff e y).1 hb
      refine ⟨List.pairwise_cons.2 ⟨?_, h.order⟩, List.nodup_cons.2 ⟨?_, h.ids⟩⟩
      · exact List.forall_mem_cons.2 ⟨hey, fun x hx => hey.trans (hy x hx)⟩
      · intro hmem
        obtain ⟨x, hx, hid⟩ := List.mem_map.1 hmem
        exact he x hx hid
    · next hb =>
      obtain ⟨hne, hrest⟩ := List.forall_mem_cons.1 he
      have hye : y.Precedes e := precedes_of_not_before hne.symm hb
      obtain ⟨ho, hi⟩ := ih ⟨hl, hids.2⟩ hrest
      refine ⟨List.pairwise_cons.2 ⟨fun x hx => ?_, ho⟩, List.nodup_cons.2 ⟨fun hmem => ?_, hi⟩⟩
      · rcases mem_placeEntry.1 hx with rfl | hx
        · exact hye
        · exact hy x hx
      · obtain ⟨x, hx, hid⟩ := List.mem_map.1 hmem
        rcases mem_placeEntry.1 hx with rfl | hx
        · exact hne hid.symm
        · exact hids.1 (List.mem_map.2 ⟨x, hx, hid⟩)

/-- A change of the entries' own states moves none of them. -/
theorem InOrder.map {l : List SchedEntry} (h : InOrder l) (f : SchedEntry → SchedEntry)
    (hf : ∀ e, (f e).due = e.due ∧ (f e).id = e.id) : InOrder (l.map f) := by
  constructor
  · rw [List.pairwise_map]
    refine h.order.imp fun {a b} hab => ?_
    unfold SchedEntry.Precedes at *
    rw [(hf a).1, (hf b).1, (hf a).2, (hf b).2]
    exact hab
  · rw [List.map_map]
    have hid : SchedEntry.id ∘ f = SchedEntry.id := funext fun e => (hf e).2
    rw [hid]
    exact h.ids

theorem ScheduleSound.of_sched {s t : State} (h : ScheduleSound s) (hs : t.wsc.sched = s.wsc.sched) : ScheduleSound t := by
  rw [scheduleSound_iff] at *
  rwa [hs]

theorem ScheduleSound.of_deep {s t : State} (h : ScheduleSound s) (hd : t.deep = s.deep) : ScheduleSound t :=
  h.of_sched (by rw [deep_wsc hd])

theorem removeEntry_schedule {s : State} (id : Nat) (h : ScheduleSound s) : ScheduleSound (s.removeEntry id) := by
  rw [scheduleSound_iff] at *
  exact ⟨(List.length_filter_le _ _).trans h.1, h.2.sublist List.filter_sublist⟩

theorem setPending_schedule {s : State} (id : Nat) (p : Bool) (h : ScheduleSound s) : ScheduleSound (s.setPending id p) := by
  rw [scheduleSound_iff] at *
  refine ⟨(List.length_map _).trans_le h.1, h.2.map _ fun e => ?_⟩
  split <;> exact ⟨rfl, rfl⟩

theorem removeEntry_id_ne {s : State} {id : Nat} {x : SchedEntry} (hx : x ∈ (s.removeEntry id).wsc.sched) : x.id ≠ id := by
  have h := (List.mem_filter.1 hx).2
  simpa using h

/-- The entry evaluated leaves its place free for itself (R160). -/
theorem advance_schedule {s : State} {e : SchedEntry} (due : Nat) (he : ∃ x ∈ s.wsc.sched, x.id = e.id) (h : ScheduleSound s) :
    ScheduleSound (s.advance e due) := by
  have hr := removeEntry_schedule e.id h
  unfold State.advance
  dsimp only
  split
  · exact hr
  · obtain ⟨x, hx, hid⟩ := he
    have hlt : (s.removeEntry e.id).wsc.sched.length < s.wsc.sched.length :=
      List.length_filter_lt_length_iff_exists.2 ⟨x, hx, by simp [hid]⟩
    have hcount := h.count
    rw [scheduleSound_iff] at hr ⊢
    refine ⟨?_, hr.2.place fun x hx => removeEntry_id_ne hx⟩
    rw [length_placeEntry]
    omega

theorem ScheduleSound.empty {s : State} (h : s.wsc.sched = []) : ScheduleSound s := by
  rw [scheduleSound_iff, h]
  exact ⟨Nat.zero_le _, List.Pairwise.nil, List.nodup_nil⟩

theorem ScheduleSound.closed : Closed ScheduleSound where
  settle s h := h.of_deep (settle_deep s)
  record s k a b v _ h := h.of_deep (record_deep s k a b v)
  refreshSub s h := h.of_deep (refreshSub_deep s)
  mdc _ _ h := h.of_sched rfl
  line _ _ _ h := h.of_sched rfl
  apq _ _ h := h.of_sched rfl
  session _ _ _ _ h := h.of_sched rfl
  suspended _ _ _ _ h := h.of_sched rfl
  removed _ _ h := h.of_sched rfl
  takeId _ h := h.of_sched rfl
  created _ _ _ _ _ _ _ _ _ _ _ _ _ h := h.of_sched rfl
  charged _ _ _ h := h.of_sched rfl
  chm _ _ h := h.of_sched rfl
  btm _ _ h := h.of_sched rfl
  advance _ _ due he h := advance_schedule due he h
  setPending _ id p h := setPending_schedule id p h
  noSched _ _ := .empty rfl
  clock _ _ _ h := h.of_sched rfl
  resume _ _ h := h.of_sched rfl
  forceCutoff s h := h.of_deep (forceCutoff_deep s)

theorem schedAdd_schedule {s : State} {e : SchedEntry} (hnone : s.entry? e.id = none) (hl : s.wsc.sched.length < 16) (h : ScheduleSound s) :
    ScheduleSound { s with wsc.sched := placeEntry e s.wsc.sched } := by
  rw [scheduleSound_iff] at *
  refine ⟨?_, h.2.place fun x hx => ?_⟩
  · show (placeEntry e s.wsc.sched).length ≤ 16
    rw [length_placeEntry]
    exact hl
  · simpa using List.find?_eq_none.1 hnone x hx

theorem lengthenWindows_deep (s : State) (ls : List LineId) (ms : Nat) : (s.lengthenWindows ls ms).deep = s.deep := by
  obtain ⟨a, heq⟩ := lengthenWindows_same s ls ms
  rw [heq]
  rfl

theorem refreshAttn_schedule {s : State} (h : ScheduleSound s) : ScheduleSound s.refreshAttn := h.of_deep (refreshAttn_deep s)

theorem ScheduleSound.requests : Requests ScheduleSound ScheduleSound where
  weak _ h := h
  closed := ScheduleSound.closed
  finish s h := h.of_deep (finish_deep s)
  adm _ _ h := h.of_sched rfl
  eventsRead _ _ _ h := refreshAttn_schedule (h.of_sched rfl)
  faultClear _ h := refreshAttn_schedule (h.of_sched rfl)
  linkSet _ _ _ _ _ _ _ h := refreshAttn_schedule (h.of_sched rfl)
  lock _ h := h.of_sched rfl
  arm _ h := h.of_sched rfl
  entry _ _ _ _ _ _ h := h.of_sched rfl
  clearFault s d h := h.of_deep (clearFault_deep s d)
  unmute _ _ h := h.of_sched rfl
  tierSet _ _ _ _ _ _ _ _ _ _ _ _ _ _ _ _ _ h := h.of_sched rfl
  meterSet _ _ _ _ _ h := h.of_sched rfl
  schedAdd _ _ hnone hl _ h := schedAdd_schedule hnone hl h
  schedCancel _ id h := removeEntry_schedule id h
  extend s id _ _ ls ms h := h.of_deep (lengthenWindows_deep (s.updSession id _) ls ms)
  reserve _ _ _ h := h.of_sched rfl
  clock _ _ _ h := h.of_sched rfl
  taken _ h := h.of_sched rfl
  takenReset _ h := h.of_sched rfl
  replied _ _ _ h := h.of_sched rfl

theorem lapse_sched (s : State) (n : Nat) : (s.lapse n).wsc.sched = s.wsc.sched := by
  unfold State.lapse Wsc.lapse
  (repeat' split) <;> rfl

theorem takeNotice_wsc (s : State) (e : FrameError) : (s.takeNotice e).wsc = s.wsc := by
  rw [takeNotice_eq]
  split
  · obtain ⟨q, w, hraised⟩ := faultRaised_eq (s.noticeAnswered e) e
    generalize (s.noticeAnswered e).faultRaised e = u at hraised
    obtain ⟨attn, pulse, heq⟩ := refreshAttn_eq u
    rw [heq, hraised]
    rfl
  · rfl

theorem pulseAfterRead_eq (s : State) : ∃ q, s.pulseAfterRead = { s with evq := q } := by
  unfold State.pulseAfterRead
  dsimp only
  split <;> exact ⟨_, rfl⟩

/-- A software reset empties the Schedule and takes no other step on it. -/
theorem softwareReset_schedule {s : State} (h : ScheduleSound s) : ScheduleSound s.softwareReset :=
  ScheduleSound.closed.softwareReset (fun u h => h.of_deep (forceReset_deep u)) (fun _ h => h.of_sched rfl)
    (fun u h => by
      obtain ⟨q, w, heq⟩ := record_eq { u with
        evq.events := [], evq.lost := 0, evq.pulse := none, evq.readPulse := false,
        work.condFirst := none, work.blocked := [] } .partReset u.mdc.mode.code 1 none
      exact h.of_sched (by rw [State.resetEvents, heq])) h

theorem ScheduleSound.happenings : Happenings ScheduleSound ScheduleSound where
  lapse s n h := h.of_sched (lapse_sched s n)
  dequeue _ _ h := h.of_sched rfl
  notice s e h := h.of_sched (by rw [takeNotice_wsc])
  arrive s e h := by
    unfold State.arrive
    split <;> exact h.of_sched rfl
  receiver _ _ h := h.of_sched rfl
  ignPin _ _ _ h := h.of_sched rfl
  servicePin _ _ h := h.of_sched rfl
  pgPin _ _ _ h := h.of_sched rfl
  wlPinHeld _ _ _ _ h := h.of_sched rfl
  holdInReset _ _ := .empty rfl
  powerOn _ _ := .empty rfl
  ignSettles _ h := ScheduleSound.closed.ignSettles h
  rampDone s d _ h := h.of_deep (rampDone_deep s d)
  pgLost s d _ h := h.of_deep (pgLost_deep s d)
  rampFailed s d _ h := h.of_deep (rampFailed_deep s d)
  holdoff s d _ h := h.of_deep (powerOff_deep s d _)
  retry s d _ h := h.of_deep (enterQueued_deep s d)
  handoverTimeout _ _ h := ScheduleSound.closed.enterParked _ h
  sample _ i v p h := ScheduleSound.closed.sampleWork i v p h
  secondRises _ h := ScheduleSound.closed.secondRises h
  pulseEnd _ h := h.of_sched rfl
  softwareReset _ h := softwareReset_schedule h
  clearReply _ h := h.of_sched rfl
  release _ h := h.of_sched rfl
  d0Off s h := h.of_deep (enterOff_deep s 0)
  pulseAfterRead s h := by
    obtain ⟨q, heq⟩ := pulseAfterRead_eq s
    rw [heq]
    exact h.of_sched rfl

/-- Settles O11: the Schedule changes by placing an entry of a new id, by removal, and by marking entries. -/
theorem scheduleStaysSound : Obligations.ScheduleStaysSound := by
  intro s t h hstep
  exact step_keeps (ScheduleSound.requests.kept ScheduleSound.happenings) (fun _ _ h => h.of_sched rfl) (fun _ _ h => h.of_sched rfl)
    h hstep

end Sys2Proof.Machine
end

section
/-! The Event Queue stays within 24 well-made records (R165 to R167): obligation O12. -/

namespace Sys2Proof.Machine

theorem EventsSound.congr {s t : State} (h : EventsSound s) (he : t.evq.events = s.evq.events) (hl : t.evq.lost = s.evq.lost) :
    EventsSound t := by
  obtain ⟨hcount, hvalues, hlost⟩ := h
  constructor
  · rwa [he]
  · rwa [he]
  · rwa [hl]

theorem noteAppend_evq (s : State) : s.noteAppend.evq = s.evq := by
  unfold State.noteAppend
  split <;> rfl

/-- R165 to R167: a record of its kind's form joins, displaces the oldest, or is dropped and counted. -/
theorem record_eventsSound {s : State} {k : RecordKind} {a b : Nat} {v : Option Nat} (hv : v.isSome = k.carriesValue) (h : EventsSound s) :
    EventsSound (s.record k a b v) := by
  obtain ⟨hcount, hvalues, hlost⟩ := h
  have hnew : (v.map (BitVec.ofNat 16)).isSome = k.carriesValue := (Option.isSome_map ..).trans hv
  unfold State.record
  dsimp only
  split
  · next hlt =>
    rw [noteAppend_evq]
    refine ⟨?_, fun r hr => ?_, hlost⟩
    · simpa using hlt
    · rcases List.mem_append.1 hr with hr | hr
      · exact hvalues r hr
      · rw [List.mem_singleton.1 hr]
        exact hnew
  · split
    · exact ⟨hcount, hvalues, Nat.min_le_left _ _⟩
    · refine ⟨?_, fun r hr => ?_, Nat.min_le_left _ _⟩
      · show (s.noteAppend.evq.events.drop 1 ++ [_]).length ≤ 24
        rw [noteAppend_evq, List.length_append, List.length_drop, List.length_singleton]
        omega
      · have hr' : r ∈ s.noteAppend.evq.events.drop 1 ++ [_] := hr
        rw [noteAppend_evq] at hr'
        rcases List.mem_append.1 hr' with hr | hr
        · exact hvalues r (List.mem_of_mem_drop hr)
        · rw [List.mem_singleton.1 hr]
          exact hnew

theorem EventsSound.domestic : Domestic EventsSound where
  setState := setState_keeps (fun _ _ _ h => h.congr rfl rfl) (fun _ _ h => h.congr rfl rfl) (fun _ h => h.congr rfl rfl)
    (fun _ h => h.congr rfl rfl)
  dom _ _ _ _ h := h.congr rfl rfl
  rmp _ _ h := h.congr rfl rfl
  d0Held _ _ h := h.congr rfl rfl
  work _ _ h := h.congr rfl rfl
  record _ _ _ _ _ hv h := record_eventsSound hv h
  sub _ _ h := h.congr rfl rfl
  chm _ _ h := h.congr rfl rfl

theorem EventsSound.closed : Closed EventsSound where
  settle _ h := EventsSound.domestic.settle h
  record _ _ _ _ _ hv h := record_eventsSound hv h
  refreshSub _ h := EventsSound.domestic.refreshSub h
  mdc _ _ h := h.congr rfl rfl
  line _ _ _ h := h.congr rfl rfl
  apq _ _ h := h.congr rfl rfl
  session _ _ _ _ h := h.congr rfl rfl
  suspended _ _ _ _ h := h.congr rfl rfl
  removed _ _ h := h.congr rfl rfl
  takeId _ h := h.congr rfl rfl
  created _ _ _ _ _ _ _ _ _ _ _ _ _ h := h.congr rfl rfl
  charged _ _ _ h := h.congr rfl rfl
  chm _ _ h := h.congr rfl rfl
  btm _ _ h := h.congr rfl rfl
  advance s e d _ h := by
    unfold State.advance
    dsimp only
    split <;> exact h.congr rfl rfl
  setPending _ _ _ h := h.congr rfl rfl
  noSched _ h := h.congr rfl rfl
  clock _ _ _ h := h.congr rfl rfl
  resume _ _ h := h.congr rfl rfl
  forceCutoff _ h := EventsSound.domestic.forceCutoff h

theorem refreshAttn_eventsSound {s : State} (h : EventsSound s) : EventsSound s.refreshAttn := by
  obtain ⟨attn, pulse, heq⟩ := refreshAttn_eq s
  rw [heq]
  exact h.congr rfl rfl

theorem eventsRead_eventsSound {s : State} (k : Nat) (b : Bool) (h : EventsSound s) :
    EventsSound { s with evq.events := s.evq.events.drop k, evq.lost := 0, evq.readPulse := b } := by
  refine ⟨?_, fun r hr => h.values r (List.mem_of_mem_drop hr), Nat.zero_le _⟩
  have hcount := h.count
  show (s.evq.events.drop k).length ≤ 24
  rw [List.length_drop]
  omega

theorem EventsSound.requests : Requests EventsSound EventsSound where
  weak _ h := h
  closed := EventsSound.closed
  finish _ h := EventsSound.domestic.finish (EventsSound.closed.resumeNow h) (fun _ h => h.congr rfl rfl)
    (fun _ h => refreshAttn_eventsSound h)
  adm _ _ h := h.congr rfl rfl
  eventsRead _ k b h := refreshAttn_eventsSound (eventsRead_eventsSound k b h)
  faultClear _ h := refreshAttn_eventsSound (h.congr rfl rfl)
  linkSet _ _ _ _ _ _ _ h := refreshAttn_eventsSound (h.congr rfl rfl)
  lock _ h := h.congr rfl rfl
  arm _ h := h.congr rfl rfl
  entry _ _ _ _ _ _ h := h.congr rfl rfl
  clearFault _ d h := EventsSound.domestic.clearFault d h
  unmute _ _ h := h.congr rfl rfl
  tierSet _ _ _ _ _ _ _ _ _ _ _ _ _ _ _ _ _ h := h.congr rfl rfl
  meterSet _ _ _ _ _ h := h.congr rfl rfl
  schedAdd _ _ _ _ _ h := h.congr rfl rfl
  schedCancel _ _ h := h.congr rfl rfl
  extend s id _ _ ls ms h := EventsSound.closed.lengthenWindows ls ms (s := s.updSession id _) (h.congr rfl rfl)
  reserve _ _ _ h := h.congr rfl rfl
  clock _ _ _ h := h.congr rfl rfl
  taken _ h := h.congr rfl rfl
  takenReset _ h := h.congr rfl rfl
  replied _ _ _ h := h.congr rfl rfl

theorem lapse_events (s : State) (n : Nat) : (s.lapse n).evq.events = s.evq.events ∧ (s.lapse n).evq.lost = s.evq.lost := by
  unfold State.lapse
  (repeat' split) <;> exact ⟨rfl, rfl⟩

theorem faultRaised_eventsSound {s : State} (e : FrameError) (h : EventsSound s) : EventsSound (s.faultRaised e) := by
  have hrecord : EventsSound (s.record .linkFault (FrameErrorResult e).code s.lnk.limit (some s.lnk.frameErrors)) := record_eventsSound rfl h
  exact hrecord.congr rfl rfl

theorem takeNotice_eventsSound {s : State} (e : FrameError) (h : EventsSound s) : EventsSound (s.takeNotice e) := by
  rw [takeNotice_eq]
  split
  · have hraised : EventsSound ((s.noticeAnswered e).faultRaised e) := faultRaised_eventsSound e (h.congr rfl rfl)
    generalize (s.noticeAnswered e).faultRaised e = u at hraised
    exact (refreshAttn_eventsSound hraised).congr rfl rfl
  · exact h.congr rfl rfl

theorem resetEvents_eventsSound (s : State) : EventsSound s.resetEvents :=
  record_eventsSound rfl ⟨Nat.zero_le _, fun _ hr => (by cases hr), Nat.zero_le _⟩

theorem powerOn_eventsSound (s : State) : EventsSound s.powerOn := by
  refine ⟨?_, fun r hr => ?_, Nat.zero_le _⟩
  · exact Nat.succ_le_succ (Nat.zero_le _)
  · rw [List.mem_singleton.1 hr]
    rfl

theorem EventsSound.happenings : Happenings EventsSound EventsSound where
  lapse s n h := h.congr (lapse_events s n).1 (lapse_events s n).2
  dequeue _ _ h := h.congr rfl rfl
  notice _ e h := takeNotice_eventsSound e h
  arrive s e h := by
    unfold State.arrive
    split <;> exact h.congr rfl rfl
  receiver _ _ h := h.congr rfl rfl
  ignPin _ _ _ h := h.congr rfl rfl
  servicePin _ _ h := h.congr rfl rfl
  pgPin _ _ _ h := h.congr rfl rfl
  wlPinHeld _ _ _ _ h := h.congr rfl rfl
  holdInReset s _ := (powerOn_eventsSound s).congr rfl rfl
  powerOn s _ := powerOn_eventsSound s
  ignSettles _ h := EventsSound.closed.ignSettles h
  rampDone _ d _ h := EventsSound.domestic.rampDone d h
  pgLost _ d _ h := EventsSound.domestic.pgLost d h
  rampFailed _ d _ h := EventsSound.domestic.rampFailed d h
  holdoff _ d _ h := EventsSound.domestic.powerOff d _ h
  retry _ d _ h := EventsSound.domestic.enterQueued d h
  handoverTimeout _ _ h := EventsSound.closed.enterParked _ h
  sample _ i v p h := EventsSound.closed.sampleWork i v p h
  secondRises _ h := EventsSound.closed.secondRises h
  pulseEnd _ h := h.congr rfl rfl
  softwareReset _ h := EventsSound.closed.softwareReset (fun _ h => EventsSound.domestic.forceReset h) (fun _ h => h.congr rfl rfl)
    (fun u _ => resetEvents_eventsSound u) h
  clearReply _ h := h.congr rfl rfl
  release _ h := h.congr rfl rfl
  d0Off _ h := EventsSound.domestic.enterOff 0 h
  pulseAfterRead s h := by
    unfold State.pulseAfterRead
    dsimp only
    split <;> exact h.congr rfl rfl

/-- Settles O12: every record carries a value just where its kind does, and the policy bounds the queue. -/
theorem eventsStaySound : Obligations.EventsStaySound := by
  intro s t h hstep
  exact step_keeps (EventsSound.requests.kept EventsSound.happenings) (fun _ _ h => h.congr rfl rfl) (fun _ _ h => h.congr rfl rfl)
    h hstep

end Sys2Proof.Machine
end

section
/-! The Session Table keeps its bounds (R101 to R103): obligation O10. -/

namespace Sys2Proof.Machine

/-! ### The next free id (R103) -/

/-- The k-th id tried from a counter standing at n: 1 comes after 255 (R103). -/
def idTried (n k : Nat) : Nat := (n - 1 + k) % 255 + 1

theorem idTried_zero {n : Nat} (h : 1 ≤ n ∧ n ≤ 255) : idTried n 0 = n := by
  unfold idTried
  omega

theorem idTried_next {n : Nat} (h : 1 ≤ n ∧ n ≤ 255) (k : Nat) : idTried (if n = 255 then 1 else n + 1) k = idTried n (k + 1) := by
  unfold idTried
  split <;> omega

theorem idTried_range (n k : Nat) : 1 ≤ idTried n k ∧ idTried n k ≤ 255 := by
  unfold idTried
  omega

theorem idTried_injective {n i j : Nat} (hi : i < 255) (hj : j < 255) (h : idTried n i = idTried n j) : i = j := by
  unfold idTried at h
  omega

/-- The id found is the first one tried that is free, or, after k that are taken, the next. -/
theorem freeId_eq (taken : List Nat) (k : Nat) : ∀ n, 1 ≤ n ∧ n ≤ 255 → ∃ j ≤ k, freeId taken k n = idTried n j ∧
    (∀ i < j, idTried n i ∈ taken) ∧ (j < k → idTried n j ∉ taken) := by
  induction k with
  | zero => exact fun n hn => ⟨0, le_rfl, (idTried_zero hn).symm, fun i hi => absurd hi i.not_lt_zero, fun h => absurd h (lt_irrefl _)⟩
  | succ k ih =>
    intro n hn
    unfold freeId
    split
    · next hc =>
      obtain ⟨j, hj, heq, hall, hfree⟩ := ih (if n = 255 then 1 else n + 1) (by split <;> omega)
      simp only [idTried_next hn] at heq hall hfree
      refine ⟨j + 1, by omega, heq, fun i hi => ?_, fun h => hfree (by omega)⟩
      cases i with
      | zero => rw [idTried_zero hn]; exact List.contains_iff_mem.1 hc
      | succ i => exact hall i (by omega)
    · next hc =>
      refine ⟨0, Nat.zero_le _, (idTried_zero hn).symm, fun i hi => absurd hi i.not_lt_zero, fun _ => ?_⟩
      rw [idTried_zero hn]
      exact fun h => hc (List.contains_iff_mem.2 h)

/-- Fewer than seven ids are taken: one of the seven tried is free. -/
theorem freeId_free {taken : List Nat} {n : Nat} (hn : 1 ≤ n ∧ n ≤ 255) (h : taken.length < 7) : freeId taken 7 n ∉ taken := by
  obtain ⟨j, hj, heq, hall, hfree⟩ := freeId_eq taken 7 n hn
  rw [heq]
  rcases hj.lt_or_eq with hj | rfl
  · exact hfree hj
  · have hinj : ((List.range 7).map (idTried n)).Nodup := List.nodup_range.map_on fun a ha b hb hab =>
      idTried_injective (by have := List.mem_range.1 ha; omega) (by have := List.mem_range.1 hb; omega) hab
    have hsub : (List.range 7).map (idTried n) ⊆ taken := by
      intro x hx
      obtain ⟨i, hi, rfl⟩ := List.mem_map.1 hx
      exact hall i (List.mem_range.1 hi)
    have hlen := (hinj.subperm hsub).length_le
    rw [List.length_map, List.length_range] at hlen
    omega

theorem takeId_range {s : State} (h : SessionsSound s) : 1 ≤ s.takeId.2 ∧ s.takeId.2 ≤ 255 := by
  obtain ⟨j, -, heq, -⟩ := freeId_eq (s.ssc.sessions.map Session.id) 7 s.ssc.nextId h.next
  show 1 ≤ freeId _ 7 _ ∧ freeId _ 7 _ ≤ 255
  rw [heq]
  exact idTried_range _ _

theorem takeId_free {s : State} (h : SessionsSound s) : s.takeId.2 ∉ s.ssc.sessions.map Session.id :=
  freeId_free h.next (by rw [List.length_map]; exact Nat.lt_succ_of_le h.count)

/-! ### The table under its changes -/

theorem SessionsSound.congr {s t : State} (h : SessionsSound s) (hs : t.ssc = s.ssc) : SessionsSound t := by
  obtain ⟨hcount, hids, hcls, hsusp, hrange, hnext, hrem⟩ := h
  constructor <;> (rw [hs]; assumption)

/-- A session changed in place keeps its place: its id, its class, an active state, a remainder in range. -/
structure KeepsPlace (x y : Session) : Prop where
  id : y.id = x.id
  cls : y.cls = x.cls
  active : x.active = true → y.active = true
  rem : x.drawnRem ≤ 999 → y.drawnRem ≤ 999

theorem SessionsSound.map {s t : State} (h : SessionsSound s) (f : Session → Session) (hs : t.ssc.sessions = s.ssc.sessions.map f)
    (hn : t.ssc.nextId = s.ssc.nextId) (hf : ∀ x, KeepsPlace x (f x)) : SessionsSound t := by
  have hid : Session.id ∘ f = Session.id := funext fun x => (hf x).id
  have hcls : Session.cls ∘ f = Session.cls := funext fun x => (hf x).cls
  constructor
  · rw [hs, List.length_map]
    exact h.count
  · rw [hs, List.map_map, hid]
    exact h.ids
  · rw [hs, List.map_map, hcls]
    exact h.classes
  · rw [hs, ← List.countP_eq_length_filter, List.countP_map]
    refine (List.countP_mono_left fun x _ hx => ?_).trans ((List.countP_eq_length_filter ..).trans_le h.suspended)
    simp only [Function.comp, Bool.not_eq_true'] at hx ⊢
    exact Bool.eq_false_iff.2 fun ha => absurd ((hf x).active ha) (by rw [hx]; exact Bool.false_ne_true)
  · intro y hy
    obtain ⟨x, hx, rfl⟩ := List.mem_map.1 (hs ▸ hy)
    rw [(hf x).id]
    exact h.idRange x hx
  · rw [hn]
    exact h.next
  · intro y hy
    obtain ⟨x, hx, rfl⟩ := List.mem_map.1 (hs ▸ hy)
    exact (hf x).rem (h.remainder x hx)

theorem SessionsSound.update {s : State} (h : SessionsSound s) (id : Nat) (f : Session → Session) (hf : ∀ x, KeepsPlace x (f x)) :
    SessionsSound (s.updSession id f) := by
  refine h.map (fun x => if x.id == id then f x else x) rfl rfl fun x => ?_
  split
  · exact hf x
  · exact ⟨rfl, rfl, fun h => h, fun h => h⟩

theorem SessionsSound.sublist {s t : State} (h : SessionsSound s) (hs : t.ssc.sessions.Sublist s.ssc.sessions)
    (hn : t.ssc.nextId = s.ssc.nextId) : SessionsSound t where
  count := hs.length_le.trans h.count
  ids := h.ids.sublist (hs.map _)
  classes := h.classes.sublist (hs.map _)
  suspended := (hs.filter _).length_le.trans h.suspended
  idRange x hx := h.idRange x (hs.subset hx)
  next := by rw [hn]; exact h.next
  remainder x hx := h.remainder x (hs.subset hx)

theorem SessionsSound.empty {s : State} (hs : s.ssc.sessions = []) (hn : 1 ≤ s.ssc.nextId ∧ s.ssc.nextId ≤ 255) : SessionsSound s := by
  constructor <;> simp [hs, hn]

/-- At most one entry of a list without repetition has a given key. -/
theorem countP_key_le_one {α β : Type} [DecidableEq β] (f : α → β) (b : β) {l : List α} (h : (l.map f).Nodup) :
    l.countP (fun x => f x == b) ≤ 1 := by
  have hcount := List.nodup_iff_count_le_one.1 h b
  rwa [List.count, List.countP_map] at hcount

/-- The suspension slot was free, so the session suspended is the only one SUSPENDED (R94, R119). -/
theorem SessionsSound.suspend {s : State} {a b : Nat} (hfree : s.slotTaken = false) (h : SessionsSound s) :
    SessionsSound (s.updSession a (fun x => { x with state := .suspended, suspendedBy := some b, suspendedFor := some 0 })) := by
  have hids : ∀ x : Session, (if x.id == a then { x with state := .suspended, suspendedBy := some b, suspendedFor := some 0 } else x).id
      = x.id := fun x => by split <;> rfl
  refine ⟨?_, ?_, ?_, ?_, ?_, h.next, ?_⟩
  · exact (List.length_map _).trans_le h.count
  · simp only [State.updSession, List.map_map]
    rw [List.map_congr_left (f := Session.id ∘ _) (g := Session.id) fun x _ => hids x]
    exact h.ids
  · simp only [State.updSession, List.map_map]
    rw [List.map_congr_left (f := Session.cls ∘ _) (g := Session.cls) fun x _ => by simp only [Function.comp]; split <;> rfl]
    exact h.classes
  · simp only [State.updSession]
    rw [← List.countP_eq_length_filter, List.countP_map]
    refine (List.countP_mono_left fun x hx hs => ?_).trans (countP_key_le_one Session.id a h.ids)
    have hactive : x.active = true := by simpa using List.any_eq_false.1 hfree x hx
    simp only [Function.comp] at hs
    split at hs
    · assumption
    · simp [hactive] at hs
  · intro y hy
    obtain ⟨x, hx, rfl⟩ := List.mem_map.1 hy
    rw [hids]
    exact h.idRange x hx
  · intro y hy
    obtain ⟨x, hx, rfl⟩ := List.mem_map.1 hy
    have hrem := h.remainder x hx
    split <;> exact hrem

theorem takeId_sessionsSound {s : State} (h : SessionsSound s) : SessionsSound s.takeId.1 := by
  have hid := takeId_range h
  obtain ⟨hcount, hids, hcls, hsusp, hrange, -, hrem⟩ := h
  refine ⟨hcount, hids, hcls, hsusp, hrange, ?_, hrem⟩
  show 1 ≤ (if s.takeId.2 = 255 then 1 else s.takeId.2 + 1) ∧ (if s.takeId.2 = 255 then 1 else s.takeId.2 + 1) ≤ 255
  split <;> omega

/-- A place is free, and neither the id given nor the class of the new session has one (R88, R101, R103). -/
theorem created_sessionsSound {s v u : State} {c : ClassEntry} {x : Session} (hv : SessionsSound v) (hp : v.makePlace c = some u)
    (hu : SessionsSound u) (hcls : u.sessionOf? x.cls = none) (hid : x.id = u.takeId.2) (hk : s.keys.Sublist u.keys)
    (hactive : x.active = true) (hrem : x.drawnRem = 0) (hs : SessionsSound s) :
    SessionsSound { s with ssc.sessions := s.ssc.sessions ++ [x] } := by
  have hroom := makePlace_room hv.count hp
  have hidsSub : (s.ssc.sessions.map Session.id).Sublist (u.ssc.sessions.map Session.id) := by
    have hmap := hk.map Prod.fst
    rwa [State.keys, State.keys, List.map_map, List.map_map] at hmap
  have hlen := hidsSub.length_le
  rw [List.length_map, List.length_map] at hlen
  have hnewId : x.id ∉ s.ssc.sessions.map Session.id := fun hm => takeId_free hu (hid ▸ hidsSub.subset hm)
  have hnewCls : x.cls ∉ s.ssc.sessions.map Session.cls := by
    intro hm
    obtain ⟨y, hy, hyc⟩ := List.mem_map.1 hm
    exact List.find?_eq_none.1 (sessionOf_none hk hcls) y hy (by simpa using hyc)
  constructor
  · show (s.ssc.sessions ++ [x]).length ≤ 6
    rw [List.length_append, List.length_singleton]
    omega
  · simpa [List.nodup_append] using ⟨hs.ids, fun a ha hax => hnewId (hax ▸ List.mem_map_of_mem ha)⟩
  · simpa [List.nodup_append] using ⟨hs.classes, fun a ha hax => hnewCls (hax ▸ List.mem_map_of_mem ha)⟩
  · simpa [List.filter_append, hactive] using hs.suspended
  · intro y hy
    rcases List.mem_append.1 hy with hy | hy
    · exact hs.idRange y hy
    · rw [List.mem_singleton.1 hy, hid]
      exact takeId_range hu
  · exact hs.next
  · intro y hy
    rcases List.mem_append.1 hy with hy | hy
    · exact hs.remainder y hy
    · rw [List.mem_singleton.1 hy, hrem]
      exact Nat.zero_le _

theorem charge_keepsPlace (x : Session) (n p : Nat) : KeepsPlace x (x.charge n p) := by
  unfold Session.charge
  split
  · exact ⟨rfl, rfl, fun h => h, fun h => h⟩
  · exact ⟨rfl, rfl, fun h => h, fun _ => Nat.le_of_lt_succ (Nat.mod_lt _ (by decide))⟩

theorem lapse_keepsPlace (n : Nat) (x : Session) : KeepsPlace x (x.lapse n) := by
  unfold Session.lapse
  split <;> exact ⟨rfl, rfl, fun h => h, fun h => h⟩

theorem extended_keepsPlace (x : Session) (n c : Nat) : KeepsPlace x (x.extended n c) := by
  unfold Session.extended
  split <;> exact ⟨rfl, rfl, fun h => h, fun h => h⟩

theorem SessionsSound.domestic : Domestic SessionsSound where
  setState s d n t h := h.congr ((Domestic.sameSessions s.ssc).setState s d n t rfl)
  dom _ _ _ _ h := h.congr rfl
  rmp _ _ h := h.congr rfl
  d0Held _ _ h := h.congr rfl
  work _ _ h := h.congr rfl
  record s k a b v _ h := h.congr (record_ssc s k a b v)
  sub _ _ h := h.congr rfl
  chm _ _ h := h.congr rfl

theorem SessionsSound.closed : Closed SessionsSound where
  settle s h := h.congr (settle_ssc s)
  record s k a b v _ h := h.congr (record_ssc s k a b v)
  refreshSub s h := h.congr (refreshSub_ssc s)
  mdc _ _ h := h.congr rfl
  line _ _ _ h := h.congr rfl
  apq _ _ h := h.congr rfl
  session _ id f hf h := h.update id f fun x => ⟨(hf x).id, (hf x).cls, (hf x).active, fun hr => (hf x).rem.trans_le hr⟩
  suspended _ _ _ hfree h := h.suspend hfree
  removed _ _ h := h.sublist List.filter_sublist rfl
  takeId _ h := takeId_sessionsSound h
  created _ _ _ _ _ hv hp hu hcls hid hk ha hr hs := created_sessionsSound hv hp hu hcls hid hk ha hr hs
  charged _ g p h := h.map (fun x => x.charge (g x.id) p) rfl rfl (fun x => charge_keepsPlace x _ p)
  chm _ _ h := h.congr rfl
  btm _ _ h := h.congr rfl
  advance s e d _ h := h.congr (by unfold State.advance; dsimp only; split <;> rfl)
  setPending _ _ _ h := h.congr rfl
  noSched _ h := h.congr rfl
  clock _ _ _ h := h.congr rfl
  resume _ _ h := h.congr rfl
  forceCutoff _ h := SessionsSound.domestic.forceCutoff h

theorem refreshSessions_keepsPlace (s : State) (x : Session) : KeepsPlace x { x with state := s.stateOf x } :=
  ⟨rfl, rfl, fun h => (stateOf_active s x).trans h, fun h => h⟩

theorem refreshAttn_sessionsSound {s : State} (h : SessionsSound s) : SessionsSound s.refreshAttn := h.congr (refreshAttn_ssc s).1

theorem finish_sessionsSound {s : State} (h : SessionsSound s) : SessionsSound s.finish :=
  SessionsSound.domestic.finish (SessionsSound.closed.resumeNow h) (fun u h => h.map _ rfl rfl (refreshSessions_keepsPlace u))
    (fun _ h => refreshAttn_sessionsSound h)

theorem SessionsSound.requests : Requests SessionsSound SessionsSound where
  weak _ h := h
  closed := SessionsSound.closed
  finish _ h := finish_sessionsSound h
  adm _ _ h := h.congr rfl
  eventsRead _ _ _ h := refreshAttn_sessionsSound (h.congr rfl)
  faultClear _ h := refreshAttn_sessionsSound (h.congr rfl)
  linkSet _ _ _ _ _ _ _ h := refreshAttn_sessionsSound (h.congr rfl)
  lock _ h := h.congr rfl
  arm _ h := h.congr rfl
  entry _ _ _ _ _ _ h := h.congr rfl
  clearFault _ d h := SessionsSound.domestic.clearFault d h
  unmute _ _ h := h.congr rfl
  tierSet _ _ _ _ _ _ _ _ _ _ _ _ _ _ _ _ _ h := h.congr rfl
  meterSet _ _ _ _ _ h := h.congr rfl
  schedAdd _ _ _ _ _ h := h.congr rfl
  schedCancel _ _ h := h.congr rfl
  extend s id n c ls ms h :=
    SessionsSound.closed.lengthenWindows ls ms (s := s.updSession id _) (h.update id _ fun x => extended_keepsPlace x n c)
  reserve _ _ _ h := h.congr rfl
  clock _ _ _ h := h.congr rfl
  taken _ h := h.congr rfl
  takenReset _ h := h.congr rfl
  replied _ _ _ h := h.congr rfl

theorem takeNotice_ssc (s : State) (e : FrameError) : (s.takeNotice e).ssc = s.ssc := by
  rw [takeNotice_eq]
  split
  · obtain ⟨q, w, hraised⟩ := faultRaised_eq (s.noticeAnswered e) e
    generalize (s.noticeAnswered e).faultRaised e = u at hraised
    obtain ⟨attn, pulse, heq⟩ := refreshAttn_eq u
    rw [heq, hraised]
    rfl
  · rfl

theorem lapse_sessionsSound {s : State} (n : Nat) (h : SessionsSound s) : SessionsSound (s.lapse n) := by
  unfold State.lapse
  split
  · exact h
  · split
    · exact h.congr rfl
    · exact h.map (Session.lapse n) rfl rfl (lapse_keepsPlace n)

theorem SessionsSound.happenings : Happenings SessionsSound SessionsSound where
  lapse _ n h := lapse_sessionsSound n h
  dequeue _ _ h := h.congr rfl
  notice s e h := h.congr (takeNotice_ssc s e)
  arrive s e h := h.congr (by unfold State.arrive; split <;> rfl)
  receiver _ _ h := h.congr rfl
  ignPin _ _ _ h := h.congr rfl
  servicePin _ _ h := h.congr rfl
  pgPin _ _ _ h := h.congr rfl
  wlPinHeld _ _ _ _ h := h.congr rfl
  holdInReset _ _ := .empty rfl ⟨le_rfl, Nat.le_of_ble_eq_true rfl⟩
  powerOn _ _ := .empty rfl ⟨le_rfl, Nat.le_of_ble_eq_true rfl⟩
  ignSettles _ h := SessionsSound.closed.ignSettles h
  rampDone _ d _ h := SessionsSound.domestic.rampDone d h
  pgLost _ d _ h := SessionsSound.domestic.pgLost d h
  rampFailed _ d _ h := SessionsSound.domestic.rampFailed d h
  holdoff _ d _ h := SessionsSound.domestic.powerOff d _ h
  retry _ d _ h := SessionsSound.domestic.enterQueued d h
  handoverTimeout _ _ h := SessionsSound.closed.enterParked _ h
  sample _ i v p h := SessionsSound.closed.sampleWork i v p h
  secondRises _ h := SessionsSound.closed.secondRises h
  pulseEnd _ h := h.congr rfl
  softwareReset _ h := SessionsSound.closed.softwareReset
    (fun _ h => SessionsSound.domestic.forceReset h) (fun _ h => h.congr rfl)
    (fun u h => h.congr (by unfold State.resetEvents; rw [record_ssc])) h
  clearReply _ h := h.congr rfl
  release _ h := h.congr rfl
  d0Off _ h := SessionsSound.domestic.enterOff 0 h
  pulseAfterRead s h := by
    obtain ⟨q, heq⟩ := pulseAfterRead_eq s
    rw [heq]
    exact h.congr rfl

/-- Settles O10: a session comes only with a place, an id and a class free, and the one suspended found the slot free. -/
theorem sessionsStaySound : Obligations.SessionsStaySound := by
  intro s t h hstep
  exact step_keeps (SessionsSound.requests.kept SessionsSound.happenings) (fun _ _ h => h.congr rfl) (fun _ _ h => h.congr rfl)
    h hstep

end Sys2Proof.Machine
end

section
/-! Slots, Ramp Queue and domain states under every step (R22, R24, R27, R39, R40): the first half of obligation O8, on which O13 rests. -/

namespace Sys2Proof.Machine

theorem refreshAttn_rampSound {s : State} (h : RampSound s) : RampSound s.refreshAttn := h.same (refreshAttn_power s)

/-- The attempt count may always return to 0. -/
theorem clearAttempts_rampHeld {s : State} (d : DomId) (h : RampHeld s) : RampHeld (s.updDom d (fun x => { x with attempts := 0 })) := by
  refine ⟨h.arbiter.congr rfl fun e => ?_, fun e => ?_⟩
  · rw [dom_updDom]
    split
    · next he => rw [he]
    · rfl
  · rw [dom_updDom]
    split
    · obtain ⟨hen, htimer, -, -, -⟩ := h.domains d
      exact ⟨hen, htimer, Nat.zero_le _, fun h3 => absurd (show 0 = 3 from h3) (by decide), fun _ => rfl⟩
    · exact h.domains e

theorem clearFault_rampHeld {s : State} (d : DomId) (h : RampHeld s) : RampHeld (s.clearFault d) := by
  unfold State.clearFault
  split
  · exact RampHeld.closed.demandChanged (clearLatch_rampHeld h d)
  · next hs => exact RampHeld.closed.demandChanged (clearAttempts_rampHeld d (enterQueued_rampHeld h d (by simp [hs])))
  · exact clearAttempts_rampHeld d h

theorem RampSound.requests : Requests RampSound RampHeld where
  weak _ h := h.held
  closed := RampHeld.closed
  finish _ h := finish_rampSound h
  adm _ _ h := h.same rfl
  eventsRead _ _ _ h := refreshAttn_rampSound (h.same rfl)
  faultClear _ h := refreshAttn_rampSound (h.same rfl)
  linkSet _ _ _ _ _ _ _ h := refreshAttn_rampSound (h.same rfl)
  lock _ h := h.same rfl
  arm _ h := h.same rfl
  entry _ d e _ _ _ h := updDom_rampHeld d (fun x => { x with entry := { e with rampTimeout := clampRamp e.rampTimeout } })
    (fun _ => ⟨rfl, rfl, le_rfl, rfl⟩) h.held
  clearFault _ d h := clearFault_rampHeld d h.held
  unmute _ _ h := h.same rfl
  tierSet _ _ _ _ _ _ _ _ _ _ _ _ _ _ _ _ _ h := h.same rfl
  meterSet _ _ _ _ _ h := h.same rfl
  schedAdd _ _ _ _ _ h := h.same rfl
  schedCancel _ _ h := h.same rfl
  extend s id n c ls ms h := by
    obtain ⟨a, heq⟩ := lengthenWindows_same (s.updSession id (fun x => x.extended n c)) ls ms
    rw [heq]
    exact h.same rfl
  reserve _ _ _ h := h.same rfl
  clock _ _ _ h := h.held.same rfl
  taken _ h := h.same rfl
  takenReset _ h := h.same rfl
  replied _ _ _ h := h.same rfl

/-- With every domain OFF and RMP empty nothing is queued or ramping. -/
theorem RampSound.of_off {s : State} (hq : s.rmp = { queue := [], slotA := none, slotB := none })
    (hd : ∀ d, (s.dom d).state = .off ∧ (s.dom d).en = false ∧ (s.dom d).timer = 0 ∧ (s.dom d).attempts = 0) : RampSound s := by
  constructor
  · intro d
    obtain ⟨hstate, hen, htimer, hattempts⟩ := hd d
    exact ⟨by rw [hstate, hen]; rfl, fun _ => htimer, by omega, fun h3 => by omega, fun _ => hattempts⟩
  all_goals simp [hq, hd]

theorem powerOn_rampSound (s : State) : RampSound s.powerOn :=
  .of_off rfl fun d => by rw [powerOn_dom]; exact ⟨rfl, rfl, rfl, rfl⟩

theorem holdInReset_rampSound (s : State) : RampSound s.holdInReset := (powerOn_rampSound s).same rfl

theorem lapse_rmp (s : State) (n : Nat) : (s.lapse n).rmp = s.rmp := by
  unfold State.lapse
  (repeat' split) <;> rfl

theorem lapse_dom (s : State) (n : Nat) (d : DomId) : (s.lapse n).dom d = s.dom d ∨ (s.lapse n).dom d = (s.dom d).lapse n := by
  unfold State.lapse
  split
  · exact .inl rfl
  · split
    · exact .inl rfl
    · right
      simp [State.dom]

/-- A change of an entry, of PG or of the timer's time left keeps the Ramp Arbiter's invariant. -/
theorem RampSound.congr {s t : State} (h : RampSound s) (hr : t.rmp = s.rmp)
    (hd : ∀ d, (t.dom d).state = (s.dom d).state ∧ (t.dom d).en = (s.dom d).en ∧ (t.dom d).timer ≤ (s.dom d).timer ∧
      (t.dom d).attempts = (s.dom d).attempts) : RampSound t :=
  (h.held.congr hr hd).sound fun d hq => by
    rw [(hd d).1] at hq
    rw [hr]
    exact (h.queued d).1 hq

theorem lapse_rampSound {s : State} (n : Nat) (h : RampSound s) : RampSound (s.lapse n) := by
  refine h.congr (lapse_rmp s n) fun d => ?_
  rcases lapse_dom s n d with heq | heq <;> rw [heq]
  · exact ⟨rfl, rfl, le_rfl, rfl⟩
  · exact ⟨rfl, rfl, Nat.sub_le _ _, rfl⟩

theorem pgPin_rampSound {s : State} (d : DomId) (b : Bool) (h : RampSound s) :
    RampSound (s.updDom d (fun x => if s.held then { x with pgPin := b } else x.pgChange b)) := by
  refine h.congr rfl fun e => ?_
  rw [dom_updDom]
  split
  · next he =>
    subst he
    unfold Domain.pgChange
    (repeat' split) <;> exact ⟨rfl, rfl, le_rfl, rfl⟩
  · exact ⟨rfl, rfl, le_rfl, rfl⟩

theorem softwareReset_rampHeld {s : State} (h : RampHeld s) : RampHeld s.softwareReset :=
  RampHeld.closed.softwareReset (fun _ h => forceReset_rampHeld h) (fun _ h => h.same rfl)
    (fun _ h => h.same (by unfold State.resetEvents; rw [record_power]; rfl)) h

theorem RampSound.happenings : Happenings RampSound RampHeld where
  lapse _ n h := lapse_rampSound n h
  dequeue _ _ h := h.same rfl
  notice s e h := h.same (takeNotice_power s e)
  arrive s e h := h.same (by unfold State.arrive; split <;> rfl)
  receiver _ _ h := h.same rfl
  ignPin _ _ _ h := h.same rfl
  servicePin _ _ h := h.same rfl
  pgPin _ d b h := pgPin_rampSound d b h
  wlPinHeld _ _ _ _ h := h.same rfl
  holdInReset s _ := holdInReset_rampSound s
  powerOn s _ := (powerOn_rampSound s).held
  ignSettles _ h := RampHeld.closed.ignSettles h.held
  rampDone _ d hs h := rampDone_rampHeld h.held d hs
  pgLost _ d hs h := pgLost_rampHeld h.held d hs
  rampFailed _ d hs h := failed_rampHeld h.held d 0 (by simp [hs])
  holdoff _ d _ h := powerOff_rampHeld h.held d _
  retry _ d hs h := enterQueued_rampHeld h.held d (by simp [hs])
  handoverTimeout _ _ h := RampHeld.closed.enterParked _ h.held
  sample _ i v p h := RampHeld.closed.sampleWork i v p h.held
  secondRises _ h := RampHeld.closed.secondRises h.held
  pulseEnd _ h := h.same rfl
  softwareReset _ h := softwareReset_rampHeld h
  clearReply _ h := h.same rfl
  release _ h := h.same rfl
  d0Off _ h := off_rampHeld h 0
  pulseAfterRead s h := by
    obtain ⟨q, heq⟩ := pulseAfterRead_eq s
    rw [heq]
    exact h.same rfl

theorem RampSound.kept : Kept RampSound := RampSound.requests.kept RampSound.happenings

end Sys2Proof.Machine
end

section
/-! A reply in progress keeps D0 up (R35), so that what LNK holds stays through the work of a request. -/

namespace Sys2Proof.Machine

/-- LNK holds `l`, with a reply in progress, and D0 is up. -/
structure Serving (l : Lnk) (s : State) : Prop where
  live : s.linkLive = true
  lnk : s.lnk = l
  reply : l.reply.isSome = true

theorem linkLive_congr {s t : State} (h : (t.dom 0).state = (s.dom 0).state) : t.linkLive = s.linkLive := by
  unfold State.linkLive
  rw [h]

theorem Serving.congr {l : Lnk} {s t : State} (h : Serving l s) (hd : (t.dom 0).state = (s.dom 0).state) (hl : t.lnk = s.lnk) :
    Serving l t :=
  ⟨(linkLive_congr hd).trans h.live, hl.trans h.lnk, h.reply⟩

theorem Serving.same {l : Lnk} {s t : State} (h : Serving l s) (hp : t.power = s.power) (hl : t.lnk = s.lnk) : Serving l t :=
  h.congr (by rw [power_dom hp]) hl

theorem record_lnk (s : State) (k : RecordKind) (a b : Nat) (v : Option Nat) : (s.record k a b v).lnk = s.lnk := by
  obtain ⟨q, w, heq⟩ := record_eq s k a b v
  rw [heq]

theorem refreshSub_lnk (s : State) : s.refreshSub.lnk = s.lnk := by
  obtain ⟨c, -, heq⟩ := refreshSub_eq s
  rw [heq]

theorem refreshAttn_lnk (s : State) : s.refreshAttn.lnk = s.lnk := by
  obtain ⟨attn, pulse, heq⟩ := refreshAttn_eq s
  rw [heq]

theorem refreshOwners_lnk (s : State) : s.refreshOwners.lnk = s.lnk := by
  obtain ⟨v, heq⟩ := refreshOwners_same s
  rw [heq]

theorem refreshOwners_state (s : State) (d : DomId) : (s.refreshOwners.dom d).state = (s.dom d).state := by
  rw [refreshOwners_dom]

/-- The link follows D0 alone (R182). -/
theorem setState_lnk_ne (s : State) {d : DomId} (n : DomState) (t : Nat) (hd : d ≠ 0) : (s.setState d n t).lnk = s.lnk := by
  unfold State.setState
  dsimp only
  rw [if_neg hd]
  (repeat' split) <;> rfl

/-- Nothing of the link changes while D0 stays up. -/
theorem setState_lnk_live (s : State) (n : DomState) (t : Nat) (ho : (s.dom 0).state.live = true) (hn : n.live = true) :
    (s.setState 0 n t).lnk = s.lnk := by
  unfold State.setState State.linkFollows
  dsimp only
  rw [ho, hn]
  simp only [Bool.not_true, Bool.and_false, Bool.false_and, if_true]
  (repeat' split) <;> first | rfl | contradiction

section
variable {l : Lnk} {s : State} (h : Serving l s)
include h

theorem Serving.setState {d : DomId} {n : DomState} (t : Nat) (hd : d = 0 → n.live = true) : Serving l (s.setState d n t) := by
  by_cases h0 : d = 0
  · subst h0
    have hlive : (s.dom 0).state.live = true := h.live
    refine ⟨?_, (setState_lnk_live s n t hlive (hd rfl)).trans h.lnk, h.reply⟩
    unfold State.linkLive
    rw [setState_dom_self]
    exact hd rfl
  · exact h.congr (by rw [setState_dom_ne _ _ _ _ _ (Ne.symm h0)]) (setState_lnk_ne s n t h0)

/-- D0 is up, so a domain in another state is not D0. -/
theorem Serving.ne_zero {d : DomId} (hs : (s.dom d).state.live = false) : d ≠ 0 := by
  rintro rfl
  have hlive : (s.dom 0).state.live = true := h.live
  rw [hs] at hlive
  cases hlive

theorem Serving.updDom (d : DomId) (f : Domain → Domain) (hf : ∀ x, (f x).state = x.state) : Serving l (s.updDom d f) := by
  refine h.congr ?_ rfl
  rw [dom_updDom]
  split
  · next he => rw [hf, he]
  · rfl

theorem Serving.enterOff {d : DomId} (hd : d ≠ 0) : Serving l (s.enterOff d) :=
  (h.setState 0 (fun h0 => absurd h0 hd)).updDom d _ fun _ => rfl

theorem Serving.noteBlocked (d : DomId) : Serving l (s.noteBlocked d) := by
  unfold State.noteBlocked
  split
  · exact h
  · exact (h.updDom d (fun x => { x with depReported := true }) fun _ => rfl).congr rfl rfl

theorem Serving.enterQueued {d : DomId} (hd : d ≠ 0) : Serving l (s.enterQueued d) := by
  have hset : Serving l (s.setState d .queued 0) := h.setState 0 (fun h0 => absurd h0 hd)
  unfold State.enterQueued
  dsimp only
  split
  · exact hset.noteBlocked d
  · exact hset

/-- R35: while a reply is sent D0's switch-off is held. -/
theorem Serving.powerOff (d : DomId) (c : HeldCause) : Serving l (s.powerOff d c) := by
  unfold State.powerOff
  split
  · exact (h.updDom 0 (fun x => { x with timer := 0 }) fun _ => rfl).congr rfl rfl
  · next hc =>
    refine h.enterOff fun h0 => hc ?_
    rw [h0, h.lnk, h.reply]
    rfl

theorem Serving.forceOff (d : DomId) : Serving l (s.forceOff d) := by
  unfold State.forceOff
  split
  · exact h
  · exact h
  · next hs => exact h.enterOff (h.ne_zero (by rw [hs]; rfl))
  · next hs => exact h.enterOff (h.ne_zero (by rw [hs]; rfl))
  · next hs => exact h.enterOff (h.ne_zero (by rw [hs]; rfl))
  · exact h.powerOff d _
  · exact h.powerOff d _

theorem Serving.forceCutoff : Serving l s.forceCutoff := by
  refine foldl_closed _ (fun u d hu => ?_) _ h
  split
  · exact hu
  · exact hu.forceOff d

theorem Serving.transition (d : DomId) : Serving l (s.transition d) := by
  unfold State.transition
  split
  · exact h.forceCutoff
  · split
    · next hs =>
      split
      · exact h.enterQueued (h.ne_zero (by rw [hs]; rfl))
      · exact h
    · next hs =>
      split
      · exact h.enterOff (h.ne_zero (by rw [hs]; rfl))
      · exact h
    · next hs =>
      split
      · exact h.enterOff (h.ne_zero (by rw [hs]; rfl))
      · exact h
    · exact h
    · exact h
    · split
      · exact h
      · split
        · exact h.powerOff d _
        · exact h.setState _ fun _ => rfl
    · split
      · exact h.setState _ fun _ => rfl
      · exact h

theorem Serving.settle : Serving l s.settle := by
  refine foldl_closed _ (fun u d hu => ?_) _ h
  unfold State.transitionOf
  split
  · split
    · exact hu
    · exact (hu.congr (t := { u with dmc.d0Held := none }) rfl rfl).transition d
  · exact hu.transition d

end

theorem Serving.closed (l : Lnk) : Closed (Serving l) where
  settle _ h := h.settle
  record s k a b v _ h := h.same (record_power ..) (record_lnk s k a b v)
  refreshSub s h := h.same (refreshSub_power _) (refreshSub_lnk s)
  mdc _ _ h := h.same rfl rfl
  line _ _ _ h := h.same rfl rfl
  apq _ _ h := h.same rfl rfl
  session _ _ _ _ h := h.same rfl rfl
  suspended _ _ _ _ h := h.same rfl rfl
  removed _ _ h := h.same rfl rfl
  takeId _ h := h.same rfl rfl
  created _ _ _ _ _ _ _ _ _ _ _ _ _ h := h.same rfl rfl
  charged _ _ _ h := h.same rfl rfl
  chm _ _ h := h.same rfl rfl
  btm _ _ h := h.same rfl rfl
  advance s e d _ h := by
    unfold State.advance
    dsimp only
    split <;> exact h.same rfl rfl
  setPending _ _ _ h := h.same rfl rfl
  noSched _ h := h.same rfl rfl
  clock _ _ _ h := h.same rfl rfl
  resume _ _ h := h.same rfl rfl
  forceCutoff _ h := h.forceCutoff

theorem Serving.clearFault {l : Lnk} {s : State} (d : DomId) (h : Serving l s) : Serving l (s.clearFault d) := by
  unfold State.clearFault
  split
  · next hs =>
    refine (Serving.closed l).demandChanged ?_
    unfold State.clearLatch
    refine foldl_closed _ (fun u e hu => ?_) _ (h.enterOff (h.ne_zero (by rw [hs]; rfl)))
    split
    · exact hu.updDom e _ fun _ => rfl
    · exact hu
  · next hs =>
    exact (Serving.closed l).demandChanged ((h.enterQueued (h.ne_zero (by rw [hs]; rfl))).updDom d _ fun _ => rfl)
  · exact h.updDom d _ fun _ => rfl

/-- Only a QUEUED domain is granted a slot, so D0 keeps its state. -/
theorem Serving.grantAndRamp {l : Lnk} {s : State} (h : Serving l s) {d : DomId} (hd : (s.dom d).state = .queued) :
    Serving l (s.grantAndRamp d) := by
  have h0 : d ≠ 0 := h.ne_zero (by rw [hd]; rfl)
  have hgrant : Serving l (s.grant d) := by
    have hset : Serving l (s.setState d .ramping (s.dom d).entry.rampTimeout) := h.setState _ (fun h' => absurd h' h0)
    unfold State.grant
    dsimp only
    split <;> exact hset.congr rfl rfl
  unfold State.grantAndRamp
  dsimp only
  split
  · have hdone : Serving l ((s.grant d).rampDone d) := by
      unfold State.rampDone
      split
      · exact hgrant.setState _ (fun h' => absurd h' h0)
      · split
        · exact hgrant.enterOff h0
        · exact hgrant.setState _ (fun h' => absurd h' h0)
    have hchanged := (Serving.closed l).demandChanged hdone
    generalize ((s.grant d).rampDone d).demandChanged = u at hchanged
    exact hchanged.congr rfl rfl
  · exact hgrant

theorem Serving.grants {l : Lnk} (n : Nat) {s : State} (hr : RampSound s) (h : Serving l s) : Serving l (State.grants n s) := by
  induction n generalizing s with
  | zero => exact h
  | succ n ih =>
    unfold State.grants
    split
    · next hfree =>
      split
      · next d hnext =>
        have hd : (s.dom d).state = .queued := (hr.queued d).2 (mem_queueOrder (List.mem_of_find?_eq_some hnext))
        exact ih (grantAndRamp_rampSound hr d hd hfree) (h.grantAndRamp hd)
      · exact h
    · exact h

theorem Serving.finish {l : Lnk} {s : State} (hr : RampHeld s) (h : Serving l s) : Serving l s.finish := by
  have hqueue := enqueueArrivals_rampSound (RampHeld.closed.settle _ (RampHeld.closed.resumeNow hr))
  have hsettled := (Serving.closed l).settle _ ((Serving.closed l).resumeNow h)
  unfold State.finish
  generalize s.resumeNow.settle = r at hqueue hsettled
  have harrived : Serving l r.enqueueArrivals := hsettled.congr rfl rfl
  have hgrants := harrived.grants 12 hqueue
  generalize State.grants 12 r.enqueueArrivals = u at hgrants
  have hblocked : Serving l u.recordBlocked := by
    unfold State.recordBlocked
    refine foldl_closed _ (fun v d hv => ?_) _ (hgrants.same rfl rfl)
    split
    · exact hv.same (record_power ..) (record_lnk ..)
    · exact hv
  generalize u.recordBlocked = v at hblocked
  have howners : Serving l v.refreshSessions.refreshOwners := by
    have hv : Serving l v.refreshSessions := hblocked.same rfl rfl
    exact hv.congr (refreshOwners_state _ 0) (refreshOwners_lnk _)
  generalize v.refreshSessions.refreshOwners = w at howners
  have hsub : Serving l w.refreshSub := howners.same (refreshSub_power _) (refreshSub_lnk w)
  generalize w.refreshSub = x at hsub
  exact (hsub.same (refreshAttn_power x) (refreshAttn_lnk x)).same (t := x.refreshAttn.endEvent) rfl rfl

end Sys2Proof.Machine
end

section
/-! The link keeps with D0 (R176, R178, R182): obligation O13. -/

namespace Sys2Proof.Machine

/-! ### Two properties at once -/

theorem Closed.and {P Q : State → Prop} (k : Closed P) (j : Closed Q) : Closed (fun s => P s ∧ Q s) where
  settle s h := ⟨k.settle s h.1, j.settle s h.2⟩
  record s r a b v hv h := ⟨k.record s r a b v hv h.1, j.record s r a b v hv h.2⟩
  refreshSub s h := ⟨k.refreshSub s h.1, j.refreshSub s h.2⟩
  mdc s m h := ⟨k.mdc s m h.1, j.mdc s m h.2⟩
  line s l f h := ⟨k.line s l f h.1, j.line s l f h.2⟩
  apq s a h := ⟨k.apq s a h.1, j.apq s a h.2⟩
  session s id f hf h := ⟨k.session s id f hf h.1, j.session s id f hf h.2⟩
  suspended s a b hs h := ⟨k.suspended s a b hs h.1, j.suspended s a b hs h.2⟩
  removed s id h := ⟨k.removed s id h.1, j.removed s id h.2⟩
  takeId s h := ⟨k.takeId s h.1, j.takeId s h.2⟩
  created s v c u x hv hp hu hc hi hk ha hr h :=
    ⟨k.created s v c u x hv.1 hp hu.1 hc hi hk ha hr h.1, j.created s v c u x hv.2 hp hu.2 hc hi hk ha hr h.2⟩
  charged s g p h := ⟨k.charged s g p h.1, j.charged s g p h.2⟩
  chm s x h := ⟨k.chm s x h.1, j.chm s x h.2⟩
  btm s x h := ⟨k.btm s x h.1, j.btm s x h.2⟩
  advance s e d he h := ⟨k.advance s e d he h.1, j.advance s e d he h.2⟩
  setPending s id p h := ⟨k.setPending s id p h.1, j.setPending s id p h.2⟩
  noSched s h := ⟨k.noSched s h.1, j.noSched s h.2⟩
  clock s n hn h := ⟨k.clock s n hn h.1, j.clock s n hn h.2⟩
  resume s r h := ⟨k.resume s r h.1, j.resume s r h.2⟩
  forceCutoff s h := ⟨k.forceCutoff s h.1, j.forceCutoff s h.2⟩

/-! ### The invariant under the work of an event -/

/-- What of LNK the invariant speaks of. -/
def Lnk.core (l : Lnk) : Receiver × List Inbound × Nat × Bool × Bool × Option (List Byte) :=
  (l.receiver, l.inbound, l.frameErrors, l.armed, l.overrun, l.reply)

theorem LinkSound.congr {s t : State} (h : LinkSound s) (hd : (t.dom 0).state = (s.dom 0).state) (hl : t.lnk.core = s.lnk.core) :
    LinkSound t := by
  simp only [Lnk.core, Prod.mk.injEq] at hl
  obtain ⟨hrecv, hin, herr, harm, hover, hrep⟩ := hl
  obtain ⟨hinbound, herrors, hdead, hlive⟩ := h
  refine ⟨by rwa [hin], by rwa [herr], ?_, ?_⟩
  · rwa [linkLive_congr hd, hrecv, hin, harm, hover, herr, hrep]
  · rwa [linkLive_congr hd, hrecv]

theorem LinkSound.same {s t : State} (h : LinkSound s) (hp : t.power = s.power) (hl : t.lnk = s.lnk) : LinkSound t :=
  h.congr (by rw [power_dom hp]) (by rw [hl])

/-- What a change of D0's state leaves of the link (R182). -/
theorem setState_lnk_zero (s : State) (n : DomState) (t : Nat) : (s.setState 0 n t).lnk =
    if (s.dom 0).state.live && !n.live then s.linkLoss.lnk else if !(s.dom 0).state.live && n.live then s.linkUp.lnk else s.lnk := by
  unfold State.setState State.linkFollows
  dsimp only
  rw [if_pos rfl]
  (repeat' split) <;> rfl

/-- R182: D0's going dead empties the link, its coming up starts the receiver. -/
theorem setState_linkSound (s : State) (d : DomId) (n : DomState) (t : Nat) (h : LinkSound s) : LinkSound (s.setState d n t) := by
  by_cases hd : d = 0
  · subst hd
    obtain ⟨hinbound, herrors, hdead, hlive⟩ := h
    have hl := setState_lnk_zero s n t
    have hnew : (s.setState 0 n t).linkLive = n.live := by
      unfold State.linkLive
      rw [setState_dom_self]
    have hold : s.linkLive = (s.dom 0).state.live := rfl
    rw [hold] at hdead hlive
    cases ho : (s.dom 0).state.live <;> cases hn : n.live <;> rw [ho, hn] at hl
    · exact ⟨hl ▸ hinbound, hl ▸ herrors, fun _ => hl ▸ hdead ho, fun hx => absurd (hnew.symm.trans hx) (by simp [hn])⟩
    · obtain ⟨-, hempty, -, -, hzero, -⟩ := hdead ho
      have hup : (s.setState 0 n t).lnk = s.linkUp.lnk := hl
      refine ⟨?_, ?_, fun hx => absurd (hnew.symm.trans hx) (by simp [hn]), fun _ => ?_⟩ <;> rw [hup]
      · exact hinbound
      · exact herrors
      · exact fun hx => by cases hx
    · have hloss : (s.setState 0 n t).lnk = s.linkLoss.lnk := hl
      refine ⟨?_, ?_, fun _ => ?_, fun hx => absurd (hnew.symm.trans hx) (by simp [hn])⟩ <;> rw [hloss]
      · exact Nat.zero_le _
      · exact Nat.zero_le _
      · exact ⟨rfl, rfl, rfl, rfl, rfl, rfl⟩
    · exact ⟨hl ▸ hinbound, hl ▸ herrors, fun hx => absurd (hnew.symm.trans hx) (by simp [hn]), fun _ => hl ▸ hlive ho⟩
  · exact h.congr (by rw [setState_dom_ne _ _ _ _ _ (Ne.symm hd)]) (by rw [setState_lnk_ne s n t hd])

theorem updDom_linkSound {s : State} (d : DomId) (f : Domain → Domain) (hf : ∀ x, (f x).state = x.state) (h : LinkSound s) :
    LinkSound (s.updDom d f) := by
  refine h.congr ?_ rfl
  rw [dom_updDom]
  split
  · next he => rw [hf, he]
  · rfl

theorem LinkSound.domestic : Domestic LinkSound where
  setState s d n t h := setState_linkSound s d n t h
  dom _ d f hf h := updDom_linkSound d f hf h
  rmp _ _ h := h.congr rfl rfl
  d0Held _ _ h := h.congr rfl rfl
  work _ _ h := h.congr rfl rfl
  record _ _ _ _ _ _ h := h.same (record_power ..) (record_lnk ..)
  sub _ _ h := h.congr rfl rfl
  chm _ _ h := h.congr rfl rfl

theorem LinkSound.closed : Closed LinkSound where
  settle _ h := LinkSound.domestic.settle h
  record _ _ _ _ _ _ h := h.same (record_power ..) (record_lnk ..)
  refreshSub _ h := LinkSound.domestic.refreshSub h
  mdc _ _ h := h.congr rfl rfl
  line _ _ _ h := h.congr rfl rfl
  apq _ _ h := h.congr rfl rfl
  session _ _ _ _ h := h.congr rfl rfl
  suspended _ _ _ _ h := h.congr rfl rfl
  removed _ _ h := h.congr rfl rfl
  takeId _ h := h.congr rfl rfl
  created _ _ _ _ _ _ _ _ _ _ _ _ _ h := h.congr rfl rfl
  charged _ _ _ h := h.congr rfl rfl
  chm _ _ h := h.congr rfl rfl
  btm _ _ h := h.congr rfl rfl
  advance s e d _ h := by
    unfold State.advance
    dsimp only
    split <;> exact h.congr rfl rfl
  setPending _ _ _ h := h.congr rfl rfl
  noSched _ h := h.congr rfl rfl
  clock _ _ _ h := h.congr rfl rfl
  resume _ _ h := h.congr rfl rfl
  forceCutoff _ h := LinkSound.domestic.forceCutoff h

theorem refreshAttn_linkSound {s : State} (h : LinkSound s) : LinkSound s.refreshAttn :=
  h.same (refreshAttn_power s) (refreshAttn_lnk s)

theorem finish_linkSound {s : State} (h : LinkSound s) : LinkSound s.finish :=
  LinkSound.domestic.finish (LinkSound.closed.resumeNow h) (fun _ h => h.congr rfl rfl) (fun _ h => refreshAttn_linkSound h)

/-- Of a state with D0 up the invariant asks only the bounds and a live receiver. -/
theorem LinkSound.of_live {s : State} (hlive : s.linkLive = true) (hi : s.lnk.inbound.length ≤ 2) (he : s.lnk.frameErrors ≤ 255)
    (hr : s.lnk.receiver ≠ .dead) : LinkSound s :=
  ⟨hi, he, fun hx => absurd (hlive.symm.trans hx) (by decide), fun _ => hr⟩

/-! ### The taking of a request -/

/-- D0 is up and a reply is in progress. -/
structure Replying (s : State) : Prop where
  live : s.linkLive = true
  reply : s.lnk.reply.isSome = true

theorem Replying.serving {s : State} (h : Replying s) : Serving s.lnk s := ⟨h.live, rfl, h.reply⟩

theorem Serving.replying {l : Lnk} {s : State} (h : Serving l s) : Replying s := ⟨h.live, by rw [h.lnk]; exact h.reply⟩

theorem Replying.congr {s t : State} (h : Replying s) (hd : (t.dom 0).state = (s.dom 0).state) (hr : t.lnk.reply.isSome = true) : Replying t :=
  ⟨(linkLive_congr hd).trans h.live, hr⟩

theorem Replying.updDom {s : State} (h : Replying s) (d : DomId) (f : Domain → Domain) (hf : ∀ x, (f x).state = x.state) :
    Replying (s.updDom d f) := (h.serving.updDom d f hf).replying

theorem Replying.closed : Closed Replying where
  settle _ h := h.serving.settle.replying
  record _ _ _ _ _ hv h := ((Serving.closed _).record _ _ _ _ _ hv h.serving).replying
  refreshSub _ h := ((Serving.closed _).refreshSub _ h.serving).replying
  mdc _ _ h := h.congr rfl h.reply
  line _ _ _ h := h.congr rfl h.reply
  apq _ _ h := h.congr rfl h.reply
  session _ _ _ _ h := h.congr rfl h.reply
  suspended _ _ _ _ h := h.congr rfl h.reply
  removed _ _ h := h.congr rfl h.reply
  takeId _ h := h.congr rfl h.reply
  created _ _ _ _ _ _ _ _ _ _ _ _ _ h := h.congr rfl h.reply
  charged _ _ _ h := h.congr rfl h.reply
  chm _ _ h := h.congr rfl h.reply
  btm _ _ h := h.congr rfl h.reply
  advance s e d he h := ((Serving.closed _).advance s e d he h.serving).replying
  setPending _ _ _ h := h.congr rfl h.reply
  noSched _ h := h.congr rfl h.reply
  clock _ _ _ h := h.congr rfl h.reply
  resume _ _ h := h.congr rfl h.reply
  forceCutoff _ h := h.serving.forceCutoff.replying

theorem refreshAttn_replying {s : State} (h : Replying s) : Replying s.refreshAttn :=
  (h.serving.same (refreshAttn_power s) (refreshAttn_lnk s)).replying

/-- Throughout a request's work. -/
def InRequest (s : State) : Prop := RampSound s ∧ LinkSound s ∧ Replying s

/-- The same within an event, before the arrivals in the Ramp Queue. -/
def WithinRequest (s : State) : Prop := RampHeld s ∧ LinkSound s ∧ Replying s

theorem InRequest.congr {s t : State} (h : InRequest s) (hp : t.power = s.power) (hi : t.lnk.inbound = s.lnk.inbound)
    (he : t.lnk.frameErrors ≤ 255) (hr : t.lnk.receiver = s.lnk.receiver) (hreply : t.lnk.reply.isSome = true) : InRequest t := by
  obtain ⟨hramp, hlink, hreplying⟩ := h
  have hd : (t.dom 0).state = (s.dom 0).state := by rw [power_dom hp]
  have ht := hreplying.congr hd hreply
  exact ⟨hramp.same hp, .of_live ht.live (hi ▸ hlink.inbound) he (hr ▸ hlink.live hreplying.live), ht⟩

/-- What leaves domains and link alone. -/
theorem InRequest.same {s t : State} (h : InRequest s) (hp : t.power = s.power) (hl : t.lnk = s.lnk) : InRequest t :=
  h.congr hp (by rw [hl]) (by rw [hl]; exact h.2.1.errors) (by rw [hl]) (by rw [hl]; exact h.2.2.reply)

theorem InRequest.within {s : State} (h : InRequest s) : WithinRequest s := ⟨h.1.held, h.2⟩

theorem WithinRequest.closed : Closed WithinRequest := RampHeld.closed.and (LinkSound.closed.and Replying.closed)

theorem refreshAttn_inRequest {s : State} (h : InRequest s) : InRequest s.refreshAttn :=
  h.same (refreshAttn_power s) (refreshAttn_lnk s)

theorem finish_inRequest {s : State} (h : WithinRequest s) : InRequest s.finish :=
  ⟨finish_rampSound h.1, finish_linkSound h.2.1, (h.2.2.serving.finish h.1).replying⟩

theorem InRequest.requests : Requests InRequest WithinRequest where
  weak _ h := h.within
  closed := WithinRequest.closed
  finish _ h := finish_inRequest h
  adm _ _ h := h.same rfl rfl
  eventsRead _ _ _ h := refreshAttn_inRequest (h.same rfl rfl)
  faultClear _ h := refreshAttn_inRequest (h.congr rfl rfl h.2.1.errors rfl h.2.2.reply)
  linkSet _ _ _ _ _ _ _ h := refreshAttn_inRequest (h.congr rfl rfl h.2.1.errors rfl h.2.2.reply)
  lock _ h := h.congr rfl rfl h.2.1.errors rfl h.2.2.reply
  arm _ h := h.congr rfl rfl h.2.1.errors rfl h.2.2.reply
  entry s d e hr ho hp h := ⟨RampSound.requests.entry s d e hr ho hp h.1, updDom_linkSound d _ (fun _ => rfl) h.2.1,
    h.2.2.updDom d _ fun _ => rfl⟩
  clearFault _ d h := ⟨clearFault_rampHeld d h.1.held, LinkSound.domestic.clearFault d h.2.1, (h.2.2.serving.clearFault d).replying⟩
  unmute _ _ h := h.same rfl rfl
  tierSet _ _ _ _ _ _ _ _ _ _ _ _ _ _ _ _ _ h := h.same rfl rfl
  meterSet _ _ _ _ _ h := h.same rfl rfl
  schedAdd _ _ _ _ _ h := h.same rfl rfl
  schedCancel _ _ h := h.same rfl rfl
  extend s id n c ls ms h := by
    obtain ⟨a, heq⟩ := lengthenWindows_same (s.updSession id (fun x => x.extended n c)) ls ms
    rw [heq]
    exact h.same rfl rfl
  reserve _ _ _ h := h.same rfl rfl
  clock s _ _ h := (h.same (t := { s with wsc.seconds := _, wsc.fraction := 0, wsc.riseDue := false }) rfl rfl).within
  taken _ h := h.congr rfl rfl (Nat.zero_le _) rfl rfl
  takenReset _ h := h.congr rfl rfl h.2.1.errors rfl rfl
  replied _ _ _ h := h.congr rfl rfl h.2.1.errors rfl rfl

theorem linkLive_of_inbound {s : State} {e : Inbound} {rest : List Inbound} (hi : s.lnk.inbound = e :: rest) (h : LinkSound s) :
    s.linkLive = true := by
  by_contra hdead
  obtain ⟨-, hempty, -⟩ := h.dead (Bool.eq_false_iff.2 hdead)
  rw [hi] at hempty
  cases hempty

theorem dequeue_linkSound {s : State} {e : Inbound} {rest : List Inbound} (hi : s.lnk.inbound = e :: rest) (h : LinkSound s) :
    LinkSound { s with lnk.inbound := rest } := by
  have hlive := linkLive_of_inbound hi h
  refine .of_live hlive ?_ h.errors (h.live hlive)
  have hbound := h.inbound
  rw [hi, List.length_cons] at hbound
  exact (Nat.le_succ _).trans hbound

/-- A frame waits only on a live link, so its taking finds D0 up (R176, R182). -/
theorem takeFrame_linkSound {s : State} {type : Byte} {p : List Byte} {rest : List Inbound} (hi : s.lnk.inbound = .frame type p :: rest)
    (hr : RampSound s) (h : LinkSound s) : LinkSound ({ s with lnk.inbound := rest }.takeFrame type p) := by
  have hlive := linkLive_of_inbound hi h
  have hrest := dequeue_linkSound hi h
  have hstart : InRequest { s with lnk.inbound := rest, lnk.reply := some [] } :=
    ⟨hr.same rfl, .of_live hlive hrest.inbound hrest.errors (hrest.live hlive), hlive, rfl⟩
  exact (takeFrame_keeps InRequest.requests type p hstart).2.1

/-! ### The other happenings -/

theorem takeNotice_linkSound {s : State} {e : FrameError} (hlive : s.linkLive = true) (h : LinkSound s) : LinkSound (s.takeNotice e) := by
  have hanswered : LinkSound (s.noticeAnswered e) := .of_live hlive h.inbound (Nat.min_le_left _ _) (h.live hlive)
  have hup : (s.noticeAnswered e).linkLive = true := hlive
  rw [takeNotice_eq]
  split
  · obtain ⟨q, w, hraised⟩ := faultRaised_eq (s.noticeAnswered e) e
    have hsound : LinkSound ((s.noticeAnswered e).faultRaised e) := by
      rw [hraised]
      exact .of_live hup hanswered.inbound hanswered.errors (hanswered.live hup)
    generalize (s.noticeAnswered e).faultRaised e = u at hsound
    exact (refreshAttn_linkSound hsound).congr (t := u.refreshAttn.endEvent) rfl rfl
  · exact hanswered

theorem lapse_linkSound {s : State} (n : Nat) (h : LinkSound s) : LinkSound (s.lapse n) := by
  refine h.congr ?_ ?_
  · rcases lapse_dom s n 0 with heq | heq <;> rw [heq]
    rfl
  · unfold State.lapse
    (repeat' split) <;> rfl

theorem resetLink_linkSound {s : State} (h : LinkSound s) : LinkSound s.resetLink := by
  have hd : s.resetLink.linkLive = s.linkLive := rfl
  refine ⟨Nat.zero_le _, Nat.zero_le _, fun hx => ?_, fun hx => ?_⟩
  · have hdead : (s.dom 0).state.live = false := hx
    exact ⟨if_neg (by rw [hdead]; decide), rfl, rfl, rfl, rfl, (h.dead (hd ▸ hx)).2.2.2.2.2⟩
  · have hlive : (s.dom 0).state.live = true := hx
    have hr : s.resetLink.lnk.receiver = .hunting := if_pos hlive
    rw [hr]
    decide

theorem resetEvents_lnk (s : State) : s.resetEvents.lnk = s.lnk := by
  unfold State.resetEvents
  rw [record_lnk]

theorem resetEvents_power (s : State) : s.resetEvents.power = s.power := by
  unfold State.resetEvents
  rw [record_power]
  rfl

theorem softwareReset_linkSound {s : State} (h : LinkSound s) : LinkSound s.softwareReset :=
  LinkSound.closed.softwareReset (fun _ h => LinkSound.domestic.forceReset h) (fun _ h => resetLink_linkSound h)
    (fun u h => h.same (resetEvents_power u) (resetEvents_lnk u)) h

theorem clearReply_linkSound {s : State} (h : LinkSound s) : LinkSound s.clearReply := by
  obtain ⟨hinbound, herrors, hdead, hlive⟩ := h
  refine ⟨hinbound, herrors, fun hx => ?_, hlive⟩
  obtain ⟨hrecv, hin, harm, hover, herr, -⟩ := hdead hx
  exact ⟨hrecv, hin, harm, hover, herr, rfl⟩

theorem replySent_linkSound {s : State} (h : LinkSound s) : LinkSound s.replySent := by
  unfold State.replySent
  dsimp only
  have hreset : LinkSound (if s.lnk.resetDue then s.softwareReset else s) := by
    split
    · exact softwareReset_linkSound h
    · exact h
  generalize (if s.lnk.resetDue = true then s.softwareReset else s) = u at hreset
  have hreleased : LinkSound u.clearReply.releaseD0 := by
    have hfree : LinkSound { u.clearReply with dmc.d0Held := none } := (clearReply_linkSound hreset).congr rfl rfl
    unfold State.releaseD0
    dsimp only
    split
    · exact LinkSound.closed.demandChanged (LinkSound.domestic.enterOff 0 hfree)
    · exact hfree
  generalize u.clearReply.releaseD0 = v at hreleased
  obtain ⟨q, heq⟩ := pulseAfterRead_eq v
  rw [heq]
  exact finish_linkSound (hreleased.congr rfl rfl)

/-- R176: an arrival takes one of two places, or is discarded. -/
theorem arrive_linkSound {s : State} (e : Inbound) (hlive : s.linkLive = true) (h : LinkSound s) : LinkSound (s.arrive e) := by
  unfold State.arrive
  split
  · next hlt =>
    refine .of_live hlive ?_ h.errors (h.live hlive)
    show (s.lnk.inbound ++ [e]).length ≤ 2
    rw [List.length_append, List.length_singleton]
    omega
  · exact .of_live hlive h.inbound h.errors (h.live hlive)

theorem receiver_linkSound {s : State} {r : Receiver} (hold : s.lnk.receiver ≠ .dead) (hnew : r ≠ .dead) (h : LinkSound s) :
    LinkSound (s.setReceiver r) := by
  have hlive : s.linkLive = true := by
    by_contra hdead
    exact hold (h.dead (Bool.eq_false_iff.2 hdead)).1
  exact .of_live hlive h.inbound h.errors hnew

theorem pgPin_linkSound {s : State} (d : DomId) (b : Bool) (h : LinkSound s) :
    LinkSound (s.updDom d (fun x => if s.held then { x with pgPin := b } else x.pgChange b)) := by
  refine updDom_linkSound d _ (fun x => ?_) h
  unfold Domain.pgChange
  (repeat' split) <;> rfl

theorem powerOn_linkSound (s : State) : LinkSound s.powerOn := by
  have hdead : s.powerOn.linkLive = false := by
    unfold State.linkLive
    rw [powerOn_dom]
    rfl
  exact ⟨Nat.zero_le _, Nat.zero_le _, fun _ => ⟨rfl, rfl, rfl, rfl, rfl, rfl⟩, fun hx => absurd (hdead.symm.trans hx) (by decide)⟩

theorem LinkSound.kept : Kept (fun s => RampSound s ∧ LinkSound s) where
  lapse s n h := ⟨RampSound.kept.lapse s n h.1, lapse_linkSound n h.2⟩
  request s type p rest hh hr hi h := ⟨RampSound.kept.request s type p rest hh hr hi h.1, takeFrame_linkSound hi h.1 h.2⟩
  notice s e rest hh hr hi h := by
    have hlive : s.linkLive = true := linkLive_of_inbound hi h.2
    exact ⟨RampSound.kept.notice s e rest hh hr hi h.1, takeNotice_linkSound hlive (dequeue_linkSound hi h.2)⟩
  arrive s e hl h := ⟨RampSound.kept.arrive s e hl h.1, arrive_linkSound e hl h.2⟩
  receiver s r ho hn h := ⟨RampSound.kept.receiver s r ho hn h.1, receiver_linkSound ho hn h.2⟩
  replySent s hh hr h := ⟨RampSound.kept.replySent s hh hr h.1, replySent_linkSound h.2⟩
  ignPin s i hi h := ⟨RampSound.kept.ignPin s i hi h.1, h.2.congr rfl rfl⟩
  servicePin s i h := ⟨RampSound.kept.servicePin s i h.1, h.2.congr rfl rfl⟩
  pgPin s d b h := ⟨RampSound.kept.pgPin s d b h.1, pgPin_linkSound d b h.2⟩
  wlPinHeld s l b hh h := ⟨RampSound.kept.wlPinHeld s l b hh h.1, h.2.congr rfl rfl⟩
  holdInReset s h := ⟨RampSound.kept.holdInReset s h.1, (powerOn_linkSound s).congr rfl rfl⟩
  leaveReset s hh h := ⟨RampSound.kept.leaveReset s hh h.1, finish_linkSound (powerOn_linkSound s)⟩
  ignSettles s hh h := ⟨RampSound.kept.ignSettles s hh h.1, finish_linkSound (LinkSound.closed.ignSettles h.2)⟩
  wlChange s l b hh h := ⟨RampSound.kept.wlChange s l b hh h.1, finish_linkSound (LinkSound.closed.wlChange l b h.2)⟩
  wlSettles s l hh h := ⟨RampSound.kept.wlSettles s l hh h.1, finish_linkSound (LinkSound.closed.wlSettles l h.2)⟩
  rampDone s d hh hs h := ⟨RampSound.kept.rampDone s d hh hs h.1, finish_linkSound (LinkSound.closed.demandChanged (LinkSound.domestic.rampDone d h.2))⟩
  pgLost s d hh hs h := by
    refine ⟨RampSound.kept.pgLost s d hh hs h.1, finish_linkSound ?_⟩
    have hlost := LinkSound.closed.demandChanged (LinkSound.domestic.pgLost d h.2)
    split
    · exact softwareReset_linkSound hlost
    · exact hlost
  rampFailed s d hh hs h :=
    ⟨RampSound.kept.rampFailed s d hh hs h.1, finish_linkSound (LinkSound.closed.demandChanged (LinkSound.domestic.rampFailed d h.2))⟩
  holdoff s d hh hs h :=
    ⟨RampSound.kept.holdoff s d hh hs h.1, finish_linkSound (LinkSound.closed.demandChanged (LinkSound.domestic.powerOff d _ h.2))⟩
  retry s d hh hs h :=
    ⟨RampSound.kept.retry s d hh hs h.1, finish_linkSound (LinkSound.closed.demandChanged (LinkSound.domestic.enterQueued d h.2))⟩
  nuisanceWindow s l hh h := ⟨RampSound.kept.nuisanceWindow s l hh h.1, finish_linkSound (h.2.congr rfl rfl)⟩
  endMute s l hh h := ⟨RampSound.kept.endMute s l hh h.1, finish_linkSound (LinkSound.closed.endMute l _ h.2)⟩
  windowExpired s l r hh hr h := ⟨RampSound.kept.windowExpired s l r hh hr h.1, finish_linkSound (LinkSound.closed.windowExpired l r h.2)⟩
  handoverTimeout s hh ht h := ⟨RampSound.kept.handoverTimeout s hh ht h.1, finish_linkSound (LinkSound.closed.enterParked _ h.2)⟩
  sample s i v p hh h := ⟨RampSound.kept.sample s i v p hh h.1, finish_linkSound (LinkSound.closed.sampleWork i v p h.2)⟩
  closeSession s id hh h := ⟨RampSound.kept.closeSession s id hh h.1, finish_linkSound (LinkSound.closed.closeSession id _ h.2)⟩
  secondRises s hh h := ⟨RampSound.kept.secondRises s hh h.1, finish_linkSound (LinkSound.closed.secondRises h.2)⟩
  finish s hh h := ⟨RampSound.kept.finish s hh h.1, finish_linkSound h.2⟩
  pulseEnd s hh h := ⟨RampSound.kept.pulseEnd s hh h.1, finish_linkSound (h.2.congr rfl rfl)⟩

/-- Settles O13: LNK changes with D0 alone (R182), and a reply in progress keeps D0 up through the work of a request (R35). -/
theorem linkStaysSound : Obligations.LinkStaysSound := by
  intro s t hr h hstep
  have hboth : RampSound s ∧ LinkSound s := ⟨hr, h⟩
  exact (step_keeps LinkSound.kept (fun _ _ h => ⟨h.1.same rfl, h.2.congr rfl rfl⟩) (fun _ _ h => ⟨h.1.same rfl, h.2.congr rfl rfl⟩)
    hboth hstep).2

end Sys2Proof.Machine
end

section
/-! What an event can do to the mode, the meter, the tier and the clock, said once: obligations O6 and O7 rest on it. -/

namespace Sys2Proof.Machine

/-- The mode with what goes with it, the tier, the meter's quantities, the clock and the link's limit: what no transition, session, line or
schedule entry changes of itself. -/
def State.gauges (s : State) : Mdc × Btm × Chm × Nat × Nat × Nat :=
  ({ s.mdc with sub := none, service := ⟨false, false, none⟩ }, s.btm, { s.chm with period := 0, earlyDue := false, elapsed := 0 },
    s.wsc.seconds, s.wsc.fraction, s.lnk.limit)

theorem gauges_of_base {s t : State} (h : t.base = s.base) : t.gauges = s.gauges := by
  have hchm := congrArg Base.chm h
  have hmdc := congrArg Base.mdc h
  simp only [State.base, Mdc.mk.injEq, Chm.mk.injEq] at hchm hmdc
  unfold State.gauges
  rw [base_btm h, base_seconds h, base_fraction h, base_limit h]
  simp [hchm, hmdc]

theorem gauges_of_deep {s t : State} (h : t.deep = s.deep) : t.gauges = s.gauges := gauges_of_base (deep_base h)

/-- P is kept by every change that an event makes in the gauges. -/
structure Gauged (P : State → Prop) : Prop where
  same : ∀ s t, t.gauges = s.gauges → P s → P t
  lapse : ∀ s n, P s → P (s.lapse n)
  ignPin : ∀ s i, i.debounced = s.mdc.ign.debounced → P s → P { s with mdc.ign := i }
  powerOn : ∀ s : State, P s.powerOn
  ignSettles : ∀ s, P s → P s.ignSettles
  handoverTimeout : ∀ s, s.mdc.handoverTimer.isSome = true → P s → P (s.enterParked .handoverTimeout)
  parkSettings : ∀ s n, n ≤ 65535 → P s → P (s.parkSettings n)
  parkRequest : ∀ s, s.mdc.mode = .handover → P s → P (s.enterParked .parkRequest)
  readings : ∀ s i v, i ≤ 65535 → v ≤ 20000 → P s →
    P { s with chm.current := i, chm.voltage := v, chm.elapsed := 0, chm.earlyDue := false }
  decrement : ∀ s i p, P s → P (s.decrement i p)
  reading : ∀ s v, P s → P (s.reading v)
  secondRises : ∀ s, P s → P s.secondRises
  softwareReset : ∀ s, P s → P s.softwareReset
  linkSet : ∀ s n m p h, 1 ≤ n ∧ n ≤ 15 → 10 ≤ h ∧ h ≤ 600 → P s →
    P { s with lnk.limit := n, evq.attnMode := m, evq.policy := p, mdc.handoverTimeout := h }
  tierSet : ∀ s c k t h f r, 8000 ≤ t → t < k → k < c → c ≤ 15000 → 50 ≤ h → h ≤ 1000 → 1 ≤ f → f ≤ 32 → 1 ≤ r → r ≤ 255 → P s →
    P { s with btm := ⟨s.btm.tier, c, k, t, h, f, r, 0, 0⟩ }
  meterSet : ∀ s q f, q ≤ 2000 → f ≤ 65535 → P s → P { s with chm.baseline := q, chm.floorMah := f }
  reserve : ∀ s r, r ≤ 235926000 → P s → P { s with chm.reserve := r }
  clock : ∀ s n, n ≤ 4294967295 → P s → P { s with wsc.seconds := n, wsc.fraction := 0, wsc.riseDue := false }

/-! ### What leaves the gauges -/

theorem disableLine_gauges (s : State) (l : LineId) : (s.disableLine l).gauges = s.gauges := gauges_of_base (disableLine_base s l)

theorem arm_gauges (s : State) (l : LineId) : (s.arm l).gauges = s.gauges := gauges_of_base (arm_base s l)

theorem writeLine_gauges (s : State) (l : LineId) (e : LineEntry) : (s.writeLine l e).gauges = s.gauges := by
  have hset : (s.updLine l (fun x => { x with entry := e })).gauges = s.gauges := rfl
  unfold State.writeLine
  dsimp only
  generalize s.updLine l (fun x => { x with entry := e }) = u at hset
  split
  · exact (arm_gauges u l).trans hset
  · split
    · exact (disableLine_gauges u l).trans hset
    · split
      · have harmed : (if (s.line l).entry.triggerMode != e.triggerMode then u.arm l else u).gauges = s.gauges := by
          split
          · exact (arm_gauges u l).trans hset
          · exact hset
        generalize (if (s.line l).entry.triggerMode != e.triggerMode then u.arm l else u) = v at harmed
        split
        · exact (gauges_of_base (muteIfReached_base v l)).trans harmed
        · exact harmed
      · exact hset

theorem stableChange_gauges (s : State) (l : LineId) (b : Bool) : (s.stableChange l b).gauges = s.gauges := by
  have htrigger : ∀ (u : State) (e : Edge), u.gauges = s.gauges → (u.trigger l e).gauges = s.gauges :=
    fun u e hu => (gauges_of_base (trigger_base u l e)).trans hu
  unfold State.stableChange
  dsimp only
  split
  · rfl
  · split
    · split
      · exact htrigger _ _ rfl
      · rfl
    · split
      · exact htrigger _ _ rfl
      · rfl

theorem wlChange_gauges (s : State) (l : LineId) (b : Bool) : (s.wlChange l b).gauges = s.gauges := by
  unfold State.wlChange
  dsimp only
  split
  · rfl
  · split
    · split
      · rfl
      · exact stableChange_gauges _ l b
    · rfl

theorem wlSettles_gauges (s : State) (l : LineId) : (s.wlSettles l).gauges = s.gauges := by
  unfold State.wlSettles
  dsimp only
  split
  · rfl
  · exact stableChange_gauges _ l _

theorem lengthenWindows_gauges (s : State) (ls : List LineId) (ms : Nat) : (s.lengthenWindows ls ms).gauges = s.gauges := by
  obtain ⟨a, heq⟩ := lengthenWindows_same s ls ms
  rw [heq]
  rfl

theorem exhaust_gauges (s : State) (n : Nat) : (s.exhaust n).gauges = s.gauges := by
  unfold State.exhaust
  exact gauges_of_base ((closeWhere_base _ _ _).trans (record_base ..))

theorem takeNotice_gauges (s : State) (e : FrameError) : (s.takeNotice e).gauges = s.gauges := by
  rw [takeNotice_eq]
  split
  · obtain ⟨q, w, hraised⟩ := faultRaised_eq (s.noticeAnswered e) e
    have hg : ((s.noticeAnswered e).faultRaised e).gauges = s.gauges := by
      rw [hraised]
      rfl
    generalize (s.noticeAnswered e).faultRaised e = u at hg
    exact (gauges_of_base (refreshAttn_base u)).trans hg
  · rfl

namespace Gauged

variable {P : State → Prop} (k : Gauged P) {s : State}
include k

theorem base {t : State} (hb : t.base = s.base) (h : P s) : P t := k.same s t (gauges_of_base hb) h

theorem finish (h : P s) : P s.finish := k.base (finish_base s) h

theorem sampleWork (i v : Int) (p : Nat) (h : P s) : P (s.sampleWork i v p) := by
  unfold State.sampleWork
  extract_lets i' v' mode metered before c0 s0 s1 s2 s3 s4
  have h0 : P s0 := k.readings s i' v' (Nat.min_le_left _ _) (Nat.min_le_left _ _) h
  have h1 : P s1 := by
    refine k.same s0 s1 ?_ h0
    show (if _ then _ else _ : State).gauges = _
    split
    · rfl
    · unfold State.attribute
      dsimp only
      split <;> rfl
  have h2 : P s2 := by
    show P (if _ then _ else _)
    split
    · exact k.decrement _ _ _ h1
    · exact h1
  have h3 : P s3 := by
    show P (if _ then _ else _)
    split
    · exact h2
    · exact k.base (closeWhere_base ..) h2
  have h4 : P s4 := by
    show P (if _ then _ else _)
    split
    · exact k.same _ _ (exhaust_gauges _ _) h3
    · exact h3
  exact k.reading _ _ h4

theorem carryOut (type : Byte) (p : List Byte) (h : P s) : P (carryOut s type p).1 := by
  have F : ∀ {u : State}, P u → P u.finish := fun hu => k.finish hu
  unfold Sys2Proof.Machine.carryOut
  split
  · exact h
  · unfold reqEventsRead refusal
    dsimp only
    split
    · split
      · exact k.base (refreshAttn_base _) (k.same s _ (by rfl) h)
      · exact h
    · exact h
  · exact k.base (refreshAttn_base _) (k.same s _ (by rfl) h)
  · unfold reqDomainSet refusal
    dsimp only
    (repeat' split) <;> first
      | with_reducible exact h
      | exact F (k.base (demandChanged_base _) (k.same s _ (by rfl) h))
  · unfold reqDomainGet refusal
    (repeat' split) <;> with_reducible exact h
  · unfold reqDomainClearFault refusal okay
    (repeat' split) <;> first
      | with_reducible exact h
      | exact F (k.same s _ (gauges_of_deep (clearFault_deep ..)) h)
  · unfold reqLineSet refusal
    (repeat' split) <;> first
      | with_reducible exact h
      | exact F (k.same s _ (writeLine_gauges ..) h)
  · unfold reqLineGet refusal
    (repeat' split) <;> with_reducible exact h
  · unfold reqLineUnmute refusal okay
    split
    · split
      · split
        · exact F (k.base (endMute_base ..) h)
        · exact k.same s _ rfl h
      · exact h
    · exact h
  · unfold reqClassSet refusal okay
    dsimp only
    split
    · split
      · exact h
      · split
        · exact h
        · next c _ _ e _ =>
          have hclass : P (s.setClass c e) := k.same s _ rfl h
          split
          · exact h
          · split
            · exact F (k.base (closeSession_base ..) hclass)
            · exact hclass
    · exact h
  · unfold reqClassGet refusal
    (repeat' split) <;> with_reducible exact h
  · unfold reqTierSet refusal
    dsimp only
    split
    · next nf nr =>
      split
      · next hok =>
        simp only [tierFieldsOk, Bool.and_eq_true, decide_eq_true_eq] at hok
        obtain ⟨⟨⟨⟨⟨⟨hcut, hcrit⟩, hcons⟩, htop⟩, hfall⟩, hfall'⟩, hrise⟩ := hok
        have hlt := nr.isLt
        exact k.tierSet s _ _ _ _ _ _ hcut hcrit hcons htop (by omega) (by omega) hfall hfall' hrise (by omega) h
      · exact h
    · exact h
  · unfold reqMeterSet refusal okay
    dsimp only
    split
    · split
      · next hq => exact k.meterSet s _ _ hq (nat16_lt _ _) h
      · exact h
    · exact h
  · unfold reqSchedAdd refusal okay
    dsimp only
    split
    · exact h
    · next e _ =>
      have hadd : P { s with wsc.sched := placeEntry e s.wsc.sched } := k.same s _ rfl h
      (repeat' split) <;> first
        | with_reducible exact h
        | with_reducible exact hadd
        | exact F (k.base (evaluate_base ..) hadd)
  · unfold reqSchedCancel refusal okay
    (repeat' split) <;> first
      | with_reducible exact h
      | exact k.same s _ rfl h
  · unfold reqSchedList refusal
    (repeat' split) <;> with_reducible exact h
  · unfold reqClockSet refusal okay
    dsimp only
    split
    · exact F (k.base (evaluatePastDue_base _) (k.clock s _ (nat32_lt _ _ _ _) h))
    · exact h
  · unfold reqSessionOpen openRefusal
    dsimp only
    (repeat' split) <;> first
      | with_reducible exact h
      | exact F (k.base (decideRequest_base ..) h)
  · unfold reqSessionExtend
    dsimp only
    (repeat' split) <;> first
      | with_reducible exact h
      | exact k.same s _ (lengthenWindows_gauges ..) h
  · unfold reqSessionRelease refusal
    dsimp only
    split
    · split
      · exact h
      · split
        · exact h
        · refine F ?_
          have hclose : ∀ id w, P (s.closeSession id w) := fun id w => k.base (closeSession_base ..) h
          (repeat' split) <;> first
            | exact hclose _ _
            | exact k.base (countNuisance_base ..) (hclose _ _)
    · exact h
  · unfold reqSessionList refusal
    (repeat' split) <;> with_reducible exact h
  · unfold reqPark refusal okay
    dsimp only
    split
    · next a b =>
      have hset := k.parkSettings s _ (nat16_lt a b) h
      have hmode : (s.parkSettings (nat16 a b)).mdc.mode = s.mdc.mode := (base_mode (parkSettings_base ..)).trans rfl
      split
      · exact h
      · refine F (k.base (evaluatePastDue_base _) ?_)
        split
        · next hm => exact k.parkRequest _ hm hset
        · exact k.base ((triggerPending_base _).trans (refreshSub_base _)) hset
    · exact h
  · unfold reqReserveAdjust refusal
    dsimp only
    split
    · split
      · exact h
      · next d1 d0 _ =>
        have hr : saturate reserveMax ((s.chm.reserve : Int) + (d1 ++ d0 : BitVec 16).toInt * 3600) ≤ 235926000 := by
          unfold saturate reserveMax
          omega
        have hset := k.reserve s _ hr h
        split
        · exact F (k.same _ _ (exhaust_gauges _ _) hset)
        · exact hset
    · exact h
  · unfold reqLinkSet refusal okay
    dsimp only
    split
    · split
      · split
        · next hb =>
          simp only [Bool.and_eq_true, decide_eq_true_eq] at hb
          obtain ⟨⟨⟨hlow, hhigh⟩, htlow⟩, hthigh⟩ := hb
          exact k.base (refreshAttn_base _) (k.linkSet s _ _ _ _ ⟨hlow, hhigh⟩ ⟨htlow, hthigh⟩ h)
        · exact h
      · exact h
    · exact h
  · exact k.same s _ rfl h
  · exact k.same s _ rfl h
  · exact h
  · exact h

theorem takeFrame (type : Byte) (p : List Byte) (h : P s) : P (s.takeFrame type p) := by
  unfold State.takeFrame
  dsimp only
  split
  · exact k.same s _ rfl h
  · have htaken : P { s with lnk.armed := false, lnk.frameErrors := 0, lnk.reply := some [] } := k.same s _ rfl h
    generalize { s with lnk.armed := false, lnk.frameErrors := 0, lnk.reply := some [] } = u at htaken
    have hanswer : P (u.answerFrame type p).1 := by
      unfold State.answerFrame refusal
      (repeat' split) <;> first
        | with_reducible exact htaken
        | exact k.carryOut type p htaken
    generalize u.answerFrame type p = q at hanswer
    exact k.same q.1 _ rfl hanswer

theorem replySent (h : P s) : P s.replySent := by
  have hreset : P (if s.lnk.resetDue then s.softwareReset else s) := by
    split
    · exact k.softwareReset s h
    · exact h
  have hb := replySent_base s
  generalize (if s.lnk.resetDue = true then s.softwareReset else s) = u at hreset hb
  exact k.base hb (k.same u _ rfl hreset)

/-- What keeps P through every change of the gauges keeps it through every step. -/
theorem kept : Kept P where
  lapse := k.lapse
  request s type p rest _ _ _ h := k.takeFrame type p (k.same s { s with lnk.inbound := rest } rfl h)
  notice s e rest _ _ _ h := k.same s _ (takeNotice_gauges { s with lnk.inbound := rest } e) h
  arrive s e _ h := k.same s _ (by unfold State.arrive; split <;> rfl) h
  receiver s r _ _ h := k.same s _ rfl h
  replySent s _ _ h := k.replySent h
  ignPin s i hi h := by
    refine k.ignPin s i ?_ h
    unfold Input.pinChange Input.pinChangeHeld at hi
    rcases hi with rfl | rfl <;> (repeat' split) <;> rfl
  servicePin s i h := k.same s _ rfl h
  pgPin s d b h := k.same s _ rfl h
  wlPinHeld s l b _ h := k.same s _ rfl h
  holdInReset s _ := by
    have hheld := k.ignPin s.powerOn { s.powerOn.mdc.ign with interval := some inputDebounce } rfl (k.powerOn s)
    exact k.same { s.powerOn with mdc.ign := { s.powerOn.mdc.ign with interval := some inputDebounce } } s.holdInReset rfl hheld
  leaveReset s _ _ := k.finish (k.powerOn s)
  ignSettles s _ h := k.finish (k.ignSettles s h)
  wlChange s l b _ h := k.finish (k.same s _ (wlChange_gauges s l b) h)
  wlSettles s l _ h := k.finish (k.same s _ (wlSettles_gauges s l) h)
  rampDone s d _ _ h := k.same s _ (gauges_of_deep (by simp)) h
  pgLost s d _ _ h := by
    have hlost : P (s.pgLost d).demandChanged := k.same s _ (gauges_of_deep (by simp)) h
    generalize (s.pgLost d).demandChanged = u at hlost
    refine k.finish ?_
    split
    · exact k.softwareReset u hlost
    · exact hlost
  rampFailed s d _ _ h := k.same s _ (gauges_of_deep (by simp)) h
  holdoff s d _ _ h := k.same s _ (gauges_of_deep (by simp)) h
  retry s d _ _ h := k.same s _ (gauges_of_deep (by simp)) h
  nuisanceWindow s l _ h := k.finish (k.same s _ rfl h)
  endMute s l _ h := k.finish (k.base (endMute_base ..) h)
  windowExpired s l r _ _ h := k.finish (k.base (windowExpired_base ..) h)
  handoverTimeout s _ ht h := k.finish (k.handoverTimeout s ht h)
  sample s i v p _ h := k.finish (k.sampleWork i v p h)
  closeSession s id _ h := k.finish (k.base (closeSession_base ..) h)
  secondRises s _ h := k.finish (k.secondRises s h)
  finish s _ h := k.finish h
  pulseEnd s _ h := k.finish (k.same s _ rfl h)

end Gauged

end Sys2Proof.Machine
end

section
/-! Mode, holds, handover timer and tier stay in agreement (R2, R4, R6, R7, R148): obligation O6. -/

namespace Sys2Proof.Machine

/-- What `ModeSound` speaks of. -/
def State.modes (s : State) : Mode × Bool × Bool × Bool × Bool × Bool × Tier :=
  (s.mdc.mode, s.mdc.driveHold, s.mdc.handoverHold, s.mdc.alwaysHold, s.mdc.ign.debounced, s.mdc.handoverTimer.isSome, s.btm.tier)

theorem modes_of_gauges {s t : State} (h : t.gauges = s.gauges) : t.modes = s.modes := by
  simp only [State.gauges, Prod.mk.injEq, Mdc.mk.injEq] at h
  simp [State.modes, h]

theorem ModeSound.congr {s t : State} (h : ModeSound s) (hm : t.modes = s.modes) : ModeSound t := by
  simp only [State.modes, Prod.mk.injEq] at hm
  obtain ⟨hmode, hdh, hhh, hah, hign, htimer, htier⟩ := hm
  obtain ⟨hdrive, hhandover, halways, hignition, hrun, hcut⟩ := h
  constructor
  · rwa [hdh, hmode]
  · rwa [hhh, hmode]
  · rwa [hah, hmode]
  · rwa [hign, hmode]
  · rwa [htimer, hmode]
  · rwa [htier, hmode]

theorem ModeSound.of_base {s t : State} (h : ModeSound s) (hb : t.base = s.base) : ModeSound t :=
  h.congr (modes_of_gauges (gauges_of_base hb))

/-- Outside DRIVE the debounced IGN is low. -/
theorem ModeSound.ign_low {s : State} (h : ModeSound s) (hm : s.mdc.mode ≠ .drive) : s.mdc.ign.debounced = false :=
  Bool.eq_false_iff.2 fun hi => hm (h.ignition.2 hi)

theorem enterDrive_modeSound {s : State} (hi : s.mdc.ign.debounced = true) : ModeSound s.enterDrive := by
  refine ModeSound.of_base ?_ (enterDrive_base s)
  constructor <;> simp [hi]

theorem enterCutoff_modeSound {s : State} (hi : s.mdc.ign.debounced = false) (ht : s.btm.tier = .cutoff) : ModeSound s.enterCutoff := by
  refine ModeSound.of_base ?_ (enterCutoff_base s)
  constructor <;> simp [hi, ht]

theorem enterParked_modeSound {s : State} (c : ModeCause) (hi : s.mdc.ign.debounced = false) (ht : s.btm.tier ≠ .cutoff) :
    ModeSound (s.enterParked c) := by
  refine ModeSound.of_base ?_ (enterParked_base s c)
  constructor <;> simp [hi, ht]

theorem enterHandover_modeSound {s : State} (hi : s.mdc.ign.debounced = false) : ModeSound s.enterHandover := by
  refine ModeSound.of_base ?_ (enterHandover_base s)
  by_cases ht : s.btm.tier = .cutoff
  · constructor <;> simp [hi, ht]
  · constructor <;> simp [hi, ht]

/-- R4, R6: DRIVE follows the debounced IGN. -/
theorem ignSettles_modeSound {s : State} (h : ModeSound s) : ModeSound s.ignSettles := by
  unfold State.ignSettles State.ignChanged
  dsimp only
  split
  · next heq =>
    refine h.congr ?_
    simp only [State.modes, heq]
  · next hne =>
    cases hnew : s.mdc.ign.settled.debounced
    · have hbefore : s.mdc.ign.debounced = true := by simpa [hnew] using hne
      rw [if_neg Bool.false_ne_true, if_pos (h.ignition.2 hbefore)]
      exact enterHandover_modeSound hnew
    · have hmode : s.mdc.mode ≠ .drive := fun hm => hne (hnew.trans (h.ignition.1 hm).symm)
      rw [if_pos rfl, if_neg hmode]
      exact enterDrive_modeSound hnew

theorem step_ne_tier {b : Btm} {t : Tier} (h : b.step = some t) : t ≠ b.tier := by
  rintro rfl
  have hdown : ∀ u : Tier, u.down ≠ some u := fun u => by cases u <;> decide
  have hup : ∀ u : Tier, u.up ≠ some u := fun u => by cases u <;> decide
  unfold Btm.step at h
  split at h
  · exact hdown _ h
  · split at h
    · exact hup _ h
    · cases h

/-- R147 to R150: outside DRIVE the mode follows a step to CUTOFF and one from it. -/
theorem takeStep_modeSound {u : State} {old : Tier} (hne : u.btm.tier ≠ old)
    (hdrive : u.mdc.driveHold = true ↔ u.mdc.mode = .drive) (hhand : u.mdc.handoverHold = true ↔ u.mdc.mode = .handover)
    (halw : u.mdc.alwaysHold = true ↔ u.mdc.mode ≠ .cutoff) (hign : u.mdc.mode = .drive ↔ u.mdc.ign.debounced = true)
    (htimer : u.mdc.handoverTimer.isSome = true → u.mdc.mode = .handover)
    (htier : u.mdc.mode ≠ .drive → (u.mdc.mode = .cutoff ↔ old = .cutoff)) : ModeSound (u.takeStep old u.btm.tier) := by
  have hkeep : (u.mdc.mode ≠ .drive → (u.mdc.mode = .cutoff ↔ u.btm.tier = .cutoff)) → ModeSound u :=
    fun ht => ⟨hdrive, hhand, halw, hign, htimer, ht⟩
  have hlow : u.mdc.mode ≠ .drive → u.mdc.ign.debounced = false := fun hm => Bool.eq_false_iff.2 fun hi => hm (hign.2 hi)
  have hcode : ∀ t : Tier, ¬ Tier.cutoff.code < t.code := fun t => by cases t <;> decide
  unfold State.takeStep
  split
  · next hm => exact hkeep fun hx => absurd hm hx
  · next hm =>
    split
    · next hlt =>
      have hold : old ≠ .cutoff := by
        rintro rfl
        exact hcode _ hlt
      have hmode : u.mdc.mode ≠ .cutoff := fun hx => hold ((htier hm).1 hx)
      have hb := closeWhere_base u (fun x => decide ((u.cls x.cls).minTier.code < u.btm.tier.code)) .tier
      generalize u.closeWhere (fun x => decide ((u.cls x.cls).minTier.code < u.btm.tier.code)) .tier = v at hb
      dsimp only
      split
      · next hc =>
        have hcut : u.btm.tier = .cutoff := by simpa [hmode, base_mode hb] using hc
        exact enterCutoff_modeSound (by rw [base_ign hb]; exact hlow hm) (by rw [base_btm hb]; exact hcut)
      · next hc =>
        have hcut : u.btm.tier ≠ .cutoff := by simpa [hmode, base_mode hb] using hc
        exact (hkeep fun _ => ⟨fun hx => absurd hx hmode, fun hx => absurd hx hcut⟩).of_base hb
    · next hle =>
      split
      · next hc =>
        simp only [Bool.and_eq_true, decide_eq_true_eq] at hc
        exact enterParked_modeSound _ (hlow hm) (hc.1 ▸ hne)
      · next hc =>
        have hold : old ≠ .cutoff := fun hx => hc (by simp [hx, (htier hm).2 hx])
        have hmode : u.mdc.mode ≠ .cutoff := fun hx => hold ((htier hm).1 hx)
        have hcut : u.btm.tier ≠ .cutoff := by
          intro hx
          have hall : ∀ t : Tier, t ≠ .cutoff → t.code < Tier.cutoff.code := fun t => by cases t <;> decide
          exact hle (hx ▸ hall old hold)
        exact hkeep fun _ => ⟨fun hx => absurd hx hmode, fun hx => absurd hx hcut⟩

theorem reading_modeSound {s : State} (v : Nat) (h : ModeSound s) : ModeSound (s.reading v) := by
  unfold State.reading
  dsimp only
  split
  · exact h.congr rfl
  · next t ht =>
    have hne : t ≠ (s.btm.counted v).tier := step_ne_tier ht
    have hb := record_base { s with btm := { s.btm.counted v with tier := t, fall := 0, rise := 0 } } .tierChanged t.code
      (s.btm.counted v).tier.code (some v)
    generalize { s with btm := { s.btm.counted v with tier := t, fall := 0, rise := 0 } }.record .tierChanged t.code
      (s.btm.counted v).tier.code (some v) = u at hb
    have htier : u.btm.tier = t := by rw [base_btm hb]
    obtain ⟨hdrive, hhandover, halways, hignition, hrun, hcut⟩ := h
    rw [← htier] at hne ⊢
    refine takeStep_modeSound hne ?_ ?_ ?_ ?_ ?_ ?_
    · rwa [base_driveHold hb, base_mode hb]
    · rwa [base_handoverHold hb, base_mode hb]
    · rwa [base_alwaysHold hb, base_mode hb]
    · rwa [base_ign hb, base_mode hb]
    · rwa [base_handoverTimer hb, base_mode hb]
    · rwa [base_mode hb]

theorem softwareReset_modeSound (s : State) : ModeSound s.softwareReset := by
  refine ModeSound.of_base ?_ (softwareReset_base s)
  cases hi : s.mdc.ign.debounced <;> by_cases ht : s.btm.tier = .cutoff <;> constructor <;> simp [hi, ht]

theorem powerOn_modeSound (s : State) : ModeSound s.powerOn := by
  cases hi : s.mdc.ign.pin <;> constructor <;> simp [State.powerOn, Mdc.powerOn, Btm.powerOn, hi]

theorem lapse_modes (s : State) (n : Nat) : (s.lapse n).modes = s.modes := by
  unfold State.lapse
  (repeat' split) <;> simp [State.modes, Mdc.lapse, countDown]

theorem ModeSound.gauged : Gauged ModeSound where
  same _ _ hg h := h.congr (modes_of_gauges hg)
  lapse s n h := h.congr (lapse_modes s n)
  ignPin s i hi h := h.congr (by simp only [State.modes, hi])
  powerOn s := powerOn_modeSound s
  ignSettles _ h := ignSettles_modeSound h
  handoverTimeout s ht h := by
    have hm := h.timer ht
    have hdrive : s.mdc.mode ≠ .drive := by simp [hm]
    exact enterParked_modeSound _ (h.ign_low hdrive) fun hx => absurd ((h.tier hdrive).2 hx) (by simp [hm])
  parkSettings s n _ h := (h.congr rfl : ModeSound
    { s with chm := { s.chm with reserve := n * 3600, reserveRem := 0 }, mdc := { s.mdc with parkedFlag := true } }).of_base
      (parkSettings_base s n)
  parkRequest s hm h := by
    have hdrive : s.mdc.mode ≠ .drive := by simp [hm]
    exact enterParked_modeSound _ (h.ign_low hdrive) fun hx => absurd ((h.tier hdrive).2 hx) (by simp [hm])
  readings _ _ _ _ _ h := h.congr rfl
  decrement _ _ _ h := h.congr rfl
  reading _ v h := reading_modeSound v h
  secondRises s h := by
    have hclock : ModeSound { s with wsc.seconds := (s.wsc.seconds + 1) % partWrap, wsc.fraction := 0, wsc.riseDue := false } := h.congr rfl
    exact hclock.of_base (evaluateWhere_base ..)
  softwareReset s _ := softwareReset_modeSound s
  linkSet _ _ _ _ _ _ _ h := h.congr rfl
  tierSet _ _ _ _ _ _ _ _ _ _ _ _ _ _ _ _ _ h := h.congr rfl
  meterSet _ _ _ _ _ h := h.congr rfl
  reserve _ _ _ h := h.congr rfl
  clock _ _ _ h := h.congr rfl

/-- Settles O6: mode, holds and timer change together, by IGN, the timer, PARK, a step of the tier, or a reset. -/
theorem modeStaysSound : Obligations.ModeStaysSound := by
  intro s t h hstep
  exact step_keeps ModeSound.gauged.kept (fun _ _ h => h.congr rfl) (fun _ _ h => h.congr rfl) h hstep

end Sys2Proof.Machine
end

section
/-! The counts of the lines: nuisance (R60), muted triggers (R62), repeats (R69). What leaves them, and that each stays in its range. -/

namespace Sys2Proof.Machine

/-- The counts of each line. -/
def State.tally (s : State) (l : LineId) : Nat × Nat × Nat := ((s.line l).nuisance, (s.line l).mutedTriggers, (s.approach l).repeats)

/-! ### What leaves the counts -/

theorem approach_updApproach (s : State) (l k : LineId) (f : Approach → Approach) :
    (s.updApproach l f).approach k = if k = l then f (s.approach l) else s.approach k := by
  split
  · next h =>
    rw [h]
    exact approach_updApproach_self ..
  · next h => exact approach_updApproach_ne _ _ _ _ h

theorem tally_congr {s t : State} (hw : t.wlu = s.wlu) (ha : t.apq = s.apq) : t.tally = s.tally := by
  funext l
  unfold State.tally State.line State.approach
  rw [hw, ha]

theorem record_tally (s : State) (k : RecordKind) (a b : Nat) (v : Option Nat) : (s.record k a b v).tally = s.tally := by
  obtain ⟨q, w, heq⟩ := record_eq s k a b v
  rw [heq]
  rfl

theorem refreshSub_tally (s : State) : s.refreshSub.tally = s.tally := by
  obtain ⟨c, -, heq⟩ := refreshSub_eq s
  rw [heq]
  rfl

theorem demandChanged_tally (s : State) : s.demandChanged.tally = s.tally :=
  tally_congr (deep_wlu (demandChanged_deep s)) ((Domestic.sameApproach s.apq).demandChanged rfl)

theorem updApproach_tally (s : State) (l : LineId) (f : Approach → Approach) (hf : ∀ a, (f a).repeats = a.repeats) :
    (s.updApproach l f).tally = s.tally := by
  funext k
  have hrep : ((s.updApproach l f).approach k).repeats = (s.approach k).repeats := by
    rw [approach_updApproach]
    split
    · next he => rw [hf, he]
    · rfl
  exact congrArg (fun r => ((s.line k).nuisance, (s.line k).mutedTriggers, r)) hrep

theorem updLine_tally (s : State) (l : LineId) (f : Line → Line)
    (hf : ∀ x, (f x).nuisance = x.nuisance ∧ (f x).mutedTriggers = x.mutedTriggers) : (s.updLine l f).tally = s.tally := by
  funext k
  have hline : (((s.updLine l f).line k).nuisance, ((s.updLine l f).line k).mutedTriggers) =
      ((s.line k).nuisance, (s.line k).mutedTriggers) := by
    rw [line_updLine]
    split
    · next he => rw [(hf _).1, (hf _).2, he]
    · rfl
  exact congrArg (fun r : Nat × Nat => (r.1, r.2, (s.approach k).repeats)) hline

theorem idleLine_tally (s : State) (l : LineId) : (s.idleLine l).tally = s.tally := updApproach_tally s l _ fun _ => rfl

theorem idleLines_tally (s : State) (ls : List LineId) : (s.idleLines ls).tally = s.tally :=
  foldl_keeps State.tally State.idleLine idleLine_tally ls s

theorem noteClosed_tally (s : State) (id : Nat) : (s.noteClosed id).tally = s.tally := by
  unfold State.noteClosed
  dsimp only
  (repeat' split) <;> rfl

theorem closeSession_tally (s : State) (id : Nat) (w : CloseReason) : (s.closeSession id w).tally = s.tally := by
  unfold State.closeSession
  split
  · rfl
  · dsimp only
    rw [noteClosed_tally, record_tally, idleLines_tally]
    split
    · rw [demandChanged_tally]
      rfl
    · rw [refreshSub_tally]
      rfl

theorem closeWhere_tally (s : State) (p : Session → Bool) (w : CloseReason) : (s.closeWhere p w).tally = s.tally :=
  foldl_keeps State.tally (fun u (x : Session) => u.closeSession x.id w) (fun u x => closeSession_tally u x.id w) _ s

theorem suspend_tally (s : State) (a b : Nat) : (s.suspend a b).tally = s.tally := by
  unfold State.suspend
  rw [record_tally, demandChanged_tally]
  rfl

theorem resume_tally (s : State) (r : Resume) : (s.resume r).tally = s.tally := by
  unfold State.resume
  split
  · rfl
  · split
    · rfl
    · dsimp only
      split
      · rw [record_tally, demandChanged_tally]
        rfl
      · rw [closeSession_tally]
        rfl

theorem resumeNow_tally (s : State) : s.resumeNow.tally = s.tally := by
  unfold State.resumeNow
  split
  · rw [resume_tally]
    rfl
  · rfl

theorem refuse_tally (s : State) (r : Request) (w : Result) (id : Nat) : (s.refuse r w id).1.tally = s.tally := record_tally ..

theorem makePlace_tally {s t : State} {c : ClassEntry} (h : s.makePlace c = some t) : t.tally = s.tally := by
  unfold State.makePlace at h
  (repeat' split at h) <;> cases h
  · rfl
  · exact closeSession_tally ..

theorem exclude_tally (s : State) (p n : Nat) : (s.exclude p n).tally = s.tally := by
  have hclose : ∀ (l : List Session) (u : State), (l.foldl (fun s x => s.closeSession x.id .preempted) u).tally = u.tally :=
    fun l u => foldl_keeps State.tally _ (fun u x => closeSession_tally u x.id .preempted) l u
  unfold State.exclude
  dsimp only
  split
  · rfl
  · split
    · exact hclose _ _
    · exact (hclose _ _).trans (suspend_tally ..)

theorem createSession_tally (s : State) (r : Request) (id : Nat) (p : Profile) (c : Nat) : (s.createSession r id p c).tally = s.tally := by
  unfold State.createSession
  dsimp only
  rw [record_tally]
  split
  · refine (updApproach_tally _ _ _ ?_).trans (demandChanged_tally _)
    exact fun _ => rfl
  · exact demandChanged_tally _

theorem decideNew_tally (s : State) (r : Request) : (s.decideNew r).1.tally = s.tally := by
  unfold State.decideNew
  dsimp only
  split
  · exact refuse_tally ..
  · next t ht =>
    have hplace := makePlace_tally ht
    split
    · exact (refuse_tally ..).trans hplace
    · next p suspendee _ =>
      have hid : t.takeId.1.tally = s.tally := hplace
      generalize t.takeId = q at hid
      split <;> split <;> split <;>
        simp only [resumeNow_tally, createSession_tally, exclude_tally, suspend_tally, hid]

theorem recordCoalesced_tally (s : State) (id : Nat) (o : CoalesceOutcome) (n : Nat) : (s.recordCoalesced id o n).1.tally = s.tally :=
  record_tally ..

theorem lengthen_tally (s : State) (x : Session) : (s.lengthen x).1.tally = s.tally := by
  unfold State.lengthen
  dsimp only
  (repeat' split) <;> exact recordCoalesced_tally ..

theorem lengthenHeld_tally (s : State) (x : Session) : (s.lengthenHeld x).1.tally = s.tally := by
  unfold State.lengthenHeld
  dsimp only
  split <;> exact recordCoalesced_tally ..

theorem widen_tally (s : State) (x : Session) : (s.widen x).1.tally = s.tally := by
  unfold State.widen
  dsimp only
  split
  · rw [record_tally, demandChanged_tally]
    rfl
  · exact lengthen_tally ..

theorem applyUpgrade_tally (s : State) (x : Session) (p : Profile) (c : Nat) : (s.applyUpgrade x p c).1.tally = s.tally := by
  unfold State.applyUpgrade
  dsimp only
  rw [record_tally, idleLines_tally]
  split
  · exact demandChanged_tally _
  · rfl

theorem upgrade_tally (s : State) (r : Request) (x : Session) : (s.upgrade r x).1.tally = s.tally := by
  unfold State.upgrade
  dsimp only
  split
  · exact refuse_tally ..
  · split
    · exact refuse_tally ..
    · split
      · exact refuse_tally ..
      · rw [applyUpgrade_tally]
        split
        · exact suspend_tally ..
        · rfl

theorem join_tally (s : State) (x : Session) (l p : LineId) : (s.join x l p).1.tally = s.tally := by
  unfold State.join
  dsimp only
  split
  · exact recordCoalesced_tally ..
  · refine (recordCoalesced_tally ..).trans ((updApproach_tally _ _ _ ?_).trans rfl)
    exact fun _ => rfl

theorem coalesce_tally (s : State) (r : Request) (x : Session) : (s.coalesce r x).1.tally = s.tally := by
  unfold State.coalesce
  split
  · split
    · exact join_tally ..
    · exact upgrade_tally ..
  · split
    · exact lengthen_tally ..
    · exact lengthenHeld_tally ..
  · split
    · exact lengthenHeld_tally ..
    · split
      · exact lengthen_tally ..
      · exact widen_tally ..

theorem decideRequest_tally (s : State) (r : Request) : (s.decideRequest r).1.tally = s.tally := by
  unfold State.decideRequest
  dsimp only
  split
  · exact refuse_tally ..
  · split
    · exact refuse_tally ..
    · split
      · exact coalesce_tally ..
      · exact decideNew_tally ..

theorem refreshAttn_tally (s : State) : s.refreshAttn.tally = s.tally := by
  obtain ⟨attn, pulse, heq⟩ := refreshAttn_eq s
  rw [heq]
  rfl

theorem finish_tally (s : State) : s.finish.tally = s.tally := by
  refine (tally_congr (deep_wlu ((finish_deep s).trans (resumeNow_deep s).symm)) ?_).trans (resumeNow_tally s)
  exact (Domestic.sameApproach s.resumeNow.apq).finish rfl (fun _ h => h) (fun u h => (refreshAttn_ssc u).2.trans h)

theorem lengthenWindows_tally (s : State) (ls : List LineId) (ms : Nat) : (s.lengthenWindows ls ms).tally = s.tally :=
  foldl_keeps State.tally (fun u l => u.updApproach l (fun a => { a with listen := a.listen.map (fun r => { r with window := r.window + ms }) }))
    (fun u l => updApproach_tally u l _ fun _ => rfl) ls s

/-! ### The counts stay in their ranges -/

/-- The counts that the lines may stand at (R60, R62, R69). -/
def CountsSound (s : State) : Prop := ∀ l, (s.line l).nuisance ≤ 15 ∧ (s.line l).mutedTriggers ≤ 65535 ∧ (s.approach l).repeats ≤ 65535

theorem CountsSound.congr {s t : State} (h : CountsSound s) (ht : t.tally = s.tally) : CountsSound t := by
  intro l
  have hl := congrFun ht l
  simp only [State.tally, Prod.mk.injEq] at hl
  obtain ⟨hn, hm, hr⟩ := hl
  rw [hn, hm, hr]
  exact h l

section
variable {s : State} (h : CountsSound s)
include h

theorem CountsSound.updLine (l : LineId) (f : Line → Line)
    (hf : ∀ x, x.nuisance ≤ 15 → x.mutedTriggers ≤ 65535 → (f x).nuisance ≤ 15 ∧ (f x).mutedTriggers ≤ 65535) :
    CountsSound (s.updLine l f) := by
  intro k
  obtain ⟨hn, hm, hr⟩ := h k
  have hline : ((s.updLine l f).line k).nuisance ≤ 15 ∧ ((s.updLine l f).line k).mutedTriggers ≤ 65535 := by
    rw [line_updLine]
    split
    · next he =>
      subst he
      exact hf _ hn hm
    · exact ⟨hn, hm⟩
  exact ⟨hline.1, hline.2, hr⟩

theorem CountsSound.record (k : RecordKind) (a b : Nat) (v : Option Nat) : CountsSound (s.record k a b v) := h.congr (record_tally ..)

theorem CountsSound.finish : CountsSound s.finish := h.congr (finish_tally s)

theorem CountsSound.muteLine (l : LineId) : CountsSound (s.muteLine l) :=
  (h.updLine l (fun x => { x with window := none, mute := some (x.entry.muteTime * 60000) }) fun _ hn hm => ⟨hn, hm⟩).record _ _ _ _

theorem CountsSound.muteIfReached (l : LineId) : CountsSound (s.muteIfReached l) := by
  unfold State.muteIfReached
  dsimp only
  split
  · exact h.muteLine l
  · exact h

theorem CountsSound.countNuisance (l : LineId) : CountsSound (s.countNuisance l) := by
  unfold State.countNuisance
  dsimp only
  split
  · exact (h.updLine l (fun x => { x with nuisance := min 15 (x.nuisance + 1), window := if x.window.isNone then some (x.entry.nuisanceWindow * 60000) else x.window })
      fun _ _ hm => ⟨Nat.min_le_left _ _, hm⟩).muteIfReached l
  · exact h

theorem CountsSound.endMute (l : LineId) (c : UnmuteCause) : CountsSound (s.endMute l c) :=
  (h.record _ _ _ _).updLine l (fun x => { x with mute := none, window := none, nuisance := 0, mutedTriggers := 0 })
    fun _ _ _ => ⟨Nat.zero_le _, Nat.zero_le _⟩

theorem CountsSound.stage1Trigger (l : LineId) : CountsSound (s.stage1Trigger l) := by
  unfold State.stage1Trigger
  dsimp only
  split
  · intro k
    obtain ⟨hn, hm, hr⟩ := h k
    refine ⟨hn, hm, ?_⟩
    rw [approach_updApproach]
    split
    · exact Nat.min_le_left _ _
    · exact hr
  · exact h.congr (decideRequest_tally ..)

theorem CountsSound.stage2Trigger (l : LineId) : CountsSound (s.stage2Trigger l) := by
  unfold State.stage2Trigger
  refine foldl_closed _ (fun u x hu => ?_) _ h
  split
  · exact hu.congr (upgrade_tally ..)
  · exact hu

theorem CountsSound.roleTrigger (l : LineId) (e : Edge) : CountsSound (s.roleTrigger l e) := by
  unfold State.roleTrigger
  dsimp only
  split
  · exact h.congr (decideRequest_tally ..)
  · exact h.record _ _ _ _
  · exact h.stage1Trigger l
  · exact h.stage2Trigger l

theorem CountsSound.trigger (l : LineId) (e : Edge) : CountsSound (s.trigger l e) := by
  unfold State.trigger
  dsimp only
  split
  · exact h
  · have hspent : CountsSound (if (s.line l).entry.triggerMode.isLevel then s.updLine l (fun x => { x with act := .spent }) else s) := by
      split
      · exact h.updLine l _ fun _ hn hm => ⟨hn, hm⟩
      · exact h
    generalize (if (s.line l).entry.triggerMode.isLevel = true then s.updLine l (fun x => { x with act := .spent }) else s) = u at hspent
    split
    · exact hspent.updLine l (fun x => { x with mutedTriggers := min 65535 (x.mutedTriggers + 1) })
        fun _ hn _ => ⟨hn, Nat.min_le_left _ _⟩
    · exact hspent.roleTrigger l e

theorem CountsSound.stableChange (l : LineId) (b : Bool) : CountsSound (s.stableChange l b) := by
  have hlevel : CountsSound (s.updLine l (fun x => { x with debounced := b })) := h.updLine l _ fun _ hn hm => ⟨hn, hm⟩
  unfold State.stableChange
  dsimp only
  split
  · exact hlevel
  · split
    · split
      · exact (hlevel.updLine l (fun x => { x with act := .pending }) fun _ hn hm => ⟨hn, hm⟩).trigger l _
      · exact hlevel.updLine l _ fun _ hn hm => ⟨hn, hm⟩
    · split
      · exact hlevel.trigger l _
      · exact hlevel

theorem CountsSound.arm (l : LineId) : CountsSound (s.arm l) := by
  unfold State.arm
  dsimp only
  split
  · exact (h.updLine l (fun x => { x with act := .pending }) fun _ hn hm => ⟨hn, hm⟩).trigger l _
  · exact h.updLine l _ fun _ hn hm => ⟨hn, hm⟩

theorem CountsSound.triggerPending : CountsSound s.triggerPending := by
  unfold State.triggerPending
  refine foldl_closed _ (fun u l hu => ?_) _ h
  dsimp only
  split
  · exact hu.trigger l _
  · exact hu

theorem CountsSound.windowExpired (l : LineId) (r : Listen) : CountsSound (s.windowExpired l r) := by
  have hrecord := h.record .approachExpired l.val r.session none
  unfold State.windowExpired
  dsimp only
  split
  · exact hrecord.congr (idleLine_tally ..)
  · split
    · exact (hrecord.countNuisance l).congr ((closeSession_tally ..).trans (idleLine_tally ..))
    · next x _ _ =>
      have hidle := hrecord.congr (idleLine_tally _ l)
      generalize (s.record .approachExpired l.val r.session none).idleLine l = u at hidle
      exact CountsSound.countNuisance (s := u.updSession x.id (fun x => { x with listening := x.listening.filter (· != l) })) hidle l

theorem CountsSound.disableLine (l : LineId) : CountsSound (s.disableLine l) := by
  have hended : CountsSound (if (s.line l).mute.isSome then s.endMute l .disabled else s) := by
    split
    · exact h.endMute l _
    · exact h
  exact hended.updLine l (fun x => { x with window := none, nuisance := 0, act := .inactive }) fun _ _ hm => ⟨Nat.zero_le _, hm⟩

theorem CountsSound.writeLine (l : LineId) (e : LineEntry) : CountsSound (s.writeLine l e) := by
  have hset : CountsSound (s.updLine l (fun x => { x with entry := e })) := h.updLine l _ fun _ hn hm => ⟨hn, hm⟩
  unfold State.writeLine
  dsimp only
  generalize s.updLine l (fun x => { x with entry := e }) = u at hset
  split
  · exact hset.arm l
  · split
    · exact hset.disableLine l
    · split
      · have harmed : CountsSound (if (s.line l).entry.triggerMode != e.triggerMode then u.arm l else u) := by
          split
          · exact hset.arm l
          · exact hset
        generalize (if (s.line l).entry.triggerMode != e.triggerMode then u.arm l else u) = v at harmed
        split
        · exact harmed.muteIfReached l
        · exact harmed
      · exact hset

theorem CountsSound.wlChange (l : LineId) (b : Bool) : CountsSound (s.wlChange l b) := by
  unfold State.wlChange
  dsimp only
  split
  · exact h
  · split
    · have hpin : CountsSound (s.updLine l (fun x => { x with pin := b, interval := none })) := h.updLine l _ fun _ hn hm => ⟨hn, hm⟩
      split
      · exact hpin
      · exact hpin.stableChange l b
    · exact h.updLine l _ fun _ hn hm => ⟨hn, hm⟩

theorem CountsSound.wlSettles (l : LineId) : CountsSound (s.wlSettles l) := by
  have hended : CountsSound (s.updLine l (fun x => { x with interval := none })) := h.updLine l _ fun _ hn hm => ⟨hn, hm⟩
  unfold State.wlSettles
  dsimp only
  split
  · exact hended
  · exact hended.stableChange l _

end

end Sys2Proof.Machine
end

section
/-! Every counted quantity stays in its range: obligation O7. -/

namespace Sys2Proof.Machine

/-! ### The counts of the lines under every step -/

theorem CountsSound.same {s t : State} (h : CountsSound s) (hw : t.wlu = s.wlu) (ha : t.apq = s.apq) : CountsSound t :=
  h.congr (tally_congr hw ha)

section
variable {s : State} (h : CountsSound s)
include h

theorem CountsSound.advance (e : SchedEntry) (d : Nat) : CountsSound (s.advance e d) := by
  unfold State.advance
  dsimp only
  split <;> exact h

theorem CountsSound.recordMissed (e : SchedEntry) (n : Nat) : CountsSound (s.recordMissed e n) := by
  unfold State.recordMissed
  split
  · exact h
  · exact h.record _ _ _ _

theorem CountsSound.evaluate (id : Nat) : CountsSound (s.evaluate id) := by
  unfold State.evaluate
  split
  · exact h
  · next e _ =>
    split
    · unfold State.evaluateInDrive
      dsimp only
      split
      · exact ((h.recordMissed e _).record _ _ _ _).advance e _
      · exact h
    · split
      · exact h
      · have hmissed : ∀ n, CountsSound (s.recordMissed e n) := h.recordMissed e
        unfold State.evaluateLate
        dsimp only
        refine CountsSound.advance ?_ e _
        generalize (if decide (s.wsc.seconds - e.latest s.wsc.seconds ≤ e.lateness) then e.passed s.wsc.seconds
          else e.passed s.wsc.seconds + 1) = n
        split
        · exact (hmissed n).congr (decideRequest_tally ..)
        · exact hmissed n

theorem CountsSound.evaluateWhere (p : SchedEntry → Bool) : CountsSound (s.evaluateWhere p) :=
  foldl_closed _ (fun _ e hu => hu.evaluate e.id) _ h

theorem CountsSound.setMode (m : Mode) (c : ModeCause) : CountsSound (s.setMode m c) :=
  CountsSound.record (s := { s with mdc.mode := m }) h _ _ _ _

theorem CountsSound.setHolds (a b c : Bool) : CountsSound (s.setHolds a b c) :=
  CountsSound.congr (s := { s with mdc.driveHold := a, mdc.handoverHold := b, mdc.alwaysHold := c }) h (demandChanged_tally _)

theorem CountsSound.forceCutoff : CountsSound s.forceCutoff :=
  h.congr (tally_congr (deep_wlu (forceCutoff_deep s)) ((Domestic.sameApproach s.apq).forceCutoff rfl))

theorem CountsSound.enterDrive : CountsSound s.enterDrive := by
  unfold State.enterDrive
  dsimp only
  have hmode := h.setMode .drive .ignitionOn
  generalize s.setMode .drive .ignitionOn = u at hmode
  exact CountsSound.setHolds (hmode.congr ((idleLines_tally _ _).trans (closeWhere_tally u.stopHandover _ _))) _ _ _

theorem CountsSound.enterCutoff : CountsSound s.enterCutoff := by
  unfold State.enterCutoff
  dsimp only
  have hmode : CountsSound (s.setMode .cutoff .tierCutoff).stopHandover := h.setMode .cutoff .tierCutoff
  exact (hmode.setHolds false false false).forceCutoff.congr (refreshSub_tally _)

theorem CountsSound.enterHandover : CountsSound s.enterHandover := by
  unfold State.enterHandover
  dsimp only
  have hset := (h.setMode .handover .ignitionOff).setHolds false true true
  generalize (s.setMode .handover .ignitionOff).setHolds false true true = u at hset
  have hholds : CountsSound u.startHandover := hset.same rfl rfl
  split
  · exact (hholds.evaluateWhere _).enterCutoff
  · exact hholds.evaluateWhere _

theorem CountsSound.enterParked (c : ModeCause) : CountsSound (s.enterParked c) := by
  unfold State.enterParked
  dsimp only
  have hmode : CountsSound (s.setMode .parked c).stopHandover := h.setMode .parked c
  exact ((hmode.setHolds false false true).congr (refreshSub_tally _)).triggerPending

theorem CountsSound.ignSettles : CountsSound s.ignSettles := by
  have hign : CountsSound { s with mdc.ign := s.mdc.ign.settled } := h
  unfold State.ignSettles State.ignChanged
  dsimp only
  split
  · exact hign
  · split
    · split
      · exact hign
      · exact hign.enterDrive
    · split
      · exact hign.enterHandover
      · exact hign

theorem CountsSound.takeStep (old new : Tier) : CountsSound (s.takeStep old new) := by
  unfold State.takeStep
  dsimp only
  split
  · exact h
  · split
    · have hclosed := h.congr (closeWhere_tally s (fun x => decide ((s.cls x.cls).minTier.code < new.code)) .tier)
      split
      · exact hclosed.enterCutoff
      · exact hclosed
    · split
      · exact h.enterParked _
      · exact h

theorem CountsSound.reading (v : Nat) : CountsSound (s.reading v) := by
  unfold State.reading
  dsimp only
  split
  · exact h
  · next t _ =>
    exact (CountsSound.record (s := { s with btm := { s.btm.counted v with tier := t, fall := 0, rise := 0 } }) h _ _ _ _).takeStep _ _

theorem CountsSound.exhaust (n : Nat) : CountsSound (s.exhaust n) :=
  h.congr ((closeWhere_tally _ _ _).trans (record_tally ..))

theorem CountsSound.sampleWork (i v : Int) (p : Nat) : CountsSound (s.sampleWork i v p) := by
  unfold State.sampleWork
  extract_lets i' v' mode metered before c0 s0 s1 s2 s3 s4
  have h0 : CountsSound s0 := h
  have h1 : CountsSound s1 := by
    show CountsSound (if _ then _ else _)
    unfold State.attribute
    dsimp only
    (repeat' split) <;> exact h0
  have h2 : CountsSound s2 := by
    show CountsSound (if _ then _ else _)
    split <;> exact h1
  have h3 : CountsSound s3 := by
    show CountsSound (if _ then _ else _)
    split
    · exact h2
    · exact h2.congr (closeWhere_tally _ _ _)
  have h4 : CountsSound s4 := by
    show CountsSound (if _ then _ else _)
    split
    · exact h3.exhaust 0
    · exact h3
  exact h4.reading _

theorem CountsSound.endMutes (c : UnmuteCause) :
    CountsSound (lineIds.foldl (fun s l => if (s.line l).mute.isSome then s.endMute l c else s) s) := by
  refine foldl_closed _ (fun u l hu => ?_) _ h
  split
  · exact hu.endMute l _
  · exact hu

theorem CountsSound.parkSettings (n : Nat) : CountsSound (s.parkSettings n) := by
  have hends := CountsSound.endMutes (h.same (t := { s with chm.reserve := n * 3600, chm.reserveRem := 0 }) rfl rfl) .park
  unfold State.parkSettings
  dsimp only
  generalize lineIds.foldl (fun s l => if (s.line l).mute.isSome then s.endMute l .park else s)
    { s with chm.reserve := n * 3600, chm.reserveRem := 0 } = u at hends
  exact hends.same rfl rfl

theorem CountsSound.carryOut (type : Byte) (p : List Byte) : CountsSound (carryOut s type p).1 := by
  unfold Sys2Proof.Machine.carryOut
  split
  · exact h
  · unfold reqEventsRead refusal
    dsimp only
    (repeat' split) <;> first
      | with_reducible exact h
      | exact h.congr (refreshAttn_tally _)
  · exact h.congr (refreshAttn_tally _)
  · unfold reqDomainSet refusal
    dsimp only
    split
    · split
      · exact h
      · split
        · exact h
        · next d _ _ e _ =>
          have hset := h.same (t := s.updDom d (fun x => { x with entry := { e with rampTimeout := clampRamp e.rampTimeout } })) rfl rfl
          generalize s.updDom d (fun x => { x with entry := { e with rampTimeout := clampRamp e.rampTimeout } }) = u at hset
          split
          · exact h
          · split
            · exact h
            · exact CountsSound.finish (hset.congr (demandChanged_tally u))
    · exact h
  · unfold reqDomainGet refusal
    (repeat' split) <;> with_reducible exact h
  · unfold reqDomainClearFault refusal okay
    (repeat' split) <;> first
      | with_reducible exact h
      | exact CountsSound.finish (h.congr (tally_congr (deep_wlu (clearFault_deep s _)) ((Domestic.sameApproach s.apq).clearFault _ rfl)))
  · unfold reqLineSet refusal
    (repeat' split) <;> first
      | with_reducible exact h
      | exact (h.writeLine _ _).finish
  · unfold reqLineGet refusal
    (repeat' split) <;> with_reducible exact h
  · unfold reqLineUnmute refusal okay
    split
    · split
      · split
        · exact (h.endMute _ _).finish
        · exact h.updLine _ (fun x => { x with window := none, nuisance := 0 }) fun _ _ hm => ⟨Nat.zero_le _, hm⟩
      · exact h
    · exact h
  · unfold reqClassSet refusal okay
    dsimp only
    split
    · split
      · exact h
      · split
        · exact h
        · next c _ _ e _ =>
          have hclass := h.same (t := s.setClass c e) rfl rfl
          split
          · exact h
          · split
            · exact CountsSound.finish (hclass.congr (closeSession_tally ..))
            · exact hclass
    · exact h
  · unfold reqClassGet refusal
    (repeat' split) <;> with_reducible exact h
  · unfold reqTierSet refusal
    dsimp only
    (repeat' split) <;> exact h
  · unfold reqMeterSet refusal okay
    dsimp only
    (repeat' split) <;> exact h
  · unfold reqSchedAdd refusal okay
    dsimp only
    split
    · exact h
    · next e _ =>
      have hadd : CountsSound { s with wsc.sched := placeEntry e s.wsc.sched } := h
      (repeat' split) <;> first
        | with_reducible exact h
        | with_reducible exact hadd
        | exact (hadd.evaluate _).finish
  · unfold reqSchedCancel refusal okay
    (repeat' split) <;> exact h
  · unfold reqSchedList refusal
    (repeat' split) <;> with_reducible exact h
  · unfold reqClockSet refusal okay
    dsimp only
    split
    · next a b c d =>
      have hclock : CountsSound { s with wsc.seconds := nat32 a b c d, wsc.fraction := 0, wsc.riseDue := false } := h
      exact (hclock.evaluateWhere _).finish
    · exact h
  · unfold reqSessionOpen openRefusal
    dsimp only
    (repeat' split) <;> first
      | with_reducible exact h
      | exact CountsSound.finish (h.congr (decideRequest_tally _ _))
  · unfold reqSessionExtend
    dsimp only
    (repeat' split) <;> first
      | with_reducible exact h
      | exact h.congr (lengthenWindows_tally _ _ _)
  · unfold reqSessionRelease refusal
    dsimp only
    split
    · split
      · exact h
      · split
        · exact h
        · refine CountsSound.finish ?_
          have hclose : ∀ id w, CountsSound (s.closeSession id w) := fun id w => h.congr (closeSession_tally ..)
          (repeat' split) <;> first
            | exact hclose _ _
            | exact (hclose _ _).countNuisance _
    · exact h
  · unfold reqSessionList refusal
    (repeat' split) <;> with_reducible exact h
  · unfold reqPark refusal okay
    dsimp only
    split
    · split
      · exact h
      · next a b _ =>
        have hset := h.parkSettings (nat16 a b)
        generalize s.parkSettings (nat16 a b) = u at hset
        refine (CountsSound.evaluateWhere ?_ _).finish
        split
        · exact hset.enterParked _
        · exact (hset.congr (refreshSub_tally u)).triggerPending
    · exact h
  · unfold reqReserveAdjust refusal
    dsimp only
    split
    · split
      · exact h
      · next d1 d0 _ =>
        have hset := h.same (t := { s with
          chm.reserve := saturate reserveMax ((s.chm.reserve : Int) + (d1 ++ d0 : BitVec 16).toInt * 3600) }) rfl rfl
        split
        · exact (hset.exhaust 1).finish
        · exact hset
    · exact h
  · unfold reqLinkSet refusal okay
    dsimp only
    (repeat' split) <;> first
      | with_reducible exact h
      | exact h.congr (refreshAttn_tally _)
  · exact h
  · exact h
  · exact h
  · exact h

theorem CountsSound.takeFrame (type : Byte) (p : List Byte) : CountsSound (s.takeFrame type p) := by
  unfold State.takeFrame
  dsimp only
  split
  · exact h.same rfl rfl
  · have htaken := h.same (t := { s with lnk.armed := false, lnk.frameErrors := 0, lnk.reply := some [] }) rfl rfl
    generalize { s with lnk.armed := false, lnk.frameErrors := 0, lnk.reply := some [] } = u at htaken
    have hanswer : CountsSound (u.answerFrame type p).1 := by
      unfold State.answerFrame refusal
      (repeat' split) <;> first
        | with_reducible exact htaken
        | exact htaken.carryOut type p
    generalize u.answerFrame type p = q at hanswer
    exact hanswer.same rfl rfl

theorem CountsSound.resetLines : CountsSound s.resetLines := by
  refine foldl_closed _ (fun u l hu => ?_) _ h
  have hline := hu.updLine l (fun x => { x with mute := none, window := none, nuisance := 0, mutedTriggers := 0 })
    fun _ _ _ => ⟨Nat.zero_le _, Nat.zero_le _⟩
  generalize u.updLine l (fun x => { x with mute := none, window := none, nuisance := 0, mutedTriggers := 0 }) = v at hline
  intro k
  obtain ⟨hn, hm, hr⟩ := hline k
  refine ⟨hn, hm, ?_⟩
  rw [approach_updApproach]
  split
  · exact Nat.zero_le _
  · exact hr

theorem CountsSound.resetRunning : CountsSound s.resetRunning := by
  have hlines := (h.congr (closeWhere_tally s (fun _ => true) .reset)).resetLines
  unfold State.resetRunning
  generalize (s.closeWhere (fun _ => true) .reset).resetLines = u at hlines
  have hfree := hlines.same (t := { u with wsc.sched := [], mdc.driveHold := false, mdc.handoverHold := false, mdc.alwaysHold := false })
    rfl rfl
  exact hfree.same (deep_wlu (forceReset_deep _)) ((Domestic.sameApproach u.apq).forceReset rfl)

theorem CountsSound.softwareReset : CountsSound s.softwareReset := by
  have hrun := h.resetRunning
  unfold State.softwareReset
  generalize s.resetRunning = u at hrun
  have hholds : CountsSound u.resetHolds := by
    have hset := CountsSound.setHolds (hrun.same (t := u.resetMode) rfl rfl) u.mdc.ign.debounced (!u.mdc.ign.debounced) true
    unfold State.resetHolds
    dsimp only
    generalize u.resetMode.setHolds u.mdc.ign.debounced (!u.mdc.ign.debounced) true = v at hset
    split <;> exact hset.same rfl rfl
  generalize u.resetHolds = v at hholds
  have hevents : CountsSound v.resetLink.resetEvents := by
    have hlink := hholds.same (t := v.resetLink) rfl rfl
    generalize v.resetLink = w at hlink
    obtain ⟨q, k, heq⟩ := record_eq { w with
      evq.events := [], evq.lost := 0, evq.pulse := none, evq.readPulse := false,
      work.condFirst := none, work.blocked := [] } .partReset w.mdc.mode.code 1 none
    unfold State.resetEvents
    rw [heq]
    exact hlink.same rfl rfl
  dsimp only
  generalize v.resetLink.resetEvents = w at hevents
  split
  · exact hevents.enterCutoff
  · exact hevents

theorem CountsSound.replySent : CountsSound s.replySent := by
  have hreset : CountsSound (if s.lnk.resetDue then s.softwareReset else s) := by
    split
    · exact h.softwareReset
    · exact h
  unfold State.replySent
  dsimp only
  generalize (if s.lnk.resetDue = true then s.softwareReset else s) = u at hreset
  have hreleased : CountsSound u.clearReply.releaseD0 := by
    have hfree := hreset.same (t := { u.clearReply with dmc.d0Held := none }) rfl rfl
    unfold State.releaseD0
    dsimp only
    split
    · refine CountsSound.congr (hfree.same ?_ ?_) (demandChanged_tally _)
      · exact deep_wlu (enterOff_deep _ 0)
      · exact (Domestic.sameApproach u.apq).enterOff 0 rfl
    · exact hfree
  generalize u.clearReply.releaseD0 = v at hreleased
  obtain ⟨q, heq⟩ := pulseAfterRead_eq v
  rw [heq]
  exact CountsSound.finish (hreleased.same rfl rfl)

theorem CountsSound.lapse (n : Nat) : CountsSound (s.lapse n) := by
  refine h.congr (funext fun l => ?_)
  unfold State.lapse
  (repeat' split) <;> simp [State.tally, State.line, State.approach, Line.lapse, State.approachLapse]

/-- What leaves lines and approach records alone. -/
theorem CountsSound.domain (d : DomId) : CountsSound (s.rampDone d).demandChanged ∧ CountsSound (s.pgLost d).demandChanged ∧
    CountsSound (s.rampFailed d).demandChanged ∧ CountsSound (s.powerOff d .demandGone).demandChanged ∧
    CountsSound (s.enterQueued d).demandChanged := by
  have hsame : ∀ t : State, t.deep = s.deep → t.apq = s.apq → CountsSound t.demandChanged :=
    fun t hd ha => (h.same (deep_wlu hd) ha).congr (demandChanged_tally t)
  have hapq := Domestic.sameApproach s.apq
  exact ⟨hsame _ (by simp) (hapq.rampDone d rfl), hsame _ (by simp) (hapq.pgLost d rfl), hsame _ (by simp) (hapq.rampFailed d rfl),
    hsame _ (by simp) (hapq.powerOff d _ rfl), hsame _ (by simp) (hapq.enterQueued d rfl)⟩

end

theorem powerOn_counts (s : State) : CountsSound s.powerOn := by
  intro l
  simp [State.line, State.approach, State.powerOn, Line.powerOn, Approach.powerOn]

theorem takeNotice_counts {s : State} (e : FrameError) (h : CountsSound s) : CountsSound (s.takeNotice e) := by
  rw [takeNotice_eq]
  split
  · obtain ⟨q, w, hraised⟩ := faultRaised_eq (s.noticeAnswered e) e
    have hsound : CountsSound ((s.noticeAnswered e).faultRaised e) := by
      rw [hraised]
      exact h.same rfl rfl
    generalize (s.noticeAnswered e).faultRaised e = u at hsound
    exact (hsound.congr (refreshAttn_tally u)).same (t := u.refreshAttn.endEvent) rfl rfl
  · exact h.same rfl rfl

theorem CountsSound.kept : Kept CountsSound where
  lapse _ n h := h.lapse n
  request s type p rest _ _ _ h := CountsSound.takeFrame (h.same (t := { s with lnk.inbound := rest }) rfl rfl) type p
  notice s e rest _ _ _ h := takeNotice_counts e (h.same (t := { s with lnk.inbound := rest }) rfl rfl)
  arrive s e _ h := by
    unfold State.arrive
    split <;> exact h.same rfl rfl
  receiver _ _ _ _ h := h.same rfl rfl
  replySent _ _ _ h := h.replySent
  ignPin _ _ _ h := h.same rfl rfl
  servicePin _ _ h := h.same rfl rfl
  pgPin _ _ _ h := h.same rfl rfl
  wlPinHeld _ l _ _ h := h.updLine l _ fun _ hn hm => ⟨hn, hm⟩
  holdInReset s _ := (powerOn_counts s).same rfl rfl
  leaveReset s _ _ := (powerOn_counts s).finish
  ignSettles _ _ h := h.ignSettles.finish
  wlChange _ l b _ h := (h.wlChange l b).finish
  wlSettles _ l _ h := (h.wlSettles l).finish
  rampDone _ d _ _ h := (h.domain d).1.finish
  pgLost s d _ _ h := by
    obtain ⟨-, hlost, -⟩ := h.domain d
    generalize (s.pgLost d).demandChanged = u at hlost
    refine CountsSound.finish ?_
    split
    · exact hlost.softwareReset
    · exact hlost
  rampFailed _ d _ _ h := (h.domain d).2.2.1.finish
  holdoff _ d _ _ h := (h.domain d).2.2.2.1.finish
  retry _ d _ _ h := (h.domain d).2.2.2.2.finish
  nuisanceWindow _ l _ h := (h.updLine l (fun x => { x with window := none, nuisance := 0 }) fun _ _ hm => ⟨Nat.zero_le _, hm⟩).finish
  endMute _ l _ h := (h.endMute l _).finish
  windowExpired _ l r _ _ h := (h.windowExpired l r).finish
  handoverTimeout _ _ _ h := (h.enterParked _).finish
  sample _ i v p _ h := (h.sampleWork i v p).finish
  closeSession _ id _ h := CountsSound.finish (h.congr (closeSession_tally ..))
  secondRises s _ h := by
    have hclock := h.same (t := { s with wsc.seconds := (s.wsc.seconds + 1) % partWrap, wsc.fraction := 0, wsc.riseDue := false }) rfl rfl
    exact (hclock.evaluateWhere _).finish
  finish _ _ h := h.finish
  pulseEnd _ _ h := CountsSound.finish (h.same rfl rfl)

end Sys2Proof.Machine
end

section
/-! The meter, the clock, the settings and the tier counters in their ranges (R127, R129, R137, R142, R152, R179), and obligation O7. -/

namespace Sys2Proof.Machine

/-- The quantities of the gauges: no mode, no hold, no input. -/
def State.numbers (s : State) : Btm × Chm × Nat × Nat × Nat × Nat :=
  (s.btm, { s.chm with period := 0, earlyDue := false, elapsed := 0 }, s.wsc.seconds, s.wsc.fraction, s.lnk.limit, s.mdc.handoverTimeout)

theorem numbers_of_gauges {s t : State} (h : t.gauges = s.gauges) : t.numbers = s.numbers := by
  simp only [State.gauges, Prod.mk.injEq, Mdc.mk.injEq] at h
  simp [State.numbers, h]

theorem numbers_of_base {s t : State} (h : t.base = s.base) : t.numbers = s.numbers := numbers_of_gauges (gauges_of_base h)

/-! ### No change of the mode touches the numbers -/

theorem enterDrive_numbers (s : State) : s.enterDrive.numbers = s.numbers :=
  (numbers_of_base (enterDrive_base s)).trans rfl

theorem enterCutoff_numbers (s : State) : s.enterCutoff.numbers = s.numbers :=
  (numbers_of_base (enterCutoff_base s)).trans rfl

theorem enterParked_numbers (s : State) (c : ModeCause) : (s.enterParked c).numbers = s.numbers :=
  (numbers_of_base (enterParked_base s c)).trans rfl

theorem enterHandover_numbers (s : State) : s.enterHandover.numbers = s.numbers := by
  refine (numbers_of_base (enterHandover_base s)).trans ?_
  unfold State.numbers
  dsimp only
  split <;> rfl

theorem ignSettles_numbers (s : State) : s.ignSettles.numbers = s.numbers := by
  unfold State.ignSettles State.ignChanged
  dsimp only
  split
  · rfl
  · split
    · split
      · rfl
      · exact enterDrive_numbers _
    · split
      · exact enterHandover_numbers _
      · rfl

theorem takeStep_numbers (s : State) (old new : Tier) : (s.takeStep old new).numbers = s.numbers := by
  unfold State.takeStep
  dsimp only
  split
  · rfl
  · split
    · split
      · exact (enterCutoff_numbers _).trans (numbers_of_base (closeWhere_base ..))
      · exact numbers_of_base (closeWhere_base ..)
    · split
      · exact enterParked_numbers ..
      · rfl

/-! ### The ranges -/

/-- The ranges of the counters and settings of BTM (R141, R142). -/
structure Btm.InRange (b : Btm) : Prop where
  thresholds : 8000 ≤ b.cutoff ∧ b.cutoff < b.critical ∧ b.critical < b.conserve ∧ b.conserve ≤ 15000
  hysteresis : 50 ≤ b.hysteresis ∧ b.hysteresis ≤ 1000
  fall : b.fall < b.fallConfirm ∧ b.fallConfirm ≤ 32
  rise : b.rise < b.riseConfirm ∧ b.riseConfirm ≤ 255

/-- The ranges of CHM's quantities (R127, R129, R137). -/
structure Chm.InRange (c : Chm) : Prop where
  reserve : c.reserve ≤ 235926000
  remainder : c.reserveRem ≤ 999
  current : c.current ≤ 65535
  voltage : c.voltage ≤ 20000
  baseline : c.baseline ≤ 2000
  floor : c.floorMah ≤ 65535

/-- The ranges of the clock, the limit and the timeout (R152, R179). -/
structure SettingsInRange (s : State) : Prop where
  seconds : s.wsc.seconds ≤ 4294967295
  fraction : s.wsc.fraction ≤ 999
  limit : 1 ≤ s.lnk.limit ∧ s.lnk.limit ≤ 15
  timeout : 10 ≤ s.mdc.handoverTimeout ∧ s.mdc.handoverTimeout ≤ 600

/-- All that the gauges show stands in its range. -/
def NumbersSound (s : State) : Prop := s.btm.InRange ∧ s.chm.InRange ∧ SettingsInRange s

theorem rangesSound_iff (s : State) : RangesSound s ↔ NumbersSound s ∧ CountsSound s := by
  constructor
  · intro h
    exact ⟨⟨⟨h.thresholds, h.hysteresis, h.fall, h.rise⟩, ⟨h.reserve, h.remainder, h.current, h.voltage, h.baseline, h.floor⟩,
      h.seconds, h.fraction, h.limit, h.timeout⟩, fun l => ⟨(h.lines l).1, (h.lines l).2, h.repeats l⟩⟩
  · rintro ⟨⟨hbtm, hchm, hset⟩, hcounts⟩
    exact ⟨hchm.reserve, hchm.remainder, hchm.current, hchm.voltage, hchm.baseline, hchm.floor, hset.seconds, hset.fraction, hset.limit,
      hset.timeout, hbtm.thresholds, hbtm.hysteresis, hbtm.fall, hbtm.rise, fun l => ⟨(hcounts l).1, (hcounts l).2.1⟩,
      fun l => (hcounts l).2.2⟩

theorem Chm.InRange.congr {c e : Chm} (h : c.InRange)
    (he : { e with period := 0, earlyDue := false, elapsed := 0 } = ({ c with period := 0, earlyDue := false, elapsed := 0 } : Chm)) :
    e.InRange := by
  simp only [Chm.mk.injEq] at he
  obtain ⟨hreserve, hrem, hcurrent, hvoltage, hbase, hfloor, -⟩ := he
  obtain ⟨h1, h2, h3, h4, h5, h6⟩ := h
  exact ⟨hreserve ▸ h1, hrem ▸ h2, hcurrent ▸ h3, hvoltage ▸ h4, hbase ▸ h5, hfloor ▸ h6⟩

theorem NumbersSound.congr {s t : State} (h : NumbersSound s) (hn : t.numbers = s.numbers) : NumbersSound t := by
  simp only [State.numbers, Prod.mk.injEq] at hn
  obtain ⟨hbtm, hchm, hsec, hfrac, hlimit, htime⟩ := hn
  obtain ⟨hb, hc, h1, h2, h3, h4⟩ := h
  exact ⟨hbtm ▸ hb, hc.congr hchm, hsec ▸ h1, hfrac ▸ h2, hlimit ▸ h3, htime ▸ h4⟩

/-- R146: a counter that reaches its confirmation makes a step, which returns both to 0. -/
theorem counted_inRange {b : Btm} {v : Nat} (h : b.InRange) (hs : (b.counted v).step = none) : (b.counted v).InRange := by
  obtain ⟨hth, hhys, ⟨hf, hf'⟩, hr, hr'⟩ := h
  have hdown : b.falls v = true → b.tier.down.isSome = true := by
    unfold Btm.falls
    cases b.tier.down <;> simp
  have hup : b.rises v = true → b.tier.up.isSome = true := by
    unfold Btm.rises
    cases b.tier.up <;> simp
  have hfall : (b.counted v).fall < (b.counted v).fallConfirm := by
    by_contra hge
    unfold Btm.step at hs
    rw [if_pos (Nat.le_of_not_lt hge)] at hs
    have hno : b.falls v = false := by
      by_contra hfalls
      have hsome := hdown (by simpa using hfalls)
      rw [show b.tier.down = none from hs] at hsome
      cases hsome
    have hzero : (b.counted v).fall = 0 := if_neg (by simp [hno])
    exact hge (hzero ▸ Nat.zero_lt_of_lt hf)
  have hrise : (b.counted v).rise < (b.counted v).riseConfirm := by
    by_contra hge
    unfold Btm.step at hs
    rw [if_neg (Nat.not_le.2 hfall), if_pos (Nat.le_of_not_lt hge)] at hs
    have hno : b.rises v = false := by
      by_contra hrises
      have hsome := hup (by simpa using hrises)
      rw [show b.tier.up = none from hs] at hsome
      cases hsome
    have hzero : (b.counted v).rise = 0 := if_neg (by simp [hno])
    exact hge (hzero ▸ Nat.zero_lt_of_lt hr)
  exact ⟨hth, hhys, ⟨hfall, hf'⟩, hrise, hr'⟩

theorem reading_numbersSound {s : State} (v : Nat) (h : NumbersSound s) : NumbersSound (s.reading v) := by
  obtain ⟨hb, hrest⟩ := h
  unfold State.reading
  dsimp only
  split
  · next hs => exact ⟨counted_inRange hb hs, hrest.1, hrest.2.seconds, hrest.2.fraction, hrest.2.limit, hrest.2.timeout⟩
  · next t _ =>
    have hstep : NumbersSound { s with btm := { s.btm.counted v with tier := t, fall := 0, rise := 0 } } :=
      ⟨⟨hb.thresholds, hb.hysteresis, ⟨Nat.zero_lt_of_lt hb.fall.1, hb.fall.2⟩, Nat.zero_lt_of_lt hb.rise.1, hb.rise.2⟩, hrest.1,
        hrest.2.seconds, hrest.2.fraction, hrest.2.limit, hrest.2.timeout⟩
    exact hstep.congr ((takeStep_numbers _ _ _).trans (numbers_of_base (record_base ..)))

theorem decrement_numbersSound {s : State} (i p : Nat) (h : NumbersSound s) : NumbersSound (s.decrement i p) := by
  obtain ⟨hb, ⟨h1, h2, h3, h4, h5, h6⟩, hs, hf, hl, ht⟩ := h
  exact ⟨hb, ⟨(Nat.sub_le _ _).trans h1, Nat.le_of_lt_succ (Nat.mod_lt _ (by decide)), h3, h4, h5, h6⟩, hs, hf, hl, ht⟩

theorem lapse_numbersSound {s : State} (n : Nat) (h : NumbersSound s) : NumbersSound (s.lapse n) := by
  obtain ⟨hb, hc, hs, hf, hl, ht⟩ := h
  unfold State.lapse
  split
  · exact ⟨hb, hc, hs, hf, hl, ht⟩
  · split
    · exact ⟨hb, hc, hs, hf, hl, ht⟩
    · refine ⟨hb, hc.congr rfl, ?_, ?_, hl, ht⟩
      · show (s.wsc.lapse n).seconds ≤ _
        unfold Wsc.lapse
        split <;> exact hs
      · show (s.wsc.lapse n).fraction ≤ _
        unfold Wsc.lapse
        split
        · assumption
        · exact le_rfl

theorem powerOn_numbersSound (s : State) : NumbersSound s.powerOn := by
  refine ⟨?_, ?_, ?_⟩ <;> constructor <;> simp [State.powerOn, Btm.powerOn, Chm.powerOn, Wsc.powerOn, Lnk.powerOn, Mdc.powerOn]

/-- R15: the tier counters return to 0, and the settings are kept. -/
theorem softwareReset_numbersSound {s : State} (h : NumbersSound s) : NumbersSound s.softwareReset := by
  obtain ⟨hb, hc, hs, hf, hl, ht⟩ := h
  have hreset : NumbersSound { s with btm := { s.btm with fall := 0, rise := 0 } } :=
    ⟨⟨hb.thresholds, hb.hysteresis, ⟨Nat.zero_lt_of_lt hb.fall.1, hb.fall.2⟩, Nat.zero_lt_of_lt hb.rise.1, hb.rise.2⟩, hc, hs, hf, hl, ht⟩
  refine hreset.congr ((numbers_of_base (softwareReset_base s)).trans ?_)
  unfold State.numbers
  dsimp only
  split <;> rfl

theorem NumbersSound.gauged : Gauged NumbersSound where
  same _ _ hg h := h.congr (numbers_of_gauges hg)
  lapse _ n h := lapse_numbersSound n h
  ignPin _ _ _ h := h.congr rfl
  powerOn s := powerOn_numbersSound s
  ignSettles s h := h.congr (ignSettles_numbers s)
  handoverTimeout s _ h := h.congr (enterParked_numbers s _)
  parkSettings s n hn h := by
    obtain ⟨hb, ⟨-, -, h3, h4, h5, h6⟩, hs, hf, hl, ht⟩ := h
    have hset : NumbersSound { s with chm := { s.chm with reserve := n * 3600, reserveRem := 0 }, mdc := { s.mdc with parkedFlag := true } } :=
      ⟨hb, ⟨by show n * 3600 ≤ 235926000; omega, Nat.zero_le _, h3, h4, h5, h6⟩, hs, hf, hl, ht⟩
    exact hset.congr (numbers_of_base (parkSettings_base s n))
  parkRequest s _ h := h.congr (enterParked_numbers s _)
  readings _ i v hi hv h := by
    obtain ⟨hb, ⟨h1, h2, -, -, h5, h6⟩, hs, hf, hl, ht⟩ := h
    exact ⟨hb, ⟨h1, h2, hi, hv, h5, h6⟩, hs, hf, hl, ht⟩
  decrement _ i p h := decrement_numbersSound i p h
  reading _ v h := reading_numbersSound v h
  secondRises s h := by
    obtain ⟨hb, hc, -, -, hl, ht⟩ := h
    have hclock : NumbersSound { s with wsc.seconds := (s.wsc.seconds + 1) % partWrap, wsc.fraction := 0, wsc.riseDue := false } :=
      ⟨hb, hc, Nat.le_of_lt_succ (Nat.mod_lt _ (by decide)), Nat.zero_le _, hl, ht⟩
    exact hclock.congr (numbers_of_base (evaluateWhere_base ..))
  softwareReset _ h := softwareReset_numbersSound h
  linkSet _ n m p t hn ht h := by
    obtain ⟨hb, hc, hs, hf, -, -⟩ := h
    exact ⟨hb, hc, hs, hf, hn, ht⟩
  tierSet _ c k t y f r h1 h2 h3 h4 h5 h6 h7 h8 h9 h10 h := by
    obtain ⟨-, hc, hs, hf, hl, ht⟩ := h
    exact ⟨⟨⟨h1, h2, h3, h4⟩, ⟨h5, h6⟩, ⟨h7, h8⟩, h9, h10⟩, hc, hs, hf, hl, ht⟩
  meterSet _ q f hq hf' h := by
    obtain ⟨hb, ⟨h1, h2, h3, h4, -, -⟩, hs, hf, hl, ht⟩ := h
    exact ⟨hb, ⟨h1, h2, h3, h4, hq, hf'⟩, hs, hf, hl, ht⟩
  reserve _ r hr h := by
    obtain ⟨hb, ⟨-, h2, h3, h4, h5, h6⟩, hs, hf, hl, ht⟩ := h
    exact ⟨hb, ⟨hr, h2, h3, h4, h5, h6⟩, hs, hf, hl, ht⟩
  clock _ n hn h := by
    obtain ⟨hb, hc, -, -, hl, ht⟩ := h
    exact ⟨hb, hc, hn, Nat.zero_le _, hl, ht⟩

/-- Settles O7: what counts saturates, what is set is checked, and what wraps wraps. -/
theorem rangesStaySound : Obligations.RangesStaySound := by
  intro s t h hstep
  obtain ⟨hnumbers, hcounts⟩ := (rangesSound_iff s).1 h
  exact (rangesSound_iff t).2
    ⟨step_keeps NumbersSound.gauged.kept (fun _ _ h => h.congr rfl) (fun _ _ h => h.congr rfl) hnumbers hstep,
      step_keeps CountsSound.kept (fun _ _ h => h.same rfl rfl) (fun _ _ h => h.same rfl rfl) hcounts hstep⟩

end Sys2Proof.Machine
end

section
/-! Demand and the tree (R16, R20, R24, R32): what a set demands through its descendants, and what a demand count is made of. -/

namespace Sys2Proof.Machine

/-! ### Domain sets and their ancestors -/

theorem hasDom_addDom (S : DomSet) (p d : DomId) : hasDom (addDom S p) d = (hasDom S d || decide (d = p)) := by
  have hd := d.isLt
  have hp := p.isLt
  unfold hasDom addDom
  rw [BitVec.getLsbD_or, BitVec.getLsbD_twoPow]
  congr 1
  rw [Bool.eq_iff_iff]
  simp only [Bool.and_eq_true, decide_eq_true_eq]
  exact ⟨fun h => Fin.ext h.2.symm, fun h => ⟨by omega, by rw [h]⟩⟩

/-- One domain's step of `State.withAncestors`: its parent joins the set. -/
def State.withParent (s : State) (S : DomSet) (d : DomId) : DomSet :=
  if hasDom S d then
    match (s.dom d).entry.parent with
    | some p => addDom S p
    | none => S
  else S

theorem withAncestors_eq (s : State) (S : DomSet) : s.withAncestors S = domIdsDown.foldl s.withParent S := rfl

theorem hasDom_withParent (s : State) (S : DomSet) (d x : DomId) :
    hasDom (s.withParent S d) x = true ↔ hasDom S x = true ∨ (hasDom S d = true ∧ (s.dom d).entry.parent = some x) := by
  unfold State.withParent
  split
  · next hd =>
    split
    · next p hp =>
      rw [hasDom_addDom, Bool.or_eq_true, decide_eq_true_eq]
      exact or_congr_right ⟨fun hx => ⟨hd, hx ▸ hp⟩, fun hx => Option.some.inj (hx.2.symm.trans hp)⟩
    · next hp => simp [hp]
  · next hd => simp [hd]

theorem hasDom_foldl_mono (s : State) (l : List DomId) {S : DomSet} {x : DomId} (h : hasDom S x = true) :
    hasDom (l.foldl s.withParent S) x = true := by
  induction l generalizing S with
  | nil => exact h
  | cons d l ih => exact ih ((hasDom_withParent s S d x).2 (.inl h))

/-- A domain found in the set was in it or is the parent of one that is. -/
theorem hasDom_foldl_cases (s : State) (l : List DomId) {S : DomSet} {x : DomId} (h : hasDom (l.foldl s.withParent S) x = true) :
    hasDom S x = true ∨ ∃ c ∈ l, hasDom (l.foldl s.withParent S) c = true ∧ (s.dom c).entry.parent = some x := by
  induction l generalizing S with
  | nil => exact .inl h
  | cons d l ih =>
    rcases ih h with hx | ⟨c, hc, hin, hp⟩
    · rcases (hasDom_withParent s S d x).1 hx with hx | ⟨hd, hp⟩
      · exact .inl hx
      · exact .inr ⟨d, List.mem_cons_self, hasDom_foldl_mono s l ((hasDom_withParent s S d d).2 (.inl hd)), hp⟩
    · exact .inr ⟨c, List.mem_cons_of_mem d hc, hin, hp⟩

/-- Parents have lower indices, so no domain below x brings x into the set. -/
theorem hasDom_foldl_of_le {s : State} (ht : TreeSound s) {l : List DomId} {S : DomSet} {x : DomId} (hl : ∀ e ∈ l, e ≤ x)
    (h : hasDom (l.foldl s.withParent S) x = true) : hasDom S x = true := by
  induction l generalizing S with
  | nil => exact h
  | cons d l ih =>
    rcases (hasDom_withParent s S d x).1 (ih (fun e he => hl e (List.mem_cons_of_mem d he)) h) with hx | ⟨-, hp⟩
    · exact hx
    · exact absurd (ht d x hp).1 (not_lt.2 (hl d List.mem_cons_self))

theorem hasDom_foldl_parent {s : State} (ht : TreeSound s) {l : List DomId} (hl : l.Pairwise (· > ·)) {S : DomSet} {c p : DomId}
    (hc : c ∈ l) (h : hasDom (l.foldl s.withParent S) c = true) (hp : (s.dom c).entry.parent = some p) :
    hasDom (l.foldl s.withParent S) p = true := by
  induction l generalizing S with
  | nil => cases hc
  | cons d l ih =>
    obtain ⟨hd, hrest⟩ := List.pairwise_cons.1 hl
    rcases List.mem_cons.1 hc with rfl | hc
    · have hin := hasDom_foldl_of_le ht (fun e he => (hd e he).le) h
      rcases (hasDom_withParent s S c c).1 hin with hS | ⟨-, hself⟩
      · exact hasDom_foldl_mono s l ((hasDom_withParent s S c p).2 (.inr ⟨hS, hp⟩))
      · exact absurd (ht c c hself).1 (lt_irrefl c)
    · exact ih hrest hc h

theorem domIdsDown_sorted : domIdsDown.Pairwise (· > ·) := by decide

theorem mem_domIdsDown : ∀ d : DomId, d ∈ domIdsDown := by decide

theorem setDemands_self (s : State) {S : DomSet} {d : DomId} (h : hasDom S d = true) : s.setDemands S d = true :=
  hasDom_foldl_mono s domIdsDown h

theorem setDemands_parent {s : State} (ht : TreeSound s) {S : DomSet} {c p : DomId} (h : s.setDemands S c = true)
    (hp : (s.dom c).entry.parent = some p) : s.setDemands S p = true :=
  hasDom_foldl_parent ht domIdsDown_sorted (mem_domIdsDown c) h hp

theorem setDemands_cases {s : State} {S : DomSet} {d : DomId} (h : s.setDemands S d = true) :
    hasDom S d = true ∨ ∃ c, (s.dom c).entry.parent = some d ∧ s.setDemands S c = true := by
  rcases hasDom_foldl_cases s domIdsDown h with hS | ⟨c, -, hc, hp⟩
  · exact .inl hS
  · exact .inr ⟨c, hp, hc⟩

/-! ### The sessions' demand -/

theorem sessionDemands_iff (s : State) (d : DomId) : s.sessionDemands d = true ↔ ∃ S ∈ s.sessionSets, s.setDemands S d = true := by
  unfold State.sessionDemands State.setDemands
  rw [List.any_eq_true]

theorem sessionDemands_parent {s : State} (ht : TreeSound s) {c p : DomId} (h : s.sessionDemands c = true)
    (hp : (s.dom c).entry.parent = some p) : s.sessionDemands p = true := by
  obtain ⟨S, hS, hc⟩ := (sessionDemands_iff s c).1 h
  exact (sessionDemands_iff s p).2 ⟨S, hS, setDemands_parent ht hc hp⟩

theorem not_sessionDemands_child {s : State} (ht : TreeSound s) {c p : DomId} (h : s.sessionDemands p = false)
    (hp : (s.dom c).entry.parent = some p) : s.sessionDemands c = false := by
  by_contra hc
  rw [sessionDemands_parent ht (by simpa using hc) hp] at h
  cases h

/-- What the sessions demand they demand directly or through a child. -/
theorem sessionDemands_cases {s : State} {d : DomId} (h : s.sessionDemands d = true) :
    s.directHolders d ≠ 0 ∨ ∃ c, (s.dom c).entry.parent = some d ∧ s.sessionDemands c = true := by
  obtain ⟨S, hS, hd⟩ := (sessionDemands_iff s d).1 h
  rcases setDemands_cases hd with hin | ⟨c, hp, hc⟩
  · left
    unfold State.directHolders
    rw [← Nat.pos_iff_ne_zero]
    exact List.countP_pos_iff.2 ⟨S, List.mem_append.2 (.inr hS), hin⟩
  · exact .inr ⟨c, hp, (sessionDemands_iff s c).2 ⟨S, hS, hc⟩⟩

/-! ### The demand count -/

theorem childrenUp_ne_zero (s : State) (d : DomId) :
    s.childrenUp d ≠ 0 ↔ ∃ c, (s.dom c).entry.parent = some d ∧ (s.dom c).state ≠ .off := by
  unfold State.childrenUp
  rw [← Nat.pos_iff_ne_zero, List.countP_pos_iff]
  constructor
  · rintro ⟨c, -, hc⟩
    exact ⟨c, by simpa using hc⟩
  · rintro ⟨c, hp, hc⟩
    exact ⟨c, mem_domIds c, by simp [hp, hc]⟩

theorem demand_ne_zero (s : State) (d : DomId) :
    s.demand d ≠ 0 ↔ s.directHolders d ≠ 0 ∨ ∃ c, (s.dom c).entry.parent = some d ∧ (s.dom c).state ≠ .off := by
  rw [← childrenUp_ne_zero]
  unfold State.demand
  omega

/-- An undemanded domain's children are OFF. -/
theorem child_off {s : State} {c d : DomId} (h : s.demand d = 0) (hp : (s.dom c).entry.parent = some d) : (s.dom c).state = .off := by
  by_contra hc
  exact (demand_ne_zero s d).2 (.inr ⟨c, hp, hc⟩) h

/-! ### What the work of the domains leaves -/

/-- Two states agree in what demand comes from, the domains' own states apart. -/
structure Alike (t s : State) : Prop where
  held : t.held = s.held
  mode : t.mdc.mode = s.mdc.mode
  holds : t.mdc.driveHold = s.mdc.driveHold ∧ t.mdc.handoverHold = s.mdc.handoverHold ∧ t.mdc.alwaysHold = s.mdc.alwaysHold
  entry : ∀ d, (t.dom d).entry = (s.dom d).entry
  sessions : t.ssc.sessions = s.ssc.sessions

theorem Alike.refl (s : State) : Alike s s := ⟨rfl, rfl, ⟨rfl, rfl, rfl⟩, fun _ => rfl, rfl⟩

theorem Alike.trans {s t u : State} (h : Alike u t) (h' : Alike t s) : Alike u s :=
  ⟨h.held.trans h'.held, h.mode.trans h'.mode, ⟨h.holds.1.trans h'.holds.1, h.holds.2.1.trans h'.holds.2.1, h.holds.2.2.trans h'.holds.2.2⟩,
    fun d => (h.entry d).trans (h'.entry d), h.sessions.trans h'.sessions⟩

theorem alike_of_base {s t : State} (hb : t.base = s.base) (hs : t.ssc.sessions = s.ssc.sessions) : Alike t s :=
  ⟨base_held hb, base_mode hb, ⟨base_driveHold hb, base_handoverHold hb, base_alwaysHold hb⟩, fun d => base_entry hb d, hs⟩

theorem alike_of_deep {s t : State} (hd : t.deep = s.deep) (hs : t.ssc.sessions = s.ssc.sessions) : Alike t s :=
  alike_of_base (deep_base hd) hs

section
variable {s t : State} (h : Alike t s)
include h

theorem Alike.tree (ht : TreeSound s) : TreeSound t := ht.congr h.entry

theorem Alike.directHolders (d : DomId) : t.directHolders d = s.directHolders d := directHolders_congr h.holds h.entry h.sessions d

theorem Alike.sessionSets : t.sessionSets = s.sessionSets := by
  unfold State.sessionSets
  rw [h.sessions]
  exact List.map_congr_left fun x _ => enabledOf_congr h.entry x.set

theorem Alike.sessionDemands (d : DomId) : t.sessionDemands d = s.sessionDemands d := by
  unfold State.sessionDemands
  simp only [h.sessionSets, withAncestors_congr h.entry]

theorem Alike.holdsPlaced : t.holdsPlaced = s.holdsPlaced := by
  unfold State.holdsPlaced
  rw [h.mode, h.holds.2.2]

theorem Alike.demand {d : DomId} (hc : ∀ c, (s.dom c).entry.parent = some d → ((t.dom c).state = .off ↔ (s.dom c).state = .off)) :
    t.demand d = s.demand d := by
  unfold State.demand
  rw [h.directHolders]
  congr 1
  unfold State.childrenUp
  refine List.countP_congr fun c _ => ?_
  rw [h.entry]
  by_cases hp : (s.dom c).entry.parent = some d
  · have hiff := hc c hp
    simp [hp, hiff]
  · simp [hp]

end

end Sys2Proof.Machine
end

section
/-! What holds of the domains' power at every moment of an event (R23, R33, R35), and that the Domain Controller's work keeps it. -/

namespace Sys2Proof.Machine

/-! ### What each change does to the states and to the held switch-off -/

theorem setState_state (s : State) (d e : DomId) (n : DomState) (t : Nat) :
    ((s.setState d n t).dom e).state = if e = d then n else (s.dom e).state := by
  rw [setState_dom]
  split <;> rfl

theorem enterOff_state (s : State) (d e : DomId) : ((s.enterOff d).dom e).state = if e = d then .off else (s.dom e).state := by
  rw [enterOff_dom]
  split <;> rfl

theorem noteBlocked_state (s : State) (d e : DomId) : ((s.noteBlocked d).dom e).state = (s.dom e).state := by
  unfold State.noteBlocked
  split
  · rfl
  · show ((s.updDom d (fun x => { x with depReported := true })).dom e).state = _
    rw [dom_updDom]
    split
    · next he => rw [he]
    · rfl

theorem enterQueued_state (s : State) (d e : DomId) : ((s.enterQueued d).dom e).state = if e = d then .queued else (s.dom e).state := by
  unfold State.enterQueued
  dsimp only
  split
  · rw [noteBlocked_state, setState_state]
  · exact setState_state ..

/-- D0's switch-off is held while a reply is sent (R35). -/
theorem powerOff_of_held {s : State} {d : DomId} (c : HeldCause) (h : d = 0 ∧ s.lnk.reply.isSome = true) :
    s.powerOff d c = { s.updDom 0 (fun x => { x with timer := 0 }) with dmc.d0Held := some c } :=
  if_pos (by simp [h])

theorem powerOff_of_not_held {s : State} {d : DomId} (c : HeldCause) (h : ¬ (d = 0 ∧ s.lnk.reply.isSome = true)) :
    s.powerOff d c = s.enterOff d :=
  if_neg (by simpa using h)

/-- D0's held switch-off and the reply. -/
def State.hold (s : State) : Option HeldCause × Option (List Byte) := (s.dmc.d0Held, s.lnk.reply)

theorem setState_hold_ne (s : State) {d : DomId} (n : DomState) (t : Nat) (hd : d ≠ 0) : (s.setState d n t).hold = s.hold := by
  unfold State.setState
  dsimp only
  rw [if_neg hd]
  (repeat' split) <;> rfl

/-- Link loss forgets the held switch-off, and nothing else changes it (R182). -/
theorem setState_hold_zero (s : State) (n : DomState) (t : Nat) :
    (s.setState 0 n t).hold = if (s.dom 0).state.live && !n.live then (none, none) else s.hold := by
  unfold State.setState State.linkFollows
  dsimp only
  rw [if_pos rfl]
  (repeat' split) <;> rfl

theorem setState_alike (s : State) (d : DomId) (n : DomState) (t : Nat) : Alike (s.setState d n t) s :=
  alike_of_deep (setState_deep ..) (congrArg Ssc.sessions ((Domestic.sameSessions s.ssc).setState s d n t rfl))

theorem enterOff_alike (s : State) (d : DomId) : Alike (s.enterOff d) s :=
  alike_of_deep (enterOff_deep ..) (congrArg Ssc.sessions ((Domestic.sameSessions s.ssc).enterOff d rfl))

theorem enterQueued_alike (s : State) (d : DomId) : Alike (s.enterQueued d) s :=
  alike_of_deep (enterQueued_deep ..) (congrArg Ssc.sessions ((Domestic.sameSessions s.ssc).enterQueued d rfl))

theorem powerOff_alike (s : State) (d : DomId) (c : HeldCause) : Alike (s.powerOff d c) s :=
  alike_of_deep (powerOff_deep ..) (congrArg Ssc.sessions ((Domestic.sameSessions s.ssc).powerOff d c rfl))

theorem forceOff_alike (s : State) (d : DomId) : Alike (s.forceOff d) s :=
  alike_of_deep (forceOff_deep ..) (congrArg Ssc.sessions ((Domestic.sameSessions s.ssc).forceOff d rfl))

theorem forceCutoff_alike (s : State) : Alike s.forceCutoff s :=
  alike_of_deep (forceCutoff_deep s) (congrArg Ssc.sessions ((Domestic.sameSessions s.ssc).forceCutoff rfl))

theorem transitionOf_alike (s : State) (d : DomId) : Alike (s.transitionOf d) s :=
  alike_of_deep (transitionOf_deep ..) (congrArg Ssc.sessions ((Domestic.sameSessions s.ssc).transitionOf d rfl))

theorem settle_alike (s : State) : Alike s.settle s := alike_of_deep (settle_deep s) (congrArg Ssc.sessions (settle_ssc s))

/-! ### The invariant -/

/-- The domain's children are not powered. -/
def State.childrenDown (s : State) (d : DomId) : Prop := ∀ c, (s.dom c).entry.parent = some d → (s.dom c).state.enOn = false

/-- A parent is ON under a powered child (R23); a switch-off of D0 is held in ON or HOLDOFF only, while a reply is sent, with no child of
D0 powered (R33, R35). -/
structure PowerHeld (s : State) : Prop where
  tree : TreeSound s
  parents : ∀ c p, (s.dom c).entry.parent = some p → (s.dom c).state.enOn = true → (s.dom p).state = .on
  up : s.dmc.d0Held ≠ none → (s.dom 0).state.live = true
  reply : s.dmc.d0Held ≠ none → s.lnk.reply.isSome = true
  alone : s.dmc.d0Held ≠ none → s.childrenDown 0

theorem PowerHeld.congr {s t : State} (h : PowerHeld s) (hd : ∀ d, (t.dom d).state = (s.dom d).state ∧ (t.dom d).entry = (s.dom d).entry)
    (hh : t.hold = s.hold) : PowerHeld t := by
  simp only [State.hold, Prod.mk.injEq] at hh
  obtain ⟨hheld, hreply⟩ := hh
  obtain ⟨htree, hparents, hup, hrep, halone⟩ := h
  refine ⟨htree.congr fun d => (hd d).2, fun c p hp hc => ?_, fun hx => ?_, fun hx => ?_, fun hx c hc => ?_⟩
  · rw [(hd c).2] at hp
    rw [(hd c).1] at hc
    rw [(hd p).1]
    exact hparents c p hp hc
  · rw [(hd 0).1]
    exact hup (hheld ▸ hx)
  · rw [hreply]
    exact hrep (hheld ▸ hx)
  · rw [(hd c).2] at hc
    rw [(hd c).1]
    exact halone (hheld ▸ hx) c hc

/-- What leaves the domains and the hold alone. -/
theorem PowerHeld.same {s t : State} (h : PowerHeld s) (hp : t.power = s.power) (hh : t.hold = s.hold) : PowerHeld t :=
  h.congr (fun d => by rw [power_dom hp d]; exact ⟨rfl, rfl⟩) hh

theorem PowerHeld.childrenDown_of_not_on {s : State} (h : PowerHeld s) {d : DomId} (hd : (s.dom d).state ≠ .on) : s.childrenDown d :=
  fun c hc => Bool.eq_false_iff.2 fun hen => hd (h.parents c d hc hen)

theorem childrenDown_of_demand {s : State} {d : DomId} (h : s.demand d = 0) : s.childrenDown d :=
  fun c hc => by rw [child_off h hc]; rfl

/-- A switch-off that is held after a change of a domain's state was held before it, and D0 is up still. -/
theorem PowerHeld.held_setState {s : State} (h : PowerHeld s) (d : DomId) (n : DomState) (t : Nat)
    (hx : (s.setState d n t).dmc.d0Held ≠ none) :
    s.dmc.d0Held ≠ none ∧ (s.setState d n t).lnk.reply = s.lnk.reply ∧ ((s.setState d n t).dom 0).state.live = true := by
  by_cases hd : d = 0
  · subst hd
    have hhold := setState_hold_zero s n t
    split at hhold
    · simp only [State.hold, Prod.mk.injEq] at hhold
      exact absurd hhold.1 hx
    · next hc =>
      simp only [State.hold, Prod.mk.injEq] at hhold
      rw [hhold.1] at hx
      have hlive := h.up hx
      refine ⟨hx, hhold.2, ?_⟩
      rw [setState_state, if_pos rfl]
      simpa [hlive] using hc
  · have hhold := setState_hold_ne s n t hd
    simp only [State.hold, Prod.mk.injEq] at hhold
    rw [hhold.1] at hx
    refine ⟨hx, hhold.2, ?_⟩
    rw [setState_state, if_neg (Ne.symm hd)]
    exact h.up hx

/-- A domain is newly powered only under a parent that is ON and not D0 with its switch-off held, and none but a domain without powered
children leaves ON. -/
theorem PowerHeld.setState_powered {s : State} (h : PowerHeld s) {d : DomId} {n : DomState} (t : Nat)
    (hen : n.enOn = true → (s.dom d).state.enOn = true ∨
      ((∀ p, (s.dom d).entry.parent = some p → (s.dom p).state = .on) ∧ (s.dmc.d0Held ≠ none → (s.dom d).entry.parent ≠ some 0)))
    (hchildren : n = .on ∨ s.childrenDown d) : PowerHeld (s.setState d n t) := by
  have hentry : ∀ e, ((s.setState d n t).dom e).entry = (s.dom e).entry := (setState_alike s d n t).entry
  have hparent : ∀ c p, (s.dom c).entry.parent = some p → ((s.setState d n t).dom c).state.enOn = true → (s.dom p).state = .on := by
    intro c p hp hc
    rw [setState_state] at hc
    split at hc
    · next hcd =>
      subst hcd
      rcases hen hc with hold | ⟨hon, -⟩
      · exact h.parents c p hp hold
      · exact hon p hp
    · exact h.parents c p hp hc
  refine ⟨h.tree.congr hentry, fun c p hp hc => ?_, fun hx => (h.held_setState d n t hx).2.2, fun hx => ?_, fun hx c hc => ?_⟩
  · rw [hentry] at hp
    have hon := hparent c p hp hc
    rw [setState_state]
    split
    · next hpd =>
      subst hpd
      rcases hchildren with hn | hdown
      · exact hn
      · have hne : c ≠ p := (h.tree c p hp).1.ne'
        rw [setState_state, if_neg hne, hdown c hp] at hc
        cases hc
    · exact hon
  · rw [(h.held_setState d n t hx).2.1]
    exact h.reply (h.held_setState d n t hx).1
  · rw [hentry] at hc
    have halone := h.alone (h.held_setState d n t hx).1 c hc
    rw [setState_state]
    split
    · next hcd =>
      subst hcd
      refine Bool.eq_false_iff.2 fun hn => ?_
      rcases hen hn with hold | ⟨-, hne⟩
      · rw [halone] at hold
        cases hold
      · exact hne (h.held_setState c n t hx).1 hc
    · exact halone

/-- No domain is newly powered, and none but a domain without powered children leaves ON. -/
theorem PowerHeld.setState {s : State} (h : PowerHeld s) {d : DomId} {n : DomState} (t : Nat)
    (hen : n.enOn = true → (s.dom d).state.enOn = true) (hchildren : n = .on ∨ s.childrenDown d) : PowerHeld (s.setState d n t) :=
  h.setState_powered t (fun hn => .inl (hen hn)) hchildren

section
variable {s : State} (h : PowerHeld s)
include h

theorem PowerHeld.updDom (d : DomId) (f : Domain → Domain) (hf : ∀ x, (f x).state = x.state ∧ (f x).entry = x.entry) :
    PowerHeld (s.updDom d f) := by
  refine h.congr (fun e => ?_) rfl
  rw [dom_updDom]
  split
  · next he =>
    subst he
    exact hf _
  · exact ⟨rfl, rfl⟩

theorem PowerHeld.enterOff {d : DomId} (hc : s.childrenDown d) : PowerHeld (s.enterOff d) :=
  (h.setState 0 (n := .off) (fun hx => by cases hx) (.inr hc)).updDom d _ fun _ => ⟨rfl, rfl⟩

theorem PowerHeld.noteBlocked (d : DomId) : PowerHeld (s.noteBlocked d) := by
  unfold State.noteBlocked
  split
  · exact h
  · have hflag := h.updDom d (fun x => { x with depReported := true }) fun _ => ⟨rfl, rfl⟩
    exact hflag.congr (fun _ => ⟨rfl, rfl⟩) rfl

theorem PowerHeld.enterQueued {d : DomId} (hc : s.childrenDown d) : PowerHeld (s.enterQueued d) := by
  have hset : PowerHeld (s.setState d .queued 0) := h.setState 0 (fun hx => by cases hx) (.inr hc)
  unfold State.enterQueued
  dsimp only
  split
  · exact hset.noteBlocked d
  · exact hset

theorem PowerHeld.enterLatched {d : DomId} (hc : s.childrenDown d) : PowerHeld (s.enterLatched d) := by
  have hset : PowerHeld (s.setState d .latched 0) := h.setState 0 (fun hx => by cases hx) (.inr hc)
  unfold State.enterLatched
  refine foldl_closed _ (fun u e hu => ?_) _ hset
  split
  · exact hu.noteBlocked e
  · exact hu

theorem PowerHeld.clearFlags (p : State → DomId → Bool) (l : List DomId) :
    PowerHeld (l.foldl (fun s e => if p s e then s.updDom e (fun x => { x with depReported := false }) else s) s) := by
  refine foldl_closed _ (fun u e hu => ?_) _ h
  split
  · exact hu.updDom e _ fun _ => ⟨rfl, rfl⟩
  · exact hu

/-- R35: the switch-off is done, or held on a D0 without powered children. -/
theorem PowerHeld.powerOff {d : DomId} (c : HeldCause) (hl : (s.dom d).state.live = true) (hc : s.childrenDown d) :
    PowerHeld (s.powerOff d c) := by
  by_cases hx : d = 0 ∧ s.lnk.reply.isSome = true
  · rw [powerOff_of_held c hx]
    obtain ⟨rfl, hreply⟩ := hx
    obtain ⟨htree, hparents, -, -, -⟩ := h.updDom 0 (fun x => { x with timer := 0 }) fun _ => ⟨rfl, rfl⟩
    have hstate : ∀ e, ((s.updDom 0 (fun x => { x with timer := 0 })).dom e).state = (s.dom e).state := by
      intro e
      rw [dom_updDom]
      split
      · next he => rw [he]
      · rfl
    refine ⟨htree, hparents, fun _ => (congrArg DomState.live (hstate 0)).trans hl, fun _ => hreply, fun _ e he => ?_⟩
    have hentry : ((s.updDom 0 (fun x => { x with timer := 0 })).dom e).entry = (s.dom e).entry := by
      rw [dom_updDom]
      split
      · next he => rw [he]
      · rfl
    exact (congrArg DomState.enOn (hstate e)).trans (hc e ((congrArg DomainEntry.parent hentry).symm.trans he))
  · rw [powerOff_of_not_held c hx]
    exact h.enterOff hc

theorem PowerHeld.forceOff {d : DomId} (hc : s.childrenDown d) : PowerHeld (s.forceOff d) := by
  unfold State.forceOff
  split
  · exact h
  · exact h
  · exact h.enterOff hc
  · exact h.enterOff hc
  · exact h.enterOff hc
  · next hs => exact h.powerOff _ (by rw [hs]; rfl) hc
  · next hs => exact h.powerOff _ (by rw [hs]; rfl) hc

end

/-- What a forced switch-off leaves: OFF, LATCHED, or the held D0 (R33, R35). -/
theorem forceOff_state (s : State) (d e : DomId) : ((s.forceOff d).dom e).state = if e = d then
    (if (s.dom d).state = .latched then .latched
      else if (s.dom d).state.live = true ∧ d = 0 ∧ s.lnk.reply.isSome = true then (s.dom d).state else .off)
    else (s.dom e).state := by
  have hpow : (s.dom d).state.live = true → (((s.powerOff d .forced).dom e).state = if e = d then
      (if d = 0 ∧ s.lnk.reply.isSome = true then (s.dom d).state else .off) else (s.dom e).state) := by
    intro _
    by_cases hx : d = 0 ∧ s.lnk.reply.isSome = true
    · rw [powerOff_of_held _ hx, if_pos hx]
      obtain ⟨rfl, -⟩ := hx
      show ((s.updDom 0 (fun x => { x with timer := 0 })).dom e).state = _
      rw [dom_updDom]
      split <;> rfl
    · rw [powerOff_of_not_held _ hx, if_neg hx, enterOff_state]
  unfold State.forceOff
  split
  · next hs =>
    split
    · next he => simp [he, hs, DomState.live]
    · rfl
  · next hs =>
    split
    · next he => simp [he, hs]
    · rfl
  · next hs => simp [enterOff_state, hs, DomState.live]
  · next hs => simp [enterOff_state, hs, DomState.live]
  · next hs => simp [enterOff_state, hs, DomState.live]
  · next hs =>
    rw [hpow (by rw [hs]; rfl)]
    simp [hs, DomState.live]
  · next hs =>
    rw [hpow (by rw [hs]; rfl)]
    simp [hs, DomState.live]

/-! ### The forced switch-off in CUTOFF -/

/-- The lower part of the index order. -/
structure Below (l : List DomId) : Prop where
  sorted : l.Pairwise (· > ·)
  closed : ∀ d ∈ l, ∀ e, e < d → e ∈ l

theorem below_domIdsDown : Below domIdsDown := ⟨domIdsDown_sorted, fun _ _ e _ => mem_domIdsDown e⟩

theorem Below.tail {d : DomId} {l : List DomId} (h : Below (d :: l)) : Below l := by
  obtain ⟨hd, hl⟩ := List.pairwise_cons.1 h.sorted
  refine ⟨hl, fun e he f hf => ?_⟩
  rcases List.mem_cons.1 (h.closed e (List.mem_cons_of_mem d he) f hf) with rfl | hmem
  · exact absurd (hd e he) (not_lt.2 hf.le)
  · exact hmem

/-- Children stand outside the part that starts with their parent. -/
theorem Below.child_not_mem {s : State} (ht : TreeSound s) {d c : DomId} {l : List DomId} (h : Below (d :: l))
    (hp : (s.dom c).entry.parent = some d) : c ∉ d :: l := by
  have hlt := (ht c d hp).1
  intro hmem
  rcases List.mem_cons.1 hmem with rfl | hmem
  · exact lt_irrefl _ hlt
  · exact lt_asymm hlt ((List.pairwise_cons.1 h.sorted).1 c hmem)

/-- One domain's part of the forced switch-off. -/
def State.forceStep (s : State) (d : DomId) : State := if s.sessionDemands d then s else s.forceOff d

theorem forceStep_alike (s : State) (d : DomId) : Alike (s.forceStep d) s := by
  unfold State.forceStep
  split
  · exact Alike.refl s
  · exact forceOff_alike s d

/-- D0 is reached last: the domains above that no session demands are not powered any more. -/
theorem forceSteps_power {l : List DomId} (hl : Below l) {s : State} (h : PowerHeld s)
    (hdone : ∀ c, c ∉ l → c ≠ 0 → s.sessionDemands c = false → (s.dom c).state.enOn = false) :
    PowerHeld (l.foldl State.forceStep s) := by
  induction l generalizing s with
  | nil => exact h
  | cons d l ih =>
    have hchildren : s.sessionDemands d = false → s.childrenDown d := by
      intro hd c hp
      have hlt := (h.tree c d hp).1
      exact hdone c (hl.child_not_mem h.tree hp) (fun h0 => by rw [h0] at hlt; exact absurd hlt (Fin.not_lt_zero d))
        (not_sessionDemands_child h.tree hd hp)
    have hstep : PowerHeld (s.forceStep d) := by
      unfold State.forceStep
      split
      · exact h
      · next hd => exact h.forceOff (hchildren (by simpa using hd))
    refine ih hl.tail hstep fun c hc h0 hs => ?_
    rw [(forceStep_alike s d).sessionDemands] at hs
    unfold State.forceStep
    split
    · next hd =>
      have hne : c ≠ d := by
        rintro rfl
        rw [hd] at hs
        cases hs
      exact hdone c (fun hx => (List.mem_cons.1 hx).elim hne hc) h0 hs
    · rw [forceOff_state]
      split
      · next hcd =>
        subst hcd
        simp only [h0, false_and, and_false, if_false]
        split <;> rfl
      · next hcd => exact hdone c (fun hx => (List.mem_cons.1 hx).elim hcd hc) h0 hs

theorem forceCutoff_power {s : State} (h : PowerHeld s) : PowerHeld s.forceCutoff :=
  forceSteps_power below_domIdsDown h fun c hc => absurd (mem_domIdsDown c) hc

/-! ### Transitions -/

theorem transition_power {s : State} (d : DomId) (h : PowerHeld s) : PowerHeld (s.transition d) := by
  unfold State.transition
  split
  · exact forceCutoff_power h
  · split
    · next hs =>
      split
      · exact h.enterQueued (h.childrenDown_of_not_on (by simp [hs]))
      · exact h
    · next hs =>
      split
      · exact h.enterOff (h.childrenDown_of_not_on (by simp [hs]))
      · exact h
    · next hs =>
      split
      · exact h.enterOff (h.childrenDown_of_not_on (by simp [hs]))
      · exact h
    · exact h
    · exact h
    · next hs =>
      split
      · exact h
      · next hd =>
        have hdown : s.childrenDown d := childrenDown_of_demand (by simpa using hd)
        split
        · exact h.powerOff _ (by rw [hs]; rfl) hdown
        · exact h.setState _ (fun _ => by rw [hs]; rfl) (.inr hdown)
    · next hs =>
      split
      · exact h.setState _ (fun _ => by rw [hs]; rfl) (.inl rfl)
      · exact h

theorem forget_power {s : State} (h : PowerHeld s) : PowerHeld { s with dmc.d0Held := none } :=
  ⟨h.tree, h.parents, fun hx => absurd rfl hx, fun hx => absurd rfl hx, fun hx => absurd rfl hx⟩

theorem transitionOf_power {s : State} (d : DomId) (h : PowerHeld s) : PowerHeld (s.transitionOf d) := by
  unfold State.transitionOf
  split
  · split
    · exact h
    · exact transition_power d (forget_power h)
  · exact transition_power d h

theorem settle_power {s : State} (h : PowerHeld s) : PowerHeld s.settle := foldl_closed _ (fun _ d hu => transitionOf_power d hu) _ h

theorem record_hold (s : State) (k : RecordKind) (a b : Nat) (v : Option Nat) : (s.record k a b v).hold = s.hold := by
  obtain ⟨q, w, heq⟩ := record_eq s k a b v
  rw [heq]
  rfl

theorem refreshSub_hold (s : State) : s.refreshSub.hold = s.hold := by
  obtain ⟨c, -, heq⟩ := refreshSub_eq s
  rw [heq]
  rfl

/-- Sessions, lines, schedule, modes and records do not touch the power. -/
theorem PowerHeld.closed : Closed PowerHeld where
  settle _ h := settle_power h
  record s k a b v _ h := h.same (record_power ..) (record_hold s k a b v)
  refreshSub s h := h.same (refreshSub_power s) (refreshSub_hold s)
  mdc _ _ h := h.same rfl rfl
  line _ _ _ h := h.same rfl rfl
  apq _ _ h := h.same rfl rfl
  session _ _ _ _ h := h.same rfl rfl
  suspended _ _ _ _ h := h.same rfl rfl
  removed _ _ h := h.same rfl rfl
  takeId _ h := h.same rfl rfl
  created _ _ _ _ _ _ _ _ _ _ _ _ _ h := h.same rfl rfl
  charged _ _ _ h := h.same rfl rfl
  chm _ _ h := h.same rfl rfl
  btm _ _ h := h.same rfl rfl
  advance s e d _ h := by
    unfold State.advance
    dsimp only
    split <;> exact h.same rfl rfl
  setPending _ _ _ h := h.same rfl rfl
  noSched _ h := h.same rfl rfl
  clock _ _ _ h := h.same rfl rfl
  resume _ _ h := h.same rfl rfl
  forceCutoff _ h := forceCutoff_power h

end Sys2Proof.Machine
end

section
/-! Settling brings every domain's state into agreement with its demand (R21, R24, R28, R29, R31, R32), and changes nothing where it
agrees already. -/

namespace Sys2Proof.Machine

/-- The domain's state agrees with its demand: nothing is left for its transition to do. -/
structure Calm (s : State) (d : DomId) : Prop where
  off : s.held = false → (s.dom d).state = .off → s.demand d = 0 ∨ (s.holdsPlaced = false ∧ s.sessionDemands d = false)
  waiting : (s.dom d).state = .queued ∨ (s.dom d).state = .faultWait → s.demand d ≠ 0
  on : (s.dom d).state = .on → s.demand d ≠ 0 ∨ (d = 0 ∧ s.dmc.d0Held ≠ none)
  holdoff : (s.dom d).state = .holdoff → s.demand d = 0 ∨ (d = 0 ∧ s.dmc.d0Held = some .forced)
  cutoff : s.mdc.mode = .cutoff → (s.dom d).state ≠ .off → (s.dom d).state ≠ .latched → s.demand d ≠ 0 →
    s.sessionDemands d = true ∨ (d = 0 ∧ s.dmc.d0Held ≠ none)

theorem Calm.congr {s t : State} {d : DomId} (h : Calm s d) (ha : Alike t s) (hs : (t.dom d).state = (s.dom d).state)
    (hd : t.demand d = s.demand d) (hh : d ≠ 0 ∨ t.dmc.d0Held = s.dmc.d0Held) : Calm t d := by
  obtain ⟨hoff, hwaiting, hon, hholdoff, hcutoff⟩ := h
  have hswap : ∀ {p : Option HeldCause → Prop}, d = 0 ∧ p s.dmc.d0Held → d = 0 ∧ p t.dmc.d0Held := by
    rintro p ⟨h0, hp⟩
    exact ⟨h0, (hh.resolve_left (not_not.2 h0)) ▸ hp⟩
  constructor
  · rw [ha.held, hs, hd, ha.holdsPlaced, ha.sessionDemands]
    exact hoff
  · rw [hs, hd]
    exact hwaiting
  · rw [hs, hd]
    exact fun hx => (hon hx).imp_right (hswap (p := fun c => c ≠ none))
  · rw [hs, hd]
    exact fun hx => (hholdoff hx).imp_right (hswap (p := fun c => c = some .forced))
  · rw [ha.mode, hs, hd, ha.sessionDemands]
    exact fun h1 h2 h3 h4 => (hcutoff h1 h2 h3 h4).imp_right (hswap (p := fun c => c ≠ none))

/-- Every domain is calm, and the cause of a held switch-off stands. -/
structure AllCalm (s : State) : Prop where
  calm : ∀ d, Calm s d
  stands : s.dmc.d0Held ≠ none → s.heldStands = true

/-- A change of a domain's own state does not change the demand on it or on those above it in the index order. -/
theorem demand_of_changed {s t : State} (ht : TreeSound s) (ha : Alike t s) {d e : DomId} (hle : d ≤ e)
    (hs : ∀ c, c ≠ d → (t.dom c).state = (s.dom c).state) : t.demand e = s.demand e := by
  refine ha.demand fun c hc => ?_
  rw [hs c (hle.trans_lt (ht c e hc).1).ne']

theorem heldStands_demandGone {s : State} (h : s.dmc.d0Held = some .demandGone) : s.heldStands = (s.demand 0 == 0) := by
  unfold State.heldStands
  rw [h]

theorem heldStands_forced {s : State} (h : s.dmc.d0Held = some .forced) :
    s.heldStands = (s.mdc.mode == .cutoff && !s.sessionDemands 0) := by
  unfold State.heldStands
  rw [h]

/-! ### A transition that forces nothing off -/

/-- R32: the domain comes to stand where CUTOFF forces it off. -/
def State.forces (s : State) (d : DomId) : Bool := s.unwantedInCutoff d && (s.dom d).state != .off && (s.dom d).state != .latched

/-- What a transition of d alone leaves: the other domains, and the hold but for a new one of D0 whose cause stands. -/
structure OwnChange (t s : State) (d : DomId) : Prop where
  alike : Alike t s
  state : ∀ e, e ≠ d → (t.dom e).state = (s.dom e).state
  held : d ≠ 0 → t.dmc.d0Held = s.dmc.d0Held
  stands : d = 0 → t.dmc.d0Held = none ∨ t.dmc.d0Held = s.dmc.d0Held ∨ (t.dmc.d0Held = some .demandGone ∧ s.demand 0 = 0)

theorem OwnChange.refl (s : State) (d : DomId) : OwnChange s s d :=
  ⟨Alike.refl s, fun _ _ => rfl, fun _ => rfl, fun _ => .inr (.inl rfl)⟩

theorem OwnChange.demand {s t : State} {d : DomId} (h : OwnChange t s d) (ht : TreeSound s) : t.demand d = s.demand d :=
  demand_of_changed ht h.alike le_rfl h.state

theorem setState_ownChange (s : State) (d : DomId) (n : DomState) (t : Nat) : OwnChange (s.setState d n t) s d := by
  refine ⟨setState_alike .., fun e he => by rw [setState_state, if_neg he], fun hd => ?_, ?_⟩
  · exact congrArg Prod.fst (setState_hold_ne s n t hd)
  · rintro rfl
    have hhold := congrArg Prod.fst (setState_hold_zero s n t)
    split at hhold
    · exact .inl hhold
    · exact .inr (.inl hhold)

theorem enterOff_ownChange (s : State) (d : DomId) : OwnChange (s.enterOff d) s d := by
  obtain ⟨-, -, hheld, hstands⟩ := setState_ownChange s d .off 0
  exact ⟨enterOff_alike s d, fun e he => by rw [enterOff_state, if_neg he], hheld, hstands⟩

theorem noteBlocked_held (s : State) (d : DomId) : (s.noteBlocked d).dmc.d0Held = s.dmc.d0Held := by
  unfold State.noteBlocked
  split <;> rfl

theorem enterQueued_held (s : State) (d : DomId) : (s.enterQueued d).dmc.d0Held = (s.setState d .queued 0).dmc.d0Held := by
  unfold State.enterQueued
  dsimp only
  split
  · exact noteBlocked_held _ d
  · rfl

theorem enterQueued_ownChange (s : State) (d : DomId) : OwnChange (s.enterQueued d) s d := by
  obtain ⟨-, -, hheld, hstands⟩ := setState_ownChange s d .queued 0
  refine ⟨enterQueued_alike s d, fun e he => by rw [enterQueued_state, if_neg he], ?_, ?_⟩
  · rwa [enterQueued_held]
  · rwa [enterQueued_held]

theorem heldOff_state (s : State) (c : HeldCause) (e : DomId) :
    (({ s.updDom 0 (fun x => { x with timer := 0 }) with dmc.d0Held := some c } : State).dom e).state = (s.dom e).state := by
  show ((s.updDom 0 (fun x => { x with timer := 0 })).dom e).state = _
  rw [dom_updDom]
  split
  · next he => rw [he]
  · rfl

theorem powerOff_ownChange {s : State} {d : DomId} (hd : s.demand d = 0) : OwnChange (s.powerOff d .demandGone) s d := by
  by_cases hx : d = 0 ∧ s.lnk.reply.isSome = true
  · have halike := powerOff_alike s d .demandGone
    rw [powerOff_of_held _ hx] at halike ⊢
    obtain ⟨rfl, -⟩ := hx
    exact ⟨halike, fun e _ => heldOff_state s _ e, fun h0 => absurd rfl h0, fun _ => .inr (.inr ⟨rfl, hd⟩)⟩
  · rw [powerOff_of_not_held _ hx]
    exact enterOff_ownChange s d

theorem transition_ownChange {s : State} {d : DomId} (hf : s.forces d = false) : OwnChange (s.transition d) s d := by
  have hf' : (s.unwantedInCutoff d && (s.dom d).state != .off && (s.dom d).state != .latched) = false := hf
  unfold State.transition
  rw [hf', if_neg Bool.false_ne_true]
  split
  · split
    · exact enterQueued_ownChange s d
    · exact OwnChange.refl s d
  · split
    · exact enterOff_ownChange s d
    · exact OwnChange.refl s d
  · split
    · exact enterOff_ownChange s d
    · exact OwnChange.refl s d
  · exact OwnChange.refl s d
  · exact OwnChange.refl s d
  · split
    · exact OwnChange.refl s d
    · next hd =>
      split
      · exact powerOff_ownChange (by simpa using hd)
      · exact setState_ownChange ..
  · split
    · exact setState_ownChange ..
    · exact OwnChange.refl s d

/-- A domain that is RAMPING or has gone OFF undemanded, or whose state its demand gives, is calm. -/
theorem calm_of_state {t : State} {d : DomId} (hoff : (t.dom d).state = .off → t.demand d = 0)
    (hwaiting : (t.dom d).state = .queued ∨ (t.dom d).state = .faultWait → t.demand d ≠ 0)
    (hon : (t.dom d).state = .on → t.demand d ≠ 0 ∨ (d = 0 ∧ t.dmc.d0Held ≠ none))
    (hholdoff : (t.dom d).state = .holdoff → t.demand d = 0)
    (hcut : t.mdc.mode = .cutoff → t.demand d ≠ 0 → t.sessionDemands d = true) : Calm t d :=
  ⟨fun _ h => .inl (hoff h), hwaiting, hon, fun h => .inl (hholdoff h), fun hm _ _ hd => .inl (hcut hm hd)⟩

theorem transition_calm {s : State} {d : DomId} (ht : TreeSound s) (hf : s.forces d = false) : Calm (s.transition d) d := by
  have hown := transition_ownChange hf
  have hdemand := hown.demand ht
  have hf' : (s.unwantedInCutoff d && (s.dom d).state != .off && (s.dom d).state != .latched) = false := hf
  have hcut : s.mdc.mode = .cutoff → s.demand d ≠ 0 → (s.dom d).state ≠ .off → (s.dom d).state ≠ .latched → s.sessionDemands d = true := by
    intro hm hd ho hl
    simpa [State.unwantedInCutoff, hm, hd, ho, hl] using hf'
  have hunplaced : s.mdc.mode = .cutoff → s.holdsPlaced = false := fun hm => by simp [State.holdsPlaced, hm]
  unfold State.transition at hown hdemand ⊢
  rw [hf', if_neg Bool.false_ne_true] at hown hdemand ⊢
  split
  · next hs =>
    split
    · next hd =>
      simp only [hs, if_pos hd] at hdemand hown
      simp only [Bool.and_eq_true, bne_iff_ne, ne_eq, Bool.or_eq_true] at hd
      obtain ⟨hd, hp⟩ := hd
      have hstate : ((s.enterQueued d).dom d).state = .queued := by rw [enterQueued_state, if_pos rfl]
      refine calm_of_state (by simp [hstate]) (fun _ => hdemand ▸ hd) (by simp [hstate]) (by simp [hstate]) fun hm _ => ?_
      rw [hown.alike.mode] at hm
      rw [hown.alike.sessionDemands]
      simpa [hunplaced hm] using hp
    · next hd =>
      refine ⟨fun _ _ => ?_, by simp [hs], by simp [hs], by simp [hs], fun _ ho => absurd hs ho⟩
      by_cases h0 : s.demand d = 0
      · exact .inl h0
      · right
        simpa [h0] using hd
  · next hs =>
    split
    · next hd =>
      simp only [hs, if_pos hd] at hdemand
      have hstate : ((s.enterOff d).dom d).state = .off := by rw [enterOff_state, if_pos rfl]
      exact calm_of_state (fun _ => hdemand.trans hd) (by simp [hstate]) (by simp [hstate]) (by simp [hstate])
        fun _ hne => absurd (hdemand.trans hd) hne
    · next hd =>
      exact calm_of_state (by simp [hs]) (fun _ => hd) (by simp [hs]) (by simp [hs]) fun hm hne => hcut hm hne (by simp [hs]) (by simp [hs])
  · next hs =>
    split
    · next hd =>
      simp only [hs, if_pos hd] at hdemand
      have hstate : ((s.enterOff d).dom d).state = .off := by rw [enterOff_state, if_pos rfl]
      exact calm_of_state (fun _ => hdemand.trans hd) (by simp [hstate]) (by simp [hstate]) (by simp [hstate])
        fun _ hne => absurd (hdemand.trans hd) hne
    · next hd =>
      exact calm_of_state (by simp [hs]) (fun _ => hd) (by simp [hs]) (by simp [hs]) fun hm hne => hcut hm hne (by simp [hs]) (by simp [hs])
  · next hs =>
    exact calm_of_state (by simp [hs]) (by simp [hs]) (by simp [hs]) (by simp [hs]) fun hm hne => hcut hm hne (by simp [hs]) (by simp [hs])
  · next hs => exact ⟨by simp [hs], by simp [hs], by simp [hs], by simp [hs], fun _ _ hl => absurd hs hl⟩
  · next hs =>
    split
    · next hd =>
      have hd' : s.demand d ≠ 0 := by simpa using hd
      exact calm_of_state (by simp [hs]) (by simp [hs]) (fun _ => .inl hd') (by simp [hs])
        fun hm hne => hcut hm hne (by simp [hs]) (by simp [hs])
    · next hd =>
      have hd' : s.demand d = 0 := by simpa using hd
      simp only [hs, if_neg hd] at hdemand
      split
      · next hzero =>
        simp only [if_pos hzero] at hdemand
        by_cases hx : d = 0 ∧ s.lnk.reply.isSome = true
        · have hstate : ((s.powerOff d .demandGone).dom d).state = .on := by rw [powerOff_of_held _ hx, heldOff_state, hs]
          have hheld : (s.powerOff d .demandGone).dmc.d0Held ≠ none := by
            rw [powerOff_of_held _ hx]
            exact Option.some_ne_none _
          exact calm_of_state (by simp [hstate]) (by simp [hstate]) (fun _ => .inr ⟨hx.1, hheld⟩) (by simp [hstate])
            fun _ hne => absurd (hdemand.trans hd') hne
        · have hstate : ((s.powerOff d .demandGone).dom d).state = .off := by
            rw [powerOff_of_not_held _ hx, enterOff_state, if_pos rfl]
          exact calm_of_state (fun _ => hdemand.trans hd') (by simp [hstate]) (by simp [hstate]) (by simp [hstate])
            fun _ hne => absurd (hdemand.trans hd') hne
      · next hzero =>
        simp only [if_neg hzero] at hdemand
        have hstate : ((s.enterHoldoff d).dom d).state = .holdoff := by
          unfold State.enterHoldoff
          rw [setState_state, if_pos rfl]
        exact calm_of_state (by simp [hstate]) (by simp [hstate]) (by simp [hstate]) (fun _ => hdemand.trans hd')
          fun _ hne => absurd (hdemand.trans hd') hne
  · next hs =>
    split
    · next hd =>
      simp only [hs, if_pos hd] at hdemand hown
      have hd' : s.demand d ≠ 0 := by simpa using hd
      have hstate : ((s.setState d .on 0).dom d).state = .on := by rw [setState_state, if_pos rfl]
      refine calm_of_state (by simp [hstate]) (by simp [hstate]) (fun _ => .inl (hdemand ▸ hd')) (by simp [hstate]) fun hm hne => ?_
      rw [hown.alike.mode] at hm
      rw [hown.alike.sessionDemands]
      exact hcut hm hd' (by simp [hs]) (by simp [hs])
    · next hd =>
      have hd' : s.demand d = 0 := by simpa using hd
      exact calm_of_state (by simp [hs]) (by simp [hs]) (by simp [hs]) (fun _ => hd') fun _ hne => absurd hd' hne

end Sys2Proof.Machine
end

section
/-! The forced switch-off and the whole settling: after it every domain is calm (R11, R21, R32, R33). -/

namespace Sys2Proof.Machine

/-! ### What the forced switch-off leaves -/

theorem forceOff_held (s : State) (d : DomId) : (s.forceOff d).dmc.d0Held = s.dmc.d0Held ∨ (s.forceOff d).dmc.d0Held = none ∨
    (d = 0 ∧ (s.forceOff d).dmc.d0Held = some .forced) := by
  have hoff : (s.enterOff d).dmc.d0Held = s.dmc.d0Held ∨ (s.enterOff d).dmc.d0Held = none := by
    have hown := enterOff_ownChange s d
    by_cases hd : d = 0
    · subst hd
      have hhold := congrArg Prod.fst (setState_hold_zero s .off 0)
      split at hhold
      · exact .inr hhold
      · exact .inl hhold
    · exact .inl (hown.held hd)
  have hpow : (s.powerOff d .forced).dmc.d0Held = s.dmc.d0Held ∨ (s.powerOff d .forced).dmc.d0Held = none ∨
      (d = 0 ∧ (s.powerOff d .forced).dmc.d0Held = some .forced) := by
    by_cases hx : d = 0 ∧ s.lnk.reply.isSome = true
    · rw [powerOff_of_held _ hx]
      exact .inr (.inr ⟨hx.1, rfl⟩)
    · rw [powerOff_of_not_held _ hx]
      exact hoff.imp_right .inl
  unfold State.forceOff
  split
  · exact .inl rfl
  · exact .inl rfl
  · exact hoff.imp_right .inl
  · exact hoff.imp_right .inl
  · exact hoff.imp_right .inl
  · exact hpow
  · exact hpow

/-- D0 forced off is OFF or LATCHED, or its switch-off is held. -/
theorem forceOff_zero (s : State) : ((s.forceOff 0).dom 0).state = .off ∨ ((s.forceOff 0).dom 0).state = .latched ∨
    (s.forceOff 0).dmc.d0Held = some .forced := by
  by_cases hx : (s.dom 0).state.live = true ∧ s.lnk.reply.isSome = true
  · right
    right
    have hpow : (s.powerOff 0 .forced).dmc.d0Held = some .forced := by rw [powerOff_of_held _ ⟨rfl, hx.2⟩]
    have hlive := hx.1
    unfold State.forceOff
    cases hs : (s.dom 0).state <;> simp_all [DomState.live]
  · rw [forceOff_state, if_pos rfl]
    split
    · exact .inr (.inl rfl)
    · rw [if_neg (by simpa using hx)]
      exact .inl rfl

/-- What a forced switch-off of the domains outside `l` has left, from s: the domains that a session demands as they were, the others not
powered, D0 apart while its switch-off is held. -/
structure Forced (l : List DomId) (t s : State) : Prop where
  alike : Alike t s
  kept : ∀ e, s.sessionDemands e = true → (t.dom e).state = (s.dom e).state
  off : ∀ e, e ∉ l → e ≠ 0 → s.sessionDemands e = false → (t.dom e).state = .off ∨ (t.dom e).state = .latched
  zero : 0 ∉ l → s.sessionDemands 0 = false → (t.dom 0).state = .off ∨ (t.dom 0).state = .latched ∨ t.dmc.d0Held = some .forced
  held : t.dmc.d0Held = s.dmc.d0Held ∨ t.dmc.d0Held = none ∨ (t.dmc.d0Held = some .forced ∧ s.sessionDemands 0 = false)

theorem Forced.step {d : DomId} {l : List DomId} {t s : State} (hl : Below (d :: l)) (h : Forced (d :: l) t s) :
    Forced l (t.forceStep d) s := by
  obtain ⟨halike, hkept, hoff, hzero, hheld⟩ := h
  have hd : d ∉ l := fun hmem => lt_irrefl d ((List.pairwise_cons.1 hl.sorted).1 d hmem)
  unfold State.forceStep
  rw [halike.sessionDemands]
  split
  · next hs =>
    refine ⟨halike, hkept, fun e he h0 hn => hoff e (fun hx => ?_) h0 hn, fun h0 hn => hzero (fun hx => ?_) hn, hheld⟩
    · rcases List.mem_cons.1 hx with rfl | hx
      · rw [hs] at hn
        cases hn
      · exact he hx
    · rcases List.mem_cons.1 hx with rfl | hx
      · rw [hs] at hn
        cases hn
      · exact h0 hx
  · next hs =>
    have hs' : s.sessionDemands d = false := by simpa using hs
    refine ⟨(forceOff_alike t d).trans halike, fun e he => ?_, fun e he h0 hn => ?_, fun h0 hn => ?_, ?_⟩
    · rw [forceOff_state, if_neg, hkept e he]
      rintro rfl
      exact hs he
    · rw [forceOff_state]
      split
      · next hed =>
        subst hed
        simp only [h0, false_and, and_false, if_false]
        split
        · exact .inr rfl
        · exact .inl rfl
      · next hed => exact hoff e (fun hx => (List.mem_cons.1 hx).elim hed he) h0 hn
    · by_cases hd0 : d = 0
      · subst hd0
        exact forceOff_zero t
      · exact absurd (hl.closed d List.mem_cons_self 0 (Fin.pos_iff_ne_zero.2 hd0))
          (fun hx => (List.mem_cons.1 hx).elim (fun hx => hd0 hx.symm) h0)
    · rcases forceOff_held t d with heq | hnone | ⟨rfl, hforced⟩
      · rwa [heq]
      · exact .inr (.inl hnone)
      · exact .inr (.inr ⟨hforced, hs'⟩)

theorem forceSteps_forced {l : List DomId} (hl : Below l) {t s : State} (h : Forced l t s) : Forced [] (l.foldl State.forceStep t) s := by
  induction l generalizing t with
  | nil => exact h
  | cons d l ih => exact ih hl.tail (h.step hl)

theorem forceCutoff_forced (s : State) : Forced [] s.forceCutoff s :=
  forceSteps_forced below_domIdsDown ⟨Alike.refl s, fun _ _ => rfl, fun e he => absurd (mem_domIdsDown e) he,
    fun h0 => absurd (mem_domIdsDown 0) h0, .inl rfl⟩

/-! ### The calm domains above the one whose transition is made -/

/-- The indices outside a lower part are closed upwards. -/
theorem Below.not_mem_of_lt {l : List DomId} (hl : Below l) {c e : DomId} (hc : c ∉ l) (hlt : c < e) : e ∉ l :=
  fun he => hc (hl.closed e he c hlt)

/-- What a session demands among the calm domains is demanded, and so not OFF. -/
theorem sessionDemanded_up {l : List DomId} (hl : Below l) {s : State} (ht : TreeSound s) (hh : s.held = false)
    (hcalm : ∀ c, c ∉ l → Calm s c) : ∀ c, c ∉ l → s.sessionDemands c = true → s.demand c ≠ 0 ∧ (s.dom c).state ≠ .off := by
  intro c
  induction c using WellFoundedGT.induction with
  | ind c ih =>
    intro hc hs
    have hdemand : s.demand c ≠ 0 := by
      rw [demand_ne_zero]
      rcases sessionDemands_cases hs with hdirect | ⟨e, hp, he⟩
      · exact .inl hdirect
      · have hlt := (ht e c hp).1
        exact .inr ⟨e, hp, (ih e hlt (hl.not_mem_of_lt hc hlt) he).2⟩
    refine ⟨hdemand, fun hoff => ?_⟩
    rcases (hcalm c hc).off hh hoff with h0 | ⟨-, hn⟩
    · exact hdemand h0
    · rw [hs] at hn
      cases hn

/-- In CUTOFF the forced switch-off leaves calm what was calm and what it forced off. -/
theorem forceCutoff_calm {d : DomId} {l : List DomId} (hl : Below (d :: l)) {s : State} (hpower : PowerHeld s) (hh : s.held = false)
    (hm : s.mdc.mode = .cutoff) (hd : s.sessionDemands d = false) (hcalm : ∀ c, c ∉ d :: l → Calm s c) :
    ∀ c, c ∉ l → Calm s.forceCutoff c := by
  obtain ⟨halike, hkept, hoff, hzero, -⟩ := forceCutoff_forced s
  have ht := hpower.tree
  have hup := sessionDemanded_up hl ht hh hcalm
  intro c hc
  cases hs : s.sessionDemands c
  · by_cases h0 : c = 0
    · subst h0
      rcases hzero (by simp) hs with hst | hst | hforced
      · refine ⟨fun _ _ => .inr ⟨?_, ?_⟩, by simp [hst], by simp [hst], by simp [hst], fun _ hne => absurd hst hne⟩
        · rw [halike.holdsPlaced]
          simp [State.holdsPlaced, hm]
        · rw [halike.sessionDemands, hs]
      · exact ⟨by simp [hst], by simp [hst], by simp [hst], by simp [hst], fun _ _ hne => absurd hst hne⟩
      · have hsome : s.forceCutoff.dmc.d0Held ≠ none := by
          rw [hforced]
          exact Option.some_ne_none _
        have hlive := (forceCutoff_power hpower).up hsome
        refine ⟨fun _ hx => ?_, fun hx => ?_, fun _ => .inr ⟨rfl, hsome⟩, fun _ => .inr ⟨rfl, hforced⟩, fun _ _ _ _ => .inr ⟨rfl, hsome⟩⟩
        · rw [hx] at hlive
          cases hlive
        · rcases hx with hx | hx <;>
          · rw [hx] at hlive
            cases hlive
    · rcases hoff c (by simp) h0 hs with hst | hst
      · refine ⟨fun _ _ => .inr ⟨?_, ?_⟩, by simp [hst], by simp [hst], by simp [hst], fun _ hne => absurd hst hne⟩
        · rw [halike.holdsPlaced]
          simp [State.holdsPlaced, hm]
        · rw [halike.sessionDemands, hs]
      · exact ⟨by simp [hst], by simp [hst], by simp [hst], by simp [hst], fun _ _ hne => absurd hst hne⟩
  · have hcd : c ≠ d := by
      rintro rfl
      rw [hd] at hs
      cases hs
    have hmem : c ∉ d :: l := fun hx => (List.mem_cons.1 hx).elim hcd hc
    have hstate := hkept c hs
    obtain ⟨hdem, hnot⟩ := hup c hmem hs
    have hdemand : s.forceCutoff.demand c ≠ 0 := by
      rw [demand_ne_zero, halike.directHolders]
      rcases sessionDemands_cases hs with hdirect | ⟨e, hp, he⟩
      · exact .inl hdirect
      · have hlt := (ht e c hp).1
        refine .inr ⟨e, by rw [halike.entry]; exact hp, ?_⟩
        rw [hkept e he]
        exact (hup e (hl.not_mem_of_lt hmem hlt) he).2
    have h0 : c ≠ 0 := by
      rintro rfl
      exact hmem (by
        by_cases hd0 : d = 0
        · exact hd0 ▸ List.mem_cons_self
        · exact hl.closed d List.mem_cons_self 0 (Fin.pos_iff_ne_zero.2 hd0))
    refine ⟨fun _ hx => absurd (hstate.symm.trans hx) hnot, fun _ => hdemand, fun _ => .inl hdemand, fun hx => ?_, fun _ _ _ _ => .inl ?_⟩
    · rcases (hcalm c hmem).holdoff (hstate.symm.trans hx) with hz | ⟨hz, -⟩
      · exact absurd hz hdem
      · exact absurd hz h0
    · rw [halike.sessionDemands, hs]

/-! ### The settling -/

theorem forces_iff (s : State) (d : DomId) : s.forces d = true ↔ (s.mdc.mode = .cutoff ∧ s.demand d ≠ 0 ∧ s.sessionDemands d = false) ∧
    (s.dom d).state ≠ .off ∧ (s.dom d).state ≠ .latched := by
  simp [State.forces, State.unwantedInCutoff, and_assoc]

theorem transition_of_forces {s : State} {d : DomId} (hf : s.forces d = true) : s.transition d = s.forceCutoff := if_pos hf

theorem heldStands_congr {s t : State} (ha : Alike t s) (hd : t.demand 0 = s.demand 0) (hh : t.dmc.d0Held = s.dmc.d0Held) :
    t.heldStands = s.heldStands := by
  unfold State.heldStands
  rw [hh, hd, ha.mode, ha.sessionDemands]

/-- The transition of d, with those above it calm, leaves calm all but those below it. -/
theorem transition_calms {d : DomId} {l : List DomId} (hl : Below (d :: l)) {s : State} (h : PowerHeld s) (hh : s.held = false)
    (hcalm : ∀ c, c ∉ d :: l → Calm s c) : ∀ c, c ∉ l → Calm (s.transition d) c := by
  cases hf : s.forces d
  · have hown := transition_ownChange hf
    intro c hc
    by_cases hcd : c = d
    · subst hcd
      exact transition_calm h.tree hf
    · have hmem : c ∉ d :: l := fun hx => (List.mem_cons.1 hx).elim hcd hc
      have hlt : d < c := by
        rcases lt_trichotomy c d with hlt | heq | hlt
        · exact absurd (hl.closed d List.mem_cons_self c hlt) hmem
        · exact absurd heq hcd
        · exact hlt
      refine (hcalm c hmem).congr hown.alike (hown.state c hcd) (demand_of_changed h.tree hown.alike hlt.le hown.state) ?_
      exact .inl fun h0 => absurd (h0 ▸ hlt) (Fin.not_lt_zero d)
  · obtain ⟨⟨hm, -, hs⟩, -⟩ := (forces_iff s d).1 hf
    rw [transition_of_forces hf]
    exact forceCutoff_calm hl h hh hm hs hcalm

/-- D0's own transition, with no switch-off held before, holds one back only for a cause that stands. -/
theorem transition_stands {s : State} (h : PowerHeld s) (hnone : s.dmc.d0Held = none) (hx : (s.transition 0).dmc.d0Held ≠ none) :
    (s.transition 0).heldStands = true := by
  cases hf : s.forces 0
  · have hown := transition_ownChange hf
    rcases hown.stands rfl with heq | heq | ⟨heq, hd⟩
    · exact absurd heq hx
    · exact absurd (heq.trans hnone) hx
    · rw [heldStands_demandGone heq, hown.demand h.tree, hd]
      rfl
  · obtain ⟨⟨hm, -, hs⟩, -⟩ := (forces_iff s 0).1 hf
    rw [transition_of_forces hf] at hx ⊢
    obtain ⟨halike, -, -, -, hheld⟩ := forceCutoff_forced s
    rcases hheld with heq | heq | ⟨heq, -⟩
    · exact absurd (heq.trans hnone) hx
    · exact absurd heq hx
    · rw [heldStands_forced heq, halike.mode, halike.sessionDemands, hm, hs]
      rfl

/-- D0's switch-off is held in ON or HOLDOFF for its cause: nothing is left for D0's transition to do. -/
theorem calm_of_stands {s : State} (h : PowerHeld s) (hs : s.heldStands = true) (hx : s.dmc.d0Held ≠ none) : Calm s 0 := by
  have hlive := h.up hx
  refine ⟨fun _ ho => ?_, fun hw => ?_, fun _ => .inr ⟨rfl, hx⟩, fun _ => ?_, fun _ _ _ _ => .inr ⟨rfl, hx⟩⟩
  · rw [ho] at hlive
    cases hlive
  · rcases hw with hw | hw <;>
    · rw [hw] at hlive
      cases hlive
  · cases hc : s.dmc.d0Held with
    | none => exact absurd hc hx
    | some c =>
      cases c with
      | demandGone =>
        rw [heldStands_demandGone hc] at hs
        exact .inl (by simpa using hs)
      | forced => exact .inr ⟨rfl, rfl⟩

theorem forget_calm {s : State} {c : DomId} (hc : c ≠ 0) (h : Calm s c) : Calm { s with dmc.d0Held := none } c :=
  h.congr ⟨rfl, rfl, ⟨rfl, rfl, rfl⟩, fun _ => rfl, rfl⟩ rfl rfl (.inl hc)

theorem transitionOf_calms {d : DomId} {l : List DomId} (hl : Below (d :: l)) {s : State} (h : PowerHeld s) (hh : s.held = false)
    (hcalm : ∀ c, c ∉ d :: l → Calm s c) : (∀ c, c ∉ l → Calm (s.transitionOf d) c) ∧
    (d = 0 → (s.transitionOf d).dmc.d0Held ≠ none → (s.transitionOf d).heldStands = true) := by
  have hne : ∀ c, c ∉ d :: l → c ≠ 0 := by
    rintro c hc rfl
    by_cases hd0 : d = 0
    · exact hc (hd0 ▸ List.mem_cons_self)
    · exact hc (hl.closed d List.mem_cons_self 0 (Fin.pos_iff_ne_zero.2 hd0))
  unfold State.transitionOf
  split
  · next hx =>
    simp only [Bool.and_eq_true, decide_eq_true_eq] at hx
    obtain ⟨rfl, hsome⟩ := hx
    have hheld : s.dmc.d0Held ≠ none := Option.isSome_iff_ne_none.1 hsome
    split
    · next hs =>
      refine ⟨fun c hc => ?_, fun _ _ => hs⟩
      by_cases hc0 : c = 0
      · rw [hc0]
        exact calm_of_stands h hs hheld
      · exact hcalm c fun hx => (List.mem_cons.1 hx).elim hc0 hc
    · have hcalm' : ∀ c, c ∉ 0 :: l → Calm { s with dmc.d0Held := none } c := fun c hc => forget_calm (hne c hc) (hcalm c hc)
      exact ⟨transition_calms hl (forget_power h) hh hcalm', fun _ => transition_stands (forget_power h) rfl⟩
  · next hx =>
    refine ⟨transition_calms hl h hh hcalm, fun hd0 => ?_⟩
    subst hd0
    exact transition_stands h (by simpa using hx)

theorem settleSteps_calm {l : List DomId} (hl : Below l) {s : State} (h : PowerHeld s) (hh : s.held = false)
    (hcalm : ∀ c, c ∉ l → Calm s c) (hstands : 0 ∉ l → s.dmc.d0Held ≠ none → s.heldStands = true) :
    AllCalm (l.foldl State.transitionOf s) := by
  induction l generalizing s with
  | nil => exact ⟨fun d => hcalm d (by simp), hstands (by simp)⟩
  | cons d l ih =>
    obtain ⟨hcalms, hzero⟩ := transitionOf_calms hl h hh hcalm
    refine ih hl.tail (transitionOf_power d h) ((transitionOf_alike s d).held.trans hh) hcalms fun h0 => ?_
    by_cases hd0 : d = 0
    · exact hzero hd0
    · exact absurd (hl.closed d List.mem_cons_self 0 (Fin.pos_iff_ne_zero.2 hd0))
        fun hx => (List.mem_cons.1 hx).elim (fun hx => hd0 hx.symm) h0

/-- R21: one pass, children before parents, leaves every domain calm. -/
theorem settle_calm {s : State} (h : PowerHeld s) (hh : s.held = false) : AllCalm s.settle :=
  settleSteps_calm below_domIdsDown h hh (fun c hc => absurd (mem_domIdsDown c) hc) (fun h0 => absurd (mem_domIdsDown 0) h0)

/-! ### Where every domain is calm nothing changes -/

theorem transition_of_calm {s : State} {d : DomId} (h : Calm s d) (hh : s.held = false) (hx : d ≠ 0 ∨ s.dmc.d0Held = none) :
    s.transition d = s := by
  have hnot : ∀ {p : Prop}, ¬ (d = 0 ∧ s.dmc.d0Held ≠ none ∧ p) := fun hc => hx.elim (fun h0 => h0 hc.1) (fun h0 => hc.2.1 h0)
  have hforces : ¬ s.forces d = true := by
    rw [forces_iff]
    rintro ⟨⟨hm, hd, hs⟩, hoff, hlatched⟩
    rcases h.cutoff hm hoff hlatched hd with hs' | ⟨h0, hheld⟩
    · rw [hs] at hs'
      cases hs'
    · exact hnot ⟨h0, hheld, trivial⟩
  have hforces' : ¬ (s.unwantedInCutoff d && (s.dom d).state != .off && (s.dom d).state != .latched) = true := hforces
  unfold State.transition
  rw [if_neg hforces']
  split
  · next hs =>
    rcases h.off hh hs with hd | ⟨hp, hd⟩
    · simp [hd]
    · simp [hp, hd]
  · next hs => exact if_neg (h.waiting (.inl hs))
  · next hs => exact if_neg (h.waiting (.inr hs))
  · rfl
  · rfl
  · next hs =>
    rcases h.on hs with hd | ⟨h0, hheld⟩
    · exact if_pos (by simpa using hd)
    · exact absurd ⟨h0, hheld, trivial⟩ hnot
  · next hs =>
    rcases h.holdoff hs with hd | ⟨h0, hheld⟩
    · exact if_neg (by simpa using hd)
    · exact absurd ⟨h0, by rw [hheld]; exact Option.some_ne_none _, trivial⟩ hnot

theorem transitionOf_of_calm {s : State} (h : AllCalm s) (hh : s.held = false) (d : DomId) : s.transitionOf d = s := by
  unfold State.transitionOf
  split
  · next hx =>
    simp only [Bool.and_eq_true, decide_eq_true_eq] at hx
    exact if_pos (h.stands (Option.isSome_iff_ne_none.1 hx.2))
  · next hx =>
    refine transition_of_calm (h.calm d) hh ?_
    by_cases hd : d = 0
    · exact .inr (by simpa [hd] using hx)
    · exact .inl hd

theorem settle_of_calm {s : State} (h : AllCalm s) (hh : s.held = false) : s.settle = s := by
  have key : ∀ l : List DomId, l.foldl State.transitionOf s = s := by
    intro l
    induction l with
    | nil => rfl
    | cons d l ih => rw [List.foldl_cons, transitionOf_of_calm h hh d, ih]
  exact key domIdsDown

end Sys2Proof.Machine
end

section
/-! The grants (R42, R43), the end of an event, and obligation O8. -/

namespace Sys2Proof.Machine

/-! ### Grants -/

/-- The state between the settling and the grants: the Ramp Arbiter and the power sound, every domain calm. -/
structure ReadyToGrant (s : State) : Prop where
  ramp : RampSound s
  power : PowerHeld s
  calm : AllCalm s
  running : s.held = false

theorem grant_state (s : State) (d e : DomId) : ((s.grant d).dom e).state = if e = d then .ramping else (s.dom e).state := by
  have hset := setState_state s d e .ramping (s.dom d).entry.rampTimeout
  unfold State.grant
  dsimp only
  split <;> exact hset

theorem grant_alike (s : State) (d : DomId) : Alike (s.grant d) s :=
  alike_of_deep (grant_deep ..) (congrArg Ssc.sessions ((Domestic.sameSessions s.ssc).grant d rfl))

theorem grant_hold (s : State) (d : DomId) : (s.grant d).hold = (s.setState d .ramping (s.dom d).entry.rampTimeout).hold := by
  unfold State.grant
  dsimp only
  split <;> rfl

/-- A QUEUED domain is not up, so its change of state holds nothing back and releases nothing. -/
theorem setState_hold_of_down (s : State) {d : DomId} (n : DomState) (t : Nat) (hd : (s.dom d).state.live = false) :
    (s.setState d n t).hold = s.hold := by
  by_cases h0 : d = 0
  · subst h0
    rw [setState_hold_zero, hd]
    rfl
  · exact setState_hold_ne s n t h0

/-- While D0's switch-off is held no child of D0 waits for a slot. -/
theorem not_child_of_held {s : State} (h : PowerHeld s) (hc : AllCalm s) {d : DomId} (hd : (s.dom d).state = .queued)
    (hx : s.dmc.d0Held ≠ none) : (s.dom d).entry.parent ≠ some 0 := by
  intro hp
  have hstands := hc.stands hx
  cases hcause : s.dmc.d0Held with
  | none => exact hx hcause
  | some c =>
    cases c with
    | demandGone =>
      rw [heldStands_demandGone hcause] at hstands
      have hoff := child_off (by simpa using hstands) hp
      rw [hd] at hoff
      cases hoff
    | forced =>
      rw [heldStands_forced hcause] at hstands
      simp only [Bool.and_eq_true, beq_iff_eq, Bool.not_eq_true'] at hstands
      obtain ⟨hm, hs⟩ := hstands
      have hchild := not_sessionDemands_child h.tree hs hp
      rcases (hc.calm d).cutoff hm (by simp [hd]) (by simp [hd]) ((hc.calm d).waiting (.inl hd)) with hs' | ⟨h0, -⟩
      · rw [hchild] at hs'
        cases hs'
      · rw [h0] at hd
        have hlive := h.up hx
        rw [hd] at hlive
        cases hlive

/-- A change of one domain among RAMPING, QUEUED and the powered states that leaves its own demand above 0 leaves every domain calm. -/
theorem AllCalm.change {s t : State} (h : AllCalm s) (ha : Alike t s) {d : DomId}
    (hs : ∀ e, e ≠ d → (t.dom e).state = (s.dom e).state) (hold : (s.dom d).state ≠ .off) (hnew : (t.dom d).state ≠ .off)
    (hheld : t.dmc.d0Held = s.dmc.d0Held) (hcalm : t.demand d = s.demand d → Calm t d) : AllCalm t := by
  have hdemand : ∀ e, t.demand e = s.demand e := by
    intro e
    refine ha.demand fun c _ => ?_
    by_cases hc : c = d
    · subst hc
      exact ⟨fun hx => absurd hx hnew, fun hx => absurd hx hold⟩
    · rw [hs c hc]
  refine ⟨fun e => ?_, fun hx => ?_⟩
  · by_cases he : e = d
    · subst he
      exact hcalm (hdemand e)
    · exact (h.calm e).congr ha (hs e he) (hdemand e) (.inr hheld)
  · rw [heldStands_congr ha (hdemand 0) hheld]
    exact h.stands (hheld ▸ hx)

theorem eligible_iff (s : State) (d : DomId) : s.eligible d = true ↔ ∀ p, (s.dom d).entry.parent = some p → (s.dom p).state = .on := by
  unfold State.eligible
  cases hp : (s.dom d).entry.parent <;> simp

section
variable {s : State} {d : DomId} (h : ReadyToGrant s) (hd : (s.dom d).state = .queued)
include h hd

theorem ReadyToGrant.demanded : s.demand d ≠ 0 := (h.calm.calm d).waiting (.inl hd)

theorem ReadyToGrant.grant (he : s.eligible d = true) (hf : s.slotFree = true) : ReadyToGrant (s.grant d) := by
  have hhold : (s.grant d).hold = s.hold := (grant_hold s d).trans (setState_hold_of_down s _ _ (by rw [hd]; rfl))
  have hstate : ((s.grant d).dom d).state = .ramping := by rw [grant_state, if_pos rfl]
  have hset : PowerHeld (s.setState d .ramping (s.dom d).entry.rampTimeout) :=
    h.power.setState_powered _ (fun _ => .inr ⟨(eligible_iff s d).1 he, not_child_of_held h.power h.calm hd⟩)
      (.inr (h.power.childrenDown_of_not_on (by simp [hd])))
  have hpower : PowerHeld (s.grant d) := by
    unfold State.grant
    dsimp only
    split <;> exact hset.congr (fun _ => ⟨rfl, rfl⟩) rfl
  have halike := grant_alike s d
  refine ⟨grant_rampSound h.ramp d hd hf, hpower, ?_, halike.held.trans h.running⟩
  refine h.calm.change halike (d := d) (fun e he => by rw [grant_state, if_neg he]) (by simp [hd]) (by simp [hstate])
    (congrArg Prod.fst hhold) fun hdemand => ?_
  refine ⟨by simp [hstate], by simp [hstate], by simp [hstate], by simp [hstate], fun hm _ _ _ => ?_⟩
  rw [halike.mode] at hm
  have hheld : (s.grant d).dmc.d0Held = s.dmc.d0Held := congrArg Prod.fst hhold
  rw [halike.sessionDemands, hheld]
  exact (h.calm.calm d).cutoff hm (by simp [hd]) (by simp [hd]) (h.demanded hd)

end

theorem ReadyToGrant.congr {s t : State} (h : ReadyToGrant s) (hp : t.power = s.power) (hh : t.hold = s.hold) (ha : Alike t s) :
    ReadyToGrant t := by
  have hstate : ∀ e, (t.dom e).state = (s.dom e).state := fun e => by rw [power_dom hp]
  have hdemand : ∀ e, t.demand e = s.demand e := fun e => ha.demand fun c _ => by rw [hstate]
  have hheld : t.dmc.d0Held = s.dmc.d0Held := congrArg Prod.fst hh
  refine ⟨h.ramp.same hp, h.power.same hp hh, ⟨fun e => (h.calm.calm e).congr ha (hstate e) (hdemand e) (.inr hheld), fun hx => ?_⟩,
    ha.held.trans h.running⟩
  rw [heldStands_congr ha (hdemand 0) hheld]
  exact h.calm.stands (hheld ▸ hx)

theorem refreshSub_alike (s : State) : Alike s.refreshSub s :=
  alike_of_base (refreshSub_base s) (congrArg Ssc.sessions (refreshSub_ssc s))

/-- With every domain calm and every QUEUED one in the queue a change of demand does no more. -/
theorem demandChanged_of_calm {s : State} (h : AllCalm s) (hh : s.held = false) : s.demandChanged = s.refreshSub := by
  unfold State.demandChanged
  rw [settle_of_calm h hh]

theorem enqueueArrivals_of_queued {s : State} (h : RampSound s) : s.enqueueArrivals = s := by
  have hnone : domIds.filter (fun d => (s.dom d).state == .queued && !s.rmp.queue.contains d) = [] := by
    rw [List.filter_eq_nil_iff]
    intro d _ hx
    simp only [Bool.and_eq_true, beq_iff_eq, Bool.not_eq_true'] at hx
    have hmem := (h.queued d).1 hx.1
    simp [hmem] at hx
  unfold State.enqueueArrivals
  rw [hnone, List.append_nil]

section
variable {s : State} {d : DomId}

theorem ReadyToGrant.rampDone (h : ReadyToGrant s) (hd : (s.dom d).state = .ramping) (hdem : s.demand d ≠ 0) :
    ReadyToGrant (s.rampDone d).demandChanged.enqueueArrivals ∧
      ∀ e, ((s.rampDone d).demandChanged.enqueueArrivals.dom e).state = if e = d then .on else (s.dom e).state := by
  have hdone : s.rampDone d = s.setState d .on 0 := if_pos (by simpa using hdem)
  have hramp : RampHeld (s.rampDone d) := rampDone_rampHeld h.ramp.held d hd
  rw [hdone] at hramp ⊢
  have halike := setState_alike s d .on 0
  have hstate : ((s.setState d .on 0).dom d).state = .on := by rw [setState_state, if_pos rfl]
  have hhold : (s.setState d .on 0).hold = s.hold := setState_hold_of_down s _ _ (by rw [hd]; rfl)
  have hpower : PowerHeld (s.setState d .on 0) := h.power.setState 0 (fun _ => by rw [hd]; rfl) (.inl rfl)
  have hqueue : ∀ e, ((s.setState d .on 0).dom e).state = .queued → e ∈ (s.setState d .on 0).rmp.queue := by
    intro e he
    rw [setState_state] at he
    split at he
    · cases he
    · rw [setState_rmp]
      have hmem := (h.ramp.queued e).1 he
      simpa [hd] using hmem
  have hcalm : AllCalm (s.setState d .on 0) := by
    refine h.calm.change halike (d := d) (fun e he => by rw [setState_state, if_neg he]) (by simp [hd]) (by simp)
      (congrArg Prod.fst hhold) fun hdemand => ?_
    refine ⟨by simp, by simp, fun _ => .inl (hdemand ▸ hdem), by simp, fun hm _ _ _ => ?_⟩
    rw [halike.mode] at hm
    have hheld : (s.setState d .on 0).dmc.d0Held = s.dmc.d0Held := congrArg Prod.fst hhold
    rw [halike.sessionDemands, hheld]
    exact (h.calm.calm d).cutoff hm (by simp [hd]) (by simp [hd]) hdem
  have hready : ReadyToGrant (s.setState d .on 0) := ⟨hramp.sound hqueue, hpower, hcalm, halike.held.trans h.running⟩
  rw [demandChanged_of_calm hcalm hready.running]
  have hsub : ReadyToGrant (s.setState d .on 0).refreshSub :=
    hready.congr (refreshSub_power _) (refreshSub_hold _) (refreshSub_alike _)
  rw [enqueueArrivals_of_queued hsub.ramp]
  refine ⟨hsub, fun e => ?_⟩
  rw [refreshSub_dom, setState_state]

/-- A grant, completed at once or not, takes one domain out of QUEUED and leaves everything sound. -/
theorem ReadyToGrant.grantAndRamp (h : ReadyToGrant s) (hd : (s.dom d).state = .queued) (he : s.eligible d = true)
    (hf : s.slotFree = true) : ReadyToGrant (s.grantAndRamp d) ∧ ∀ e, ((s.grantAndRamp d).dom e).state = .queued →
      e ≠ d ∧ (s.dom e).state = .queued := by
  have hgrant := h.grant hd he hf
  have hstate : ((s.grant d).dom d).state = .ramping := by rw [grant_state, if_pos rfl]
  have hdemand : (s.grant d).demand d = s.demand d :=
    demand_of_changed h.power.tree (grant_alike s d) le_rfl fun e he => by rw [grant_state, if_neg he]
  unfold State.grantAndRamp
  dsimp only
  split
  · obtain ⟨hready, hstates⟩ := hgrant.rampDone hstate (hdemand ▸ h.demanded hd)
    refine ⟨hready, fun e hq => ?_⟩
    rw [hstates, grant_state] at hq
    split at hq
    · cases hq
    · next hed => exact ⟨hed, hq⟩
  · refine ⟨hgrant, fun e hq => ?_⟩
    rw [grant_state] at hq
    split at hq
    · cases hq
    · next hed => exact ⟨hed, hq⟩

end

/-! ### Until no slot is free or no entry is eligible -/

/-- The number of QUEUED domains. -/
def State.waiting (s : State) : Nat := (domIds.filter (fun d => (s.dom d).state == .queued)).length

theorem waiting_le (s : State) : s.waiting ≤ 12 := (List.length_filter_le _ _).trans (by decide)

theorem waiting_lt {s t : State} {d : DomId} (hd : (s.dom d).state = .queued)
    (h : ∀ e, (t.dom e).state = .queued → e ≠ d ∧ (s.dom e).state = .queued) : t.waiting < s.waiting := by
  have hsub : (domIds.filter (fun e => (t.dom e).state == .queued)).Sublist
      ((domIds.filter (fun e => (s.dom e).state == .queued)).filter (fun e => e != d)) := by
    rw [List.filter_filter]
    refine List.monotone_filter_right _ fun e he => ?_
    obtain ⟨hne, hq⟩ := h e (by simpa using he)
    simp [hne, hq]
  refine hsub.length_le.trans_lt (List.length_filter_lt_length_iff_exists.2 ⟨d, ?_, by simp⟩)
  exact List.mem_filter.2 ⟨mem_domIds d, by simpa using hd⟩

theorem mem_insertByPriority_iff {p : DomId → Nat} {d x : DomId} {l : List DomId} :
    x ∈ insertByPriority p d l ↔ x = d ∨ x ∈ l := by
  induction l with
  | nil => simp [insertByPriority]
  | cons e l ih =>
    unfold insertByPriority
    split
    · simp
    · simp only [List.mem_cons, ih]
      tauto

theorem mem_queueOrder_iff {s : State} {d : DomId} : d ∈ s.queueOrder ↔ d ∈ s.rmp.queue := by
  have key : ∀ (l q : List DomId), d ∈ l.foldl (fun q e => insertByPriority (fun e => (s.dom e).entry.rampPriority) e q) q ↔
      d ∈ l ∨ d ∈ q := by
    intro l
    induction l with
    | nil => simp
    | cons e l ih =>
      intro q
      rw [List.foldl_cons, ih, mem_insertByPriority_iff, List.mem_cons]
      tauto
  unfold State.queueOrder
  rw [key]
  simp

/-- No slot is free, or every QUEUED domain waits for its parent (R42, R43). -/
def State.granted (s : State) : Prop :=
  s.rmp.slotA = none ∨ s.rmp.slotB = none → ∀ d ∈ s.rmp.queue, ∃ p, (s.dom d).entry.parent = some p ∧ (s.dom p).state ≠ .on

theorem granted_of_no_slot {s : State} (h : ¬ s.slotFree = true) : s.granted := by
  intro hx
  refine absurd ?_ h
  rcases hx with hx | hx <;> simp [State.slotFree, hx]

theorem granted_of_none {s : State} (h : s.nextGrant = none) : s.granted := by
  intro _ d hd
  have hnot := List.find?_eq_none.1 h d (mem_queueOrder_iff.2 hd)
  rw [eligible_iff] at hnot
  push Not at hnot
  exact hnot

theorem grants_granted {n : Nat} {s : State} (h : ReadyToGrant s) (hn : s.waiting ≤ n) :
    ReadyToGrant (State.grants n s) ∧ (State.grants n s).granted := by
  induction n generalizing s with
  | zero =>
    refine ⟨h, fun _ d hd => ?_⟩
    have hq := (h.ramp.queued d).2 hd
    have hpos : 0 < s.waiting := List.length_pos_of_mem (List.mem_filter.2 ⟨mem_domIds d, by simpa using hq⟩)
    omega
  | succ n ih =>
    unfold State.grants
    split
    · next hf =>
      split
      · next d hd =>
        have hq : (s.dom d).state = .queued := (h.ramp.queued d).2 (mem_queueOrder (List.mem_of_find?_eq_some hd))
        obtain ⟨hready, hleft⟩ := h.grantAndRamp hq (List.find?_some hd) hf
        have hlt := waiting_lt hq hleft
        exact ih hready (by omega)
      · next hnone => exact ⟨h, granted_of_none hnone⟩
    · next hf => exact ⟨h, granted_of_no_slot hf⟩

end Sys2Proof.Machine
end

section
/-! The events of the domains, the clearing of a fault, the resets and a write of an entry keep what holds of the power throughout an event
(R15, R26, R27, R30, R34, R35). -/

namespace Sys2Proof.Machine

section
variable {s : State} {d : DomId} (h : PowerHeld s)
include h

theorem PowerHeld.demandChanged : PowerHeld s.demandChanged := PowerHeld.closed.demandChanged h

theorem PowerHeld.record (k : RecordKind) (a b : Nat) (v : Option Nat) : PowerHeld (s.record k a b v) :=
  h.same (record_power ..) (record_hold s k a b v)

theorem PowerHeld.enterHoldoff (hd : (s.dom d).state.enOn = true) (hc : s.childrenDown d) : PowerHeld (s.enterHoldoff d) :=
  h.setState _ (fun _ => hd) (.inr hc)

/-! ### Ramps and failures -/

theorem PowerHeld.rampDone (hd : (s.dom d).state = .ramping) : PowerHeld (s.rampDone d) := by
  have hen : (s.dom d).state.enOn = true := by rw [hd]; rfl
  have hdown : s.childrenDown d := h.childrenDown_of_not_on (by simp [hd])
  unfold State.rampDone
  split
  · exact h.setState 0 (fun _ => hen) (.inl rfl)
  · split
    · exact h.enterOff hdown
    · exact h.enterHoldoff hen hdown

theorem PowerHeld.countFault (n : Nat) : PowerHeld (s.countFault d n) :=
  (h.updDom d (fun x => { x with attempts := x.attempts + 1 }) fun _ => ⟨rfl, rfl⟩).record ..

theorem PowerHeld.afterFault (hc : s.childrenDown d) : PowerHeld (s.afterFault d) := by
  unfold State.afterFault
  split
  · exact h.enterOff hc
  · split
    · exact h.setState _ (fun hx => by cases hx) (.inr hc)
    · exact (h.enterLatched hc).record ..

end

theorem countFault_dom (s : State) (d e : DomId) (n : Nat) :
    ((s.countFault d n).dom e).state = (s.dom e).state ∧ ((s.countFault d n).dom e).entry = (s.dom e).entry := by
  unfold State.countFault
  dsimp only
  rw [power_dom (record_power ..) e, dom_updDom]
  split
  · next he =>
    subst he
    exact ⟨rfl, rfl⟩
  · exact ⟨rfl, rfl⟩

theorem childrenDown_congr {s t : State} {d : DomId}
    (hd : ∀ e, (t.dom e).state = (s.dom e).state ∧ (t.dom e).entry = (s.dom e).entry) (h : s.childrenDown d) : t.childrenDown d := by
  intro c hc
  rw [(hd c).2] at hc
  rw [(hd c).1]
  exact h c hc

theorem PowerHeld.rampFailed {s : State} {d : DomId} (h : PowerHeld s) (hd : (s.dom d).state = .ramping) : PowerHeld (s.rampFailed d) :=
  (h.countFault 0).afterFault (childrenDown_congr (fun e => countFault_dom s d e 0) (h.childrenDown_of_not_on (by simp [hd])))

/-! ### Power-good lost: the descendants first (R30) -/

theorem hasDom_single (e d : DomId) : hasDom (addDom 0 e) d = true ↔ d = e := by
  have hempty : hasDom 0 d = false := BitVec.getLsbD_zero
  rw [hasDom_addDom, hempty, Bool.false_or, decide_eq_true_eq]

/-- A child is below whatever its parent is below. -/
theorem setDemands_of_child {s : State} (ht : TreeSound s) {c e : DomId} (hp : (s.dom c).entry.parent = some e) (d : DomId)
    (h : s.setDemands (addDom 0 e) d = true) : s.setDemands (addDom 0 c) d = true := by
  have hin : hasDom (addDom 0 c) c = true := (hasDom_single c c).2 rfl
  induction d using WellFoundedGT.induction with
  | ind d ih =>
    rcases setDemands_cases h with hd | ⟨f, hf, hup⟩
    · have hde : d = e := (hasDom_single e d).1 hd
      exact hde ▸ setDemands_parent ht (setDemands_self s hin) hp
    · exact setDemands_parent ht (ih f (ht f d hf).1 hup) hf

theorem mem_below {s : State} {d e : DomId} : e ∈ s.below d ↔ e ≠ d ∧ s.setDemands (addDom 0 e) d = true := by
  simp [State.below, mem_domIdsDown]

theorem child_mem_below {s : State} (ht : TreeSound s) {c d : DomId} (hp : (s.dom c).entry.parent = some d) : c ∈ s.below d := by
  have hin : hasDom (addDom 0 c) c = true := (hasDom_single c c).2 rfl
  exact mem_below.2 ⟨(ht c d hp).1.ne', setDemands_parent ht (setDemands_self s hin) hp⟩

/-- An ancestor has a lower index (R16). -/
theorem le_of_setDemands {s : State} (ht : TreeSound s) {e : DomId} (d : DomId) (h : s.setDemands (addDom 0 e) d = true) : d ≤ e := by
  induction d using WellFoundedGT.induction with
  | ind d ih =>
    rcases setDemands_cases h with hd | ⟨f, hf, hup⟩
    · exact ((hasDom_single e d).1 hd).le
    · have hlt := (ht f d hf).1
      exact hlt.le.trans (ih f hlt hup)

/-- The domains below d are taken children before parents. -/
theorem child_mem_below_of_mem {s : State} (ht : TreeSound s) {c e d : DomId} (hp : (s.dom c).entry.parent = some e)
    (he : e ∈ s.below d) : c ∈ s.below d := by
  obtain ⟨-, hup⟩ := mem_below.1 he
  refine mem_below.2 ⟨?_, setDemands_of_child ht hp d hup⟩
  rintro rfl
  exact absurd (ht c e hp).1 (not_lt.2 (le_of_setDemands ht c hup))

theorem dropDescendant_alike (s : State) (d : DomId) : Alike (s.dropDescendant d) s :=
  alike_of_deep (dropDescendant_deep ..) (congrArg Ssc.sessions ((Domestic.sameSessions s.ssc).dropDescendant d rfl))

theorem dropDescendant_state (s : State) (d e : DomId) : (e ≠ d → ((s.dropDescendant d).dom e).state = (s.dom e).state) ∧
    ((s.dropDescendant d).dom d).state.enOn = false := by
  unfold State.dropDescendant
  split
  · split
    · exact ⟨fun he => by rw [enterQueued_state, if_neg he], by rw [enterQueued_state, if_pos rfl]; rfl⟩
    · exact ⟨fun he => by rw [enterOff_state, if_neg he], by rw [enterOff_state, if_pos rfl]; rfl⟩
  · split
    · exact ⟨fun he => by rw [enterQueued_state, if_neg he], by rw [enterQueued_state, if_pos rfl]; rfl⟩
    · exact ⟨fun he => by rw [enterOff_state, if_neg he], by rw [enterOff_state, if_pos rfl]; rfl⟩
  · exact ⟨fun he => by rw [enterOff_state, if_neg he], by rw [enterOff_state, if_pos rfl]; rfl⟩
  all_goals next hs => exact ⟨fun _ => rfl, by rw [hs]; rfl⟩

theorem PowerHeld.dropDescendant {s : State} (h : PowerHeld s) {d : DomId} (hc : s.childrenDown d) : PowerHeld (s.dropDescendant d) := by
  unfold State.dropDescendant
  split
  · split
    · exact h.enterQueued hc
    · exact h.enterOff hc
  · split
    · exact h.enterQueued hc
    · exact h.enterOff hc
  · exact h.enterOff hc
  all_goals exact h

/-- In a part of the index order that is taken from the top, closed under children but for what is down already, every domain is down in
the end. -/
theorem dropDescendants_power {l : List DomId} (hl : l.Pairwise (· > ·)) {s : State} (h : PowerHeld s)
    (hc : ∀ e ∈ l, ∀ c, (s.dom c).entry.parent = some e → c ∈ l ∨ (s.dom c).state.enOn = false) :
    PowerHeld (l.foldl State.dropDescendant s) ∧ (∀ e, e ∈ l ∨ (s.dom e).state.enOn = false →
      ((l.foldl State.dropDescendant s).dom e).state.enOn = false) ∧ Alike (l.foldl State.dropDescendant s) s := by
  induction l generalizing s with
  | nil => exact ⟨h, fun e he => he.resolve_left (by simp), Alike.refl s⟩
  | cons d l ih =>
    obtain ⟨hd, hl'⟩ := List.pairwise_cons.1 hl
    have hdown : s.childrenDown d := by
      intro c hp
      rcases hc d List.mem_cons_self c hp with hmem | hoff
      · rcases List.mem_cons.1 hmem with rfl | hmem
        · exact absurd (h.tree c c hp).1 (lt_irrefl c)
        · exact absurd (h.tree c d hp).1 (lt_asymm (hd c hmem))
      · exact hoff
    have halike := dropDescendant_alike s d
    have hoff : ∀ e, e = d ∨ (s.dom e).state.enOn = false → ((s.dropDescendant d).dom e).state.enOn = false := by
      intro e he
      by_cases hed : e = d
      · rw [hed]
        exact (dropDescendant_state s d d).2
      · rw [(dropDescendant_state s d e).1 hed]
        exact he.resolve_left hed
    obtain ⟨hpower, hall, halike'⟩ := ih hl' (h.dropDescendant hdown) (by
      intro e he c hp
      rw [halike.entry] at hp
      rcases hc e (List.mem_cons_of_mem d he) c hp with hmem | hx
      · rcases List.mem_cons.1 hmem with hcd | hmem
        · exact .inr (hoff c (.inl hcd))
        · exact .inl hmem
      · exact .inr (hoff c (.inr hx)))
    refine ⟨hpower, fun e he => hall e ?_, halike'.trans halike⟩
    rcases he with he | he
    · rcases List.mem_cons.1 he with hed | he
      · exact .inr (hoff e (.inl hed))
      · exact .inl he
    · exact .inr (hoff e (.inr he))

theorem PowerHeld.pgLost {s : State} (h : PowerHeld s) (d : DomId) : PowerHeld (s.pgLost d) := by
  obtain ⟨hpower, hdown, halike⟩ := dropDescendants_power (domIdsDown_sorted.filter _) h
    (l := s.below d) fun e he c hp => .inl (child_mem_below_of_mem h.tree hp he)
  have hchildren : ((s.below d).foldl State.dropDescendant s).childrenDown d := by
    intro c hp
    rw [halike.entry] at hp
    exact hdown c (.inl (child_mem_below h.tree hp))
  exact (hpower.countFault 1).afterFault (childrenDown_congr (fun e => countFault_dom _ d e 1) hchildren)

/-! ### A fault cleared, an entry written -/

theorem PowerHeld.clearFault {s : State} (h : PowerHeld s) (d : DomId) : PowerHeld (s.clearFault d) := by
  have hattempts : ∀ {u : State}, PowerHeld u → PowerHeld (u.updDom d (fun x => { x with attempts := 0 })) :=
    fun hu => hu.updDom d _ fun _ => ⟨rfl, rfl⟩
  unfold State.clearFault
  split
  · next hs =>
    have hoff : PowerHeld (s.enterOff d) := h.enterOff (h.childrenDown_of_not_on (by simp [hs]))
    exact (hoff.clearFlags (fun s e => (s.dom e).entry.parent == some d) domIds).demandChanged
  · next hs => exact (hattempts (h.enterQueued (h.childrenDown_of_not_on (by simp [hs])))).demandChanged
  · exact hattempts h

/-- A domain that is not OFF keeps its place in the tree when its entry is written (R17). -/
theorem PowerHeld.write {s : State} (h : PowerHeld s) {d : DomId} {e : DomainEntry} (hr : s.treeRefuses d e = false)
    (hc : (s.dom d).state = .off ∨ changesTree (s.dom d).entry e = false) (hp : ∀ p, e.parent = some p → p < d) :
    PowerHeld (s.updDom d (fun x => { x with entry := { e with rampTimeout := clampRamp e.rampTimeout } })) := by
  have htree := h.tree.write hr hp (fun x => { x with entry := { e with rampTimeout := clampRamp e.rampTimeout } }) fun _ => ⟨rfl, rfl⟩
  generalize hf : (fun x : Domain => { x with entry := { e with rampTimeout := clampRamp e.rampTimeout } }) = f at htree ⊢
  have hstate : ∀ c, ((s.updDom d f).dom c).state = (s.dom c).state := by
    intro c
    rw [dom_updDom]
    split
    · next hcd => rw [hcd, ← hf]
    · rfl
  have hparent : ∀ c, (s.dom c).state ≠ .off → ((s.updDom d f).dom c).entry.parent = (s.dom c).entry.parent := by
    intro c hoff
    rw [dom_updDom]
    split
    · next hcd =>
      subst hcd
      have hsame := hc.resolve_left hoff
      simp only [changesTree, Bool.or_eq_false_iff, bne_eq_false_iff_eq] at hsame
      rw [← hf]
      exact hsame.2.symm
    · rfl
  have hup : ∀ c p, ((s.updDom d f).dom c).entry.parent = some p → (s.dom c).state.enOn = true → (s.dom c).entry.parent = some p := by
    intro c p hp' hen
    rw [← hparent c (fun hoff => by rw [hoff] at hen; cases hen)]
    exact hp'
  refine ⟨htree, fun c p hp' hen => ?_, fun hx => ?_, h.reply, fun hx c hp' => ?_⟩
  · rw [hstate] at hen ⊢
    exact h.parents c p (hup c p hp' hen) hen
  · rw [hstate]
    exact h.up hx
  · rw [hstate]
    refine Bool.eq_false_iff.2 fun hen => ?_
    have hdown := h.alone hx c (hup c 0 hp' hen)
    rw [hen] at hdown
    cases hdown

/-! ### Software reset (R15, R33) -/

/-- One domain's part of the switch-off on software reset. -/
def State.resetStep (s : State) (d : DomId) : State :=
  if (s.dom d).state = .latched then s.enterOff d else if d = 0 then s else s.forceOff d

theorem resetStep_alike (s : State) (d : DomId) : Alike (s.resetStep d) s := by
  unfold State.resetStep
  split
  · exact enterOff_alike s d
  · split
    · exact Alike.refl s
    · exact forceOff_alike s d

theorem resetStep_state (s : State) (d e : DomId) : ((s.resetStep d).dom e).state =
    if e = d then (if d = 0 ∧ (s.dom d).state ≠ .latched then (s.dom d).state else .off) else (s.dom e).state := by
  unfold State.resetStep
  split
  · next hs => simp [enterOff_state, hs]
  · next hs =>
    split
    · next h0 =>
      split
      · next he => simp [he, h0 ▸ hs, h0]
      · rfl
    · next h0 => simp [forceOff_state, hs, h0]

theorem PowerHeld.resetStep {s : State} (h : PowerHeld s) {d : DomId} (hc : s.childrenDown d) : PowerHeld (s.resetStep d) := by
  unfold State.resetStep
  split
  · exact h.enterOff hc
  · split
    · exact h
    · exact h.forceOff hc

theorem resetSteps_power {l : List DomId} (hl : Below l) {s : State} (h : PowerHeld s)
    (hdone : ∀ c, c ∉ l → c ≠ 0 → (s.dom c).state.enOn = false) : PowerHeld (l.foldl State.resetStep s) := by
  induction l generalizing s with
  | nil => exact h
  | cons d l ih =>
    have hdown : s.childrenDown d := by
      intro c hp
      have hlt := (h.tree c d hp).1
      exact hdone c (hl.child_not_mem h.tree hp) (fun h0 => by rw [h0] at hlt; exact absurd hlt (Fin.not_lt_zero d))
    refine ih hl.tail (h.resetStep hdown) fun c hc h0 => ?_
    rw [resetStep_state]
    split
    · next hcd =>
      subst hcd
      simp [h0, DomState.enOn]
    · next hcd => exact hdone c (fun hx => (List.mem_cons.1 hx).elim hcd hc) h0

theorem forceReset_power {s : State} (h : PowerHeld s) : PowerHeld s.forceReset :=
  foldl_closed _ (fun _ d hu => hu.updDom d (fun x => { x with depReported := false }) fun _ => ⟨rfl, rfl⟩) _
    (resetSteps_power below_domIdsDown h fun c hc => absurd (mem_domIdsDown c) hc)

theorem resetEvents_hold (s : State) : s.resetEvents.hold = s.hold := by
  unfold State.resetEvents
  rw [record_hold]
  rfl

theorem softwareReset_power {s : State} (h : PowerHeld s) : PowerHeld s.softwareReset :=
  PowerHeld.closed.softwareReset (fun _ h => forceReset_power h) (fun _ h => h.same rfl rfl)
    (fun s h => h.same (resetEvents_power s) (resetEvents_hold s)) h

/-! ### The end of a reply and power-on -/

/-- D0's held switch-off is released, or carried out with no child of D0 powered (R35). -/
theorem releaseD0_power {s : State} (h : PowerHeld s) : PowerHeld s.clearReply.releaseD0 := by
  have hfree : PowerHeld { s.clearReply with dmc.d0Held := none } :=
    ⟨h.tree, h.parents, fun hx => absurd rfl hx, fun hx => absurd rfl hx, fun hx => absurd rfl hx⟩
  unfold State.releaseD0
  dsimp only
  split
  · next hs =>
    have hheld : s.dmc.d0Held ≠ none := by
      intro hx
      have hnone : s.clearReply.dmc.d0Held = none := hx
      simp [State.heldStands, hnone] at hs
    exact (hfree.enterOff (h.alone hheld)).demandChanged
  · exact hfree

theorem replyEnd_power {s : State} (h : PowerHeld s) :
    PowerHeld (if s.lnk.resetDue then s.softwareReset else s).clearReply.releaseD0.pulseAfterRead := by
  have hreset : PowerHeld (if s.lnk.resetDue then s.softwareReset else s) := by
    split
    · exact softwareReset_power h
    · exact h
  have hreleased := releaseD0_power hreset
  generalize (if s.lnk.resetDue then s.softwareReset else s).clearReply.releaseD0 = v at hreleased
  obtain ⟨q, heq⟩ := pulseAfterRead_eq v
  rw [heq]
  exact hreleased.same rfl rfl

theorem powerOn_power (s : State) : PowerHeld s.powerOn := by
  have hstate : ∀ d, (s.powerOn.dom d).state = .off := fun d => by rw [powerOn_dom]; rfl
  refine ⟨powerOn_tree s, fun c p _ hc => ?_, fun hx => absurd rfl hx, fun hx => absurd rfl hx, fun hx => absurd rfl hx⟩
  rw [hstate] at hc
  cases hc

end Sys2Proof.Machine
end

section
/-! Demand and the domains' states agree after every step (R20, R21, R24, R28, R29, R32, R35, R43). Settles O8. -/

namespace Sys2Proof.Machine

/-! ### What demand is read from -/

/-- The sets of the sessions that are not SUSPENDED. -/
def State.activeSets (s : State) : List DomSet := (s.ssc.sessions.filter Session.active).map Session.set

/-- Two states agree in what demand is read from, in the domains' states and in the entries. -/
structure SameDemand (t s : State) : Prop where
  held : t.held = s.held
  mode : t.mdc.mode = s.mdc.mode
  holds : t.mdc.driveHold = s.mdc.driveHold ∧ t.mdc.handoverHold = s.mdc.handoverHold ∧ t.mdc.alwaysHold = s.mdc.alwaysHold
  dom : ∀ d, (t.dom d).state = (s.dom d).state ∧ (t.dom d).entry = (s.dom d).entry
  sets : t.activeSets = s.activeSets

theorem sessionSets_eq (s : State) : s.sessionSets = s.activeSets.map s.enabledOf := by
  unfold State.sessionSets State.activeSets
  rw [List.map_map]
  rfl

theorem SameDemand.of_alike {s t : State} (h : Alike t s) (hs : ∀ d, (t.dom d).state = (s.dom d).state) : SameDemand t s :=
  ⟨h.held, h.mode, h.holds, fun d => ⟨hs d, h.entry d⟩, by rw [State.activeSets, h.sessions]; rfl⟩

theorem SameDemand.trans {s t u : State} (h : SameDemand u t) (h' : SameDemand t s) : SameDemand u s :=
  ⟨h.held.trans h'.held, h.mode.trans h'.mode, ⟨h.holds.1.trans h'.holds.1, h.holds.2.1.trans h'.holds.2.1, h.holds.2.2.trans h'.holds.2.2⟩,
    fun d => ⟨(h.dom d).1.trans (h'.dom d).1, (h.dom d).2.trans (h'.dom d).2⟩, h.sets.trans h'.sets⟩

section
variable {s t : State} (h : SameDemand t s)
include h

theorem SameDemand.sessionSets : t.sessionSets = s.sessionSets := by
  rw [sessionSets_eq, sessionSets_eq, h.sets]
  exact List.map_congr_left fun S _ => enabledOf_congr (fun d => (h.dom d).2) S

theorem SameDemand.sessionDemands (d : DomId) : t.sessionDemands d = s.sessionDemands d := by
  unfold State.sessionDemands
  simp only [h.sessionSets, withAncestors_congr fun d => (h.dom d).2]

theorem SameDemand.demand (d : DomId) : t.demand d = s.demand d := by
  obtain ⟨hdrive, hhandover, halways⟩ := h.holds
  have hentry := fun d => (h.dom d).2
  have hstate := fun d => (h.dom d).1
  unfold State.demand State.directHolders State.childrenUp
  rw [h.sessionSets]
  simp only [State.holdSets, State.driveSet, State.handoverSet, State.alwaysSet, hdrive, hhandover, halways, hentry, hstate]

theorem SameDemand.heldStands (hh : t.dmc.d0Held = s.dmc.d0Held) : t.heldStands = s.heldStands := by
  unfold State.heldStands
  rw [hh, h.demand, h.mode, h.sessionDemands]

theorem Calm.same {d : DomId} (hh : t.dmc.d0Held = s.dmc.d0Held) (hc : Calm s d) : Calm t d := by
  have hplaced : t.holdsPlaced = s.holdsPlaced := by
    unfold State.holdsPlaced
    rw [h.mode, h.holds.2.2]
  obtain ⟨hoff, hwaiting, hon, hholdoff, hcutoff⟩ := hc
  constructor <;> simp only [h.held, h.mode, (h.dom d).1, h.demand, hplaced, h.sessionDemands, hh] <;> assumption

end

/-! ### The invariant between events -/

/-- Every domain is calm and the grants are made. -/
structure DemandHeld (s : State) : Prop where
  power : PowerHeld s
  calm : AllCalm s
  granted : s.granted

theorem DemandHeld.same {s t : State} (h : DemandHeld s) (hs : SameDemand t s) (hh : t.hold = s.hold) (hr : t.rmp = s.rmp) :
    DemandHeld t := by
  have hheld : t.dmc.d0Held = s.dmc.d0Held := congrArg Prod.fst hh
  refine ⟨h.power.congr hs.dom hh, ⟨fun d => (h.calm.calm d).same hs hheld, fun hx => ?_⟩, fun hslot d hd => ?_⟩
  · rw [hs.heldStands hheld]
    exact h.calm.stands (hheld ▸ hx)
  · rw [hr] at hslot hd
    obtain ⟨p, hp, hon⟩ := h.granted hslot d hd
    exact ⟨p, by rw [(hs.dom d).2]; exact hp, by rw [(hs.dom p).1]; exact hon⟩

/-- What leaves the Domain Table, the Ramp Arbiter and the hold alone, with the session sets, the mode and the holds. -/
theorem DemandHeld.power_same {s t : State} (h : DemandHeld s) (hp : t.power = s.power) (hb : t.base = s.base)
    (hs : t.activeSets = s.activeSets) (hh : t.hold = s.hold) : DemandHeld t :=
  h.same ⟨base_held hb, base_mode hb, ⟨base_driveHold hb, base_handoverHold hb, base_alwaysHold hb⟩,
    fun d => by rw [power_dom hp]; exact ⟨rfl, rfl⟩, hs⟩ hh (power_rmp hp)

theorem DemandHeld.refreshAttn {s : State} (h : DemandHeld s) : DemandHeld s.refreshAttn := by
  refine h.power_same (refreshAttn_power s) (refreshAttn_base s) ?_ ?_
  · rw [State.activeSets, (refreshAttn_ssc s).1]
    rfl
  · obtain ⟨a, p, heq⟩ := refreshAttn_eq s
    rw [heq]
    rfl

/-! ### The end of an event -/

theorem enqueueArrivals_ready {s : State} (hr : RampHeld s) (hp : PowerHeld s) (hc : AllCalm s) (hh : s.held = false) :
    ReadyToGrant s.enqueueArrivals :=
  ⟨enqueueArrivals_rampSound hr, hp.congr (fun _ => ⟨rfl, rfl⟩) rfl, ⟨fun d => (hc.calm d).congr ⟨rfl, rfl, ⟨rfl, rfl, rfl⟩, fun _ => rfl, rfl⟩ rfl rfl (.inr rfl), hc.stands⟩, hh⟩

theorem activeSets_map {f : Session → Session} (hf : ∀ x, (f x).active = x.active ∧ (f x).set = x.set) (l : List Session) :
    ((l.map f).filter Session.active).map Session.set = (l.filter Session.active).map Session.set := by
  induction l with
  | nil => rfl
  | cons x l ih =>
    obtain ⟨hactive, hset⟩ := hf x
    rw [List.map_cons, List.filter_cons, List.filter_cons, hactive]
    split
    · rw [List.map_cons, List.map_cons, ih, hset]
    · exact ih

theorem activeSets_refreshSessions (s : State) : s.refreshSessions.activeSets = s.activeSets :=
  activeSets_map (fun x => ⟨stateOf_active s x, rfl⟩) s.ssc.sessions

theorem recordBlocked_hold (s : State) : s.recordBlocked.hold = s.hold := by
  unfold State.recordBlocked
  dsimp only
  rw [foldl_keeps State.hold _ fun u d => by
    split
    · exact record_hold ..
    · rfl]
  rfl

theorem recordBlocked_ssc (s : State) : s.recordBlocked.ssc = s.ssc := (Domestic.sameSessions s.ssc).recordBlocked rfl

theorem refreshOwners_same_dom (s : State) : SameDemand s.refreshOwners s := by
  refine .of_alike (alike_of_deep (refreshOwners_deep s) ?_) (refreshOwners_state s)
  obtain ⟨v, heq⟩ := refreshOwners_same s
  rw [heq]

theorem refreshOwners_hold (s : State) : s.refreshOwners.hold = s.hold := by
  unfold State.refreshOwners
  exact foldl_keeps State.hold (fun t d => t.updDom d (fun x => { x with owner := s.ownerOf d })) (fun u d => rfl) _ s

theorem endEvent_demandHeld {s : State} (h : DemandHeld s) : DemandHeld s.endEvent :=
  h.same ⟨rfl, rfl, ⟨rfl, rfl, rfl⟩, fun _ => ⟨rfl, rfl⟩, rfl⟩ rfl rfl

theorem closing_demandHeld {s : State} (h : DemandHeld s) :
    DemandHeld s.recordBlocked.refreshSessions.refreshOwners.refreshSub.refreshAttn.endEvent := by
  have hblocked : DemandHeld s.recordBlocked.refreshSessions := by
    refine h.power_same (recordBlocked_power s) (deep_base ((refreshSessions_deep _).trans (recordBlocked_deep s))) ?_ (recordBlocked_hold s)
    rw [activeSets_refreshSessions, State.activeSets, recordBlocked_ssc]
    rfl
  generalize s.recordBlocked.refreshSessions = u at hblocked
  have howners : DemandHeld u.refreshOwners := hblocked.same (refreshOwners_same_dom u) (refreshOwners_hold u) (refreshOwners_rmp u)
  generalize u.refreshOwners = v at howners
  have hsub : DemandHeld v.refreshSub := by
    refine howners.power_same (refreshSub_power v) (refreshSub_base v) ?_ (refreshSub_hold v)
    rw [State.activeSets, refreshSub_ssc]
    rfl
  exact endEvent_demandHeld hsub.refreshAttn

/-- What holds throughout an event while the device is not held in reset. -/
def Powering (s : State) : Prop := RampHeld s ∧ PowerHeld s ∧ s.held = false

theorem heldFalse_closed : Closed (fun s => s.held = false) where
  settle s h := (settle_alike s).held.trans h
  record _ _ _ _ _ _ h := (base_held (record_base ..)).trans h
  refreshSub s h := (refreshSub_alike s).held.trans h
  mdc _ _ h := h
  line _ _ _ h := h
  apq _ _ h := h
  session _ _ _ _ h := h
  suspended _ _ _ _ h := h
  removed _ _ h := h
  takeId _ h := h
  created _ _ _ _ _ _ _ _ _ _ _ _ _ h := h
  charged _ _ _ h := h
  chm _ _ h := h
  btm _ _ h := h
  advance s e d _ h := (base_held (advance_base s e d)).trans h
  setPending _ _ _ h := h
  noSched _ h := h
  clock _ _ _ h := h
  resume _ _ h := h
  forceCutoff s h := (forceCutoff_alike s).held.trans h

theorem Powering.closed : Closed Powering := RampHeld.closed.and (PowerHeld.closed.and heldFalse_closed)

theorem finish_demandHeld {s : State} (h : Powering s) : DemandHeld s.finish := by
  obtain ⟨hramp, hpower, hheld⟩ := Powering.closed.resumeNow h
  unfold State.finish
  generalize s.resumeNow = u at hramp hpower hheld
  have hready := enqueueArrivals_ready (RampHeld.closed.settle u hramp) (settle_power hpower) (settle_calm hpower hheld)
    ((settle_alike u).held.trans hheld)
  obtain ⟨hgrants, hgranted⟩ := grants_granted hready (waiting_le _)
  exact closing_demandHeld ⟨hgrants.power, hgrants.calm, hgranted⟩

/-! ### What does not end an event -/

section
variable {s : State} (h : DemandHeld s)
include h

/-- A reply begins: no switch-off is held before it, and one that is held asks for a reply only. -/
theorem DemandHeld.replying {l : Lnk} (hl : l.reply.isSome = true) : DemandHeld { s with lnk := l } := by
  obtain ⟨⟨htree, hparents, hup, -, halone⟩, ⟨hcalm, hstands⟩, hgranted⟩ := h
  exact ⟨⟨htree, hparents, hup, fun _ => hl, halone⟩, ⟨fun d => (hcalm d).congr ⟨rfl, rfl, ⟨rfl, rfl, rfl⟩, fun _ => rfl, rfl⟩ rfl rfl (.inr rfl),
    hstands⟩, hgranted⟩

theorem DemandHeld.lapse (n : Nat) : DemandHeld (s.lapse n) := by
  have hmdc : (s.lapse n).mdc.mode = s.mdc.mode ∧ (s.lapse n).mdc.driveHold = s.mdc.driveHold ∧
      (s.lapse n).mdc.handoverHold = s.mdc.handoverHold ∧ (s.lapse n).mdc.alwaysHold = s.mdc.alwaysHold := by
    unfold State.lapse
    (repeat' split) <;> exact ⟨rfl, rfl, rfl, rfl⟩
  have hheld : (s.lapse n).dmc.d0Held = s.dmc.d0Held := by
    unfold State.lapse
    (repeat' split) <;> rfl
  have hsets : (s.lapse n).activeSets = s.activeSets := by
    unfold State.lapse
    (repeat' split)
    · rfl
    · rfl
    · refine activeSets_map (fun x => ?_) s.ssc.sessions
      unfold Session.lapse
      split <;> exact ⟨rfl, rfl⟩
  obtain ⟨hmode, hholds⟩ := hmdc
  refine h.same ⟨lapse_held s n, hmode, hholds, fun d => ?_, hsets⟩ (Prod.ext hheld (lapse_reply s n)) (lapse_rmp s n)
  rcases lapse_dom s n d with heq | heq <;> rw [heq]
  · exact ⟨rfl, rfl⟩
  · exact ⟨rfl, rfl⟩

theorem DemandHeld.updDom (d : DomId) (f : Domain → Domain) (hf : ∀ x, (f x).state = x.state ∧ (f x).entry = x.entry) :
    DemandHeld (s.updDom d f) := by
  refine h.same ⟨rfl, rfl, ⟨rfl, rfl, rfl⟩, fun e => ?_, rfl⟩ rfl rfl
  rw [dom_updDom]
  split
  · next he =>
    subst he
    exact hf _
  · exact ⟨rfl, rfl⟩

theorem DemandHeld.extend (id n c : Nat) (ls : List LineId) (ms : Nat) :
    DemandHeld ((s.updSession id (fun x => x.extended n c)).lengthenWindows ls ms) := by
  obtain ⟨a, heq⟩ := lengthenWindows_same (s.updSession id (fun x => x.extended n c)) ls ms
  rw [heq]
  refine h.same ⟨rfl, rfl, ⟨rfl, rfl, rfl⟩, fun _ => ⟨rfl, rfl⟩, activeSets_map (fun x => ?_) s.ssc.sessions⟩ rfl rfl
  split <;> exact ⟨rfl, rfl⟩

theorem DemandHeld.takeNotice (e : FrameError) : DemandHeld (s.takeNotice e) := by
  have hanswered : DemandHeld (s.noticeAnswered e) := h.replying rfl
  rw [takeNotice_eq]
  generalize s.noticeAnswered e = u at hanswered
  split
  · obtain ⟨q, w, heq⟩ := faultRaised_eq u e
    rw [heq]
    have hraised : DemandHeld { u with evq := q, work := w, lnk.linkFault := true } :=
      hanswered.same ⟨rfl, rfl, ⟨rfl, rfl, rfl⟩, fun _ => ⟨rfl, rfl⟩, rfl⟩ rfl rfl
    exact endEvent_demandHeld hraised.refreshAttn
  · exact hanswered

/-- A change that touches neither demand nor power. -/
theorem DemandHeld.quiet {t : State} (hd : t.held = s.held ∧ t.dmc = s.dmc ∧ t.rmp = s.rmp ∧ t.ssc.sessions = s.ssc.sessions)
    (hm : t.mdc.mode = s.mdc.mode ∧ t.mdc.driveHold = s.mdc.driveHold ∧ t.mdc.handoverHold = s.mdc.handoverHold ∧
      t.mdc.alwaysHold = s.mdc.alwaysHold) (hl : t.lnk.reply = s.lnk.reply) : DemandHeld t := by
  obtain ⟨hheld, hdmc, hrmp, hsessions⟩ := hd
  obtain ⟨hmode, hholds⟩ := hm
  refine h.same ⟨hheld, hmode, hholds, fun d => ?_, ?_⟩ (Prod.ext (congrArg Dmc.d0Held hdmc) hl) hrmp
  · have hdom : t.dom d = s.dom d := by rw [State.dom, hdmc]; rfl
    rw [hdom]
    exact ⟨rfl, rfl⟩
  · rw [State.activeSets, hsessions]
    rfl

end

/-- The same where ATTN follows. -/
theorem DemandHeld.quietAttn {s t : State} (h : DemandHeld s)
    (hd : t.held = s.held ∧ t.dmc = s.dmc ∧ t.rmp = s.rmp ∧ t.ssc.sessions = s.ssc.sessions)
    (hm : t.mdc.mode = s.mdc.mode ∧ t.mdc.driveHold = s.mdc.driveHold ∧ t.mdc.handoverHold = s.mdc.handoverHold ∧
      t.mdc.alwaysHold = s.mdc.alwaysHold) (hl : t.lnk.reply = s.lnk.reply) : DemandHeld t.refreshAttn :=
  (h.quiet hd hm hl).refreshAttn

/-- Both halves of O8, with the device not held in reset. -/
def Agreeing (s : State) : Prop := RampSound s ∧ DemandHeld s ∧ s.held = false

theorem Agreeing.powering {s : State} (h : Agreeing s) : Powering s := ⟨h.1.held, h.2.1.power, h.2.2⟩

theorem finish_agreeing {s : State} (h : Powering s) : Agreeing s.finish :=
  ⟨finish_rampSound h.1, finish_demandHeld h, (base_held (finish_base s)).trans h.2.2⟩

theorem Agreeing.requests : Requests Agreeing Powering where
  weak _ h := h.powering
  closed := Powering.closed
  finish _ h := finish_agreeing h
  adm s a h := ⟨RampSound.requests.adm s a h.1, h.2.1.quiet ⟨rfl, rfl, rfl, rfl⟩ ⟨rfl, rfl, rfl, rfl⟩ rfl, h.2.2⟩
  eventsRead s k b h := ⟨RampSound.requests.eventsRead s k b h.1,
    h.2.1.quietAttn ⟨rfl, rfl, rfl, rfl⟩ ⟨rfl, rfl, rfl, rfl⟩ rfl, (base_held (refreshAttn_base _)).trans h.2.2⟩
  faultClear s h := ⟨RampSound.requests.faultClear s h.1,
    h.2.1.quietAttn ⟨rfl, rfl, rfl, rfl⟩ ⟨rfl, rfl, rfl, rfl⟩ rfl, (base_held (refreshAttn_base _)).trans h.2.2⟩
  linkSet s n m p t hn ht h := ⟨RampSound.requests.linkSet s n m p t hn ht h.1,
    h.2.1.quietAttn ⟨rfl, rfl, rfl, rfl⟩ ⟨rfl, rfl, rfl, rfl⟩ rfl, (base_held (refreshAttn_base _)).trans h.2.2⟩
  lock s h := ⟨RampSound.requests.lock s h.1, h.2.1.quiet ⟨rfl, rfl, rfl, rfl⟩ ⟨rfl, rfl, rfl, rfl⟩ rfl, h.2.2⟩
  arm s h := ⟨RampSound.requests.arm s h.1, h.2.1.quiet ⟨rfl, rfl, rfl, rfl⟩ ⟨rfl, rfl, rfl, rfl⟩ rfl, h.2.2⟩
  entry s d e ht hc hp h := ⟨RampSound.requests.entry s d e ht hc hp h.1, h.2.1.power.write ht hc hp, h.2.2⟩
  clearFault s d h := ⟨clearFault_rampHeld d h.1.held, h.2.1.power.clearFault d, (base_held (deep_base (clearFault_deep s d))).trans h.2.2⟩
  unmute s l h := ⟨RampSound.requests.unmute s l h.1, h.2.1.quiet ⟨rfl, rfl, rfl, rfl⟩ ⟨rfl, rfl, rfl, rfl⟩ rfl, h.2.2⟩
  tierSet s _ _ _ _ _ _ _ _ _ _ _ _ _ _ _ _ h := ⟨h.1.same rfl, h.2.1.quiet ⟨rfl, rfl, rfl, rfl⟩ ⟨rfl, rfl, rfl, rfl⟩ rfl, h.2.2⟩
  meterSet s _ _ _ _ h := ⟨h.1.same rfl, h.2.1.quiet ⟨rfl, rfl, rfl, rfl⟩ ⟨rfl, rfl, rfl, rfl⟩ rfl, h.2.2⟩
  schedAdd s _ _ _ _ h := ⟨h.1.same rfl, h.2.1.quiet ⟨rfl, rfl, rfl, rfl⟩ ⟨rfl, rfl, rfl, rfl⟩ rfl, h.2.2⟩
  schedCancel s _ h := ⟨h.1.same rfl, h.2.1.quiet ⟨rfl, rfl, rfl, rfl⟩ ⟨rfl, rfl, rfl, rfl⟩ rfl, h.2.2⟩
  extend s id n c ls ms h := by
    refine ⟨RampSound.requests.extend s id n c ls ms h.1, h.2.1.extend id n c ls ms, ?_⟩
    obtain ⟨a, heq⟩ := lengthenWindows_same (s.updSession id (fun x => x.extended n c)) ls ms
    rw [heq]
    exact h.2.2
  reserve s _ _ h := ⟨h.1.same rfl, h.2.1.quiet ⟨rfl, rfl, rfl, rfl⟩ ⟨rfl, rfl, rfl, rfl⟩ rfl, h.2.2⟩
  clock s _ _ h := ⟨h.1.held.same rfl, h.2.1.power.same rfl rfl, h.2.2⟩
  taken s h := ⟨h.1.same rfl, h.2.1.replying rfl, h.2.2⟩
  takenReset s h := ⟨h.1.same rfl, h.2.1.replying rfl, h.2.2⟩
  replied s f n h := ⟨h.1.same rfl, h.2.1.replying rfl, h.2.2⟩

/-! ### Every step -/

theorem releaseD0_rampHeld {s : State} (h : RampHeld s) : RampHeld s.releaseD0 := by
  have hfree : RampHeld { s with dmc.d0Held := none } := h.same rfl
  unfold State.releaseD0
  dsimp only
  split
  · exact RampHeld.closed.demandChanged (off_rampHeld hfree 0)
  · exact hfree

theorem replyEnd_rampHeld {s : State} (h : RampHeld s) :
    RampHeld (if s.lnk.resetDue then s.softwareReset else s).clearReply.releaseD0.pulseAfterRead := by
  have hreset : RampHeld (if s.lnk.resetDue then s.softwareReset else s) := by
    split
    · exact softwareReset_rampHeld h
    · exact h
  generalize (if s.lnk.resetDue then s.softwareReset else s) = u at hreset
  have hcleared : RampHeld u.clearReply := hreset.same rfl
  exact RampSound.happenings.pulseAfterRead _ (releaseD0_rampHeld hcleared)

theorem replyEnd_held (s : State) :
    (if s.lnk.resetDue then s.softwareReset else s).clearReply.releaseD0.pulseAfterRead.held = s.held := by
  have hreset : (if s.lnk.resetDue then s.softwareReset else s).held = s.held := by
    split
    · exact softwareReset_held s
    · rfl
  generalize (if s.lnk.resetDue then s.softwareReset else s) = u at hreset
  rw [base_held (pulseAfterRead_base _), base_held (releaseD0_base _)]
  exact hreset

theorem holdInReset_demandHeld (s : State) : DemandHeld s.holdInReset := by
  have hstate : ∀ d, (s.holdInReset.dom d).state = .off := fun d => by
    show (s.powerOn.dom d).state = .off
    rw [powerOn_dom]
    rfl
  have hheld : s.holdInReset.held = true := rfl
  refine ⟨(powerOn_power s).same rfl rfl, ⟨fun d => ?_, fun hx => absurd rfl hx⟩, fun _ d hd => by cases hd⟩
  constructor <;> simp [hstate, hheld]

/-- The first half holds with the device held in reset too; the second needs the work of an event only while it is not. -/
theorem DemandHeld.kept : Kept (fun s => RampSound s ∧ DemandHeld s) where
  lapse s n h := ⟨RampSound.kept.lapse s n h.1, h.2.lapse n⟩
  request s type p rest hh _ _ h := by
    have hdequeued : Agreeing { s with lnk.inbound := rest } := ⟨h.1.same rfl, h.2.quiet ⟨rfl, rfl, rfl, rfl⟩ ⟨rfl, rfl, rfl, rfl⟩ rfl, hh⟩
    obtain ⟨hramp, hdemand, -⟩ := takeFrame_keeps Agreeing.requests type p hdequeued
    exact ⟨hramp, hdemand⟩
  notice s e rest hh hr hi h := by
    have hdequeued : DemandHeld { s with lnk.inbound := rest } := h.2.quiet ⟨rfl, rfl, rfl, rfl⟩ ⟨rfl, rfl, rfl, rfl⟩ rfl
    exact ⟨RampSound.kept.notice s e rest hh hr hi h.1, hdequeued.takeNotice e⟩
  arrive s e hl h := by
    refine ⟨RampSound.kept.arrive s e hl h.1, ?_⟩
    unfold State.arrive
    split <;> exact h.2.quiet ⟨rfl, rfl, rfl, rfl⟩ ⟨rfl, rfl, rfl, rfl⟩ rfl
  receiver s r ho hn h := ⟨RampSound.kept.receiver s r ho hn h.1, h.2.quiet ⟨rfl, rfl, rfl, rfl⟩ ⟨rfl, rfl, rfl, rfl⟩ rfl⟩
  replySent s hh hr h := ⟨RampSound.kept.replySent s hh hr h.1,
    finish_demandHeld ⟨replyEnd_rampHeld h.1.held, replyEnd_power h.2.power, (replyEnd_held s).trans hh⟩⟩
  ignPin s i hi h := ⟨RampSound.kept.ignPin s i hi h.1, h.2.quiet ⟨rfl, rfl, rfl, rfl⟩ ⟨rfl, rfl, rfl, rfl⟩ rfl⟩
  servicePin s i h := ⟨RampSound.kept.servicePin s i h.1, h.2.quiet ⟨rfl, rfl, rfl, rfl⟩ ⟨rfl, rfl, rfl, rfl⟩ rfl⟩
  pgPin s d b h := by
    refine ⟨RampSound.kept.pgPin s d b h.1, h.2.updDom d _ fun x => ?_⟩
    unfold Domain.pgChange
    (repeat' split) <;> exact ⟨rfl, rfl⟩
  wlPinHeld s l b hh h := ⟨RampSound.kept.wlPinHeld s l b hh h.1, h.2.quiet ⟨rfl, rfl, rfl, rfl⟩ ⟨rfl, rfl, rfl, rfl⟩ rfl⟩
  holdInReset s h := ⟨RampSound.kept.holdInReset s h.1, holdInReset_demandHeld s⟩
  leaveReset s hh h := ⟨RampSound.kept.leaveReset s hh h.1, finish_demandHeld ⟨(powerOn_rampSound s).held, powerOn_power s, rfl⟩⟩
  ignSettles s hh h := ⟨RampSound.kept.ignSettles s hh h.1, finish_demandHeld (Powering.closed.ignSettles ⟨h.1.held, h.2.power, hh⟩)⟩
  wlChange s l b hh h := ⟨RampSound.kept.wlChange s l b hh h.1, finish_demandHeld (Powering.closed.wlChange l b ⟨h.1.held, h.2.power, hh⟩)⟩
  wlSettles s l hh h := ⟨RampSound.kept.wlSettles s l hh h.1, finish_demandHeld (Powering.closed.wlSettles l ⟨h.1.held, h.2.power, hh⟩)⟩
  rampDone s d hh hs h := ⟨RampSound.kept.rampDone s d hh hs h.1, finish_demandHeld (Powering.closed.demandChanged
    ⟨rampDone_rampHeld h.1.held d hs, h.2.power.rampDone hs, (base_held (deep_base (rampDone_deep s d))).trans hh⟩)⟩
  pgLost s d hh hs h := by
    refine ⟨RampSound.kept.pgLost s d hh hs h.1, finish_demandHeld ?_⟩
    obtain ⟨hramp, hpower, hheld⟩ := Powering.closed.demandChanged
      (s := s.pgLost d) ⟨pgLost_rampHeld h.1.held d hs, h.2.power.pgLost d, (base_held (deep_base (pgLost_deep s d))).trans hh⟩
    split
    · exact ⟨softwareReset_rampHeld hramp, softwareReset_power hpower, (softwareReset_held _).trans hheld⟩
    · exact ⟨hramp, hpower, hheld⟩
  rampFailed s d hh hs h := ⟨RampSound.kept.rampFailed s d hh hs h.1, finish_demandHeld (Powering.closed.demandChanged
    ⟨failed_rampHeld h.1.held d 0 (by simp [hs]), h.2.power.rampFailed hs, (base_held (deep_base (rampFailed_deep s d))).trans hh⟩)⟩
  holdoff s d hh hs h := ⟨RampSound.kept.holdoff s d hh hs h.1, finish_demandHeld (Powering.closed.demandChanged
    ⟨powerOff_rampHeld h.1.held d _, h.2.power.powerOff _ (by rw [hs]; rfl) (h.2.power.childrenDown_of_not_on (by simp [hs])),
      (base_held (deep_base (powerOff_deep s d _))).trans hh⟩)⟩
  retry s d hh hs h := ⟨RampSound.kept.retry s d hh hs h.1, finish_demandHeld (Powering.closed.demandChanged
    ⟨enterQueued_rampHeld h.1.held d (by simp [hs]), h.2.power.enterQueued (h.2.power.childrenDown_of_not_on (by simp [hs])),
      (base_held (deep_base (enterQueued_deep s d))).trans hh⟩)⟩
  nuisanceWindow s l hh h := ⟨RampSound.kept.nuisanceWindow s l hh h.1,
    finish_demandHeld (Powering.closed.line s l _ ⟨h.1.held, h.2.power, hh⟩)⟩
  endMute s l hh h := ⟨RampSound.kept.endMute s l hh h.1, finish_demandHeld (Powering.closed.endMute l _ ⟨h.1.held, h.2.power, hh⟩)⟩
  windowExpired s l r hh hr h := ⟨RampSound.kept.windowExpired s l r hh hr h.1,
    finish_demandHeld (Powering.closed.windowExpired l r ⟨h.1.held, h.2.power, hh⟩)⟩
  handoverTimeout s hh ht h := ⟨RampSound.kept.handoverTimeout s hh ht h.1,
    finish_demandHeld (Powering.closed.enterParked _ ⟨h.1.held, h.2.power, hh⟩)⟩
  sample s i v p hh h := ⟨RampSound.kept.sample s i v p hh h.1, finish_demandHeld (Powering.closed.sampleWork i v p ⟨h.1.held, h.2.power, hh⟩)⟩
  closeSession s id hh h := ⟨RampSound.kept.closeSession s id hh h.1,
    finish_demandHeld (Powering.closed.closeSession id _ ⟨h.1.held, h.2.power, hh⟩)⟩
  secondRises s hh h := ⟨RampSound.kept.secondRises s hh h.1, finish_demandHeld (Powering.closed.secondRises ⟨h.1.held, h.2.power, hh⟩)⟩
  finish s hh h := ⟨RampSound.kept.finish s hh h.1, finish_demandHeld ⟨h.1.held, h.2.power, hh⟩⟩
  pulseEnd s hh h := ⟨RampSound.kept.pulseEnd s hh h.1, finish_demandHeld ⟨h.1.held.same rfl, h.2.power.same rfl rfl, hh⟩⟩

/-! ### From and to the invariant of the claims -/

theorem DemandSound.demandHeld {s : State} (ht : TreeSound s) (h : DemandSound s) : DemandHeld s := by
  obtain ⟨hparents, hoff, hwaiting, hon, hholdoff, hcutoff, hback, hcause, halone, hgranted⟩ := h
  refine ⟨⟨ht, fun c p hp hc => hparents c p hp hc, hback, fun hx => (hcause hx).2, halone⟩,
    ⟨fun d => ⟨fun hh hs => ?_, hwaiting d, hon d, hholdoff d, fun hm => hcutoff hm d⟩, fun hx => (hcause hx).1⟩, hgranted⟩
  refine (hoff hh d hs).imp_right fun ⟨hm, hd⟩ => ⟨?_, hd⟩
  simp [State.holdsPlaced, hm]

/-- Outside CUTOFF the holds are placed between events (R2). -/
theorem DemandHeld.demandSound {s : State} (hm : ModeSound s) (h : DemandHeld s) : DemandSound s := by
  obtain ⟨⟨-, hparents, hup, hreply, halone⟩, ⟨hcalm, hstands⟩, hgranted⟩ := h
  refine ⟨hparents, fun hh d hs => ?_, fun d => (hcalm d).waiting, fun d => (hcalm d).on, fun d => (hcalm d).holdoff,
    fun hx d => (hcalm d).cutoff hx, hup, fun hx => ⟨hstands hx, hreply hx⟩, halone, hgranted⟩
  refine ((hcalm d).off hh hs).imp_right fun ⟨hplaced, hd⟩ => ⟨?_, hd⟩
  by_contra hne
  simp [State.holdsPlaced, hne, hm.always.2 hne] at hplaced

/-- Settles O8: the first half is `RampSound.kept`; for the second the settling of one pass (R21) leaves every domain calm, the grants keep
them so (R43), and what the work of an event leaves of the power (`PowerHeld`) is all that it needs. -/
theorem rampsStaySound : Obligations.RampsStaySound := by
  intro s t hr hstep
  refine ⟨step_keeps RampSound.kept (fun _ _ h => h.same rfl) (fun _ _ h => h.same rfl) hr hstep, fun hm ht _ hd => ?_⟩
  have hboth := step_keeps DemandHeld.kept
    (fun _ _ h => ⟨h.1.same rfl, h.2.quiet ⟨rfl, rfl, rfl, rfl⟩ ⟨rfl, rfl, rfl, rfl⟩ rfl⟩)
    (fun _ _ h => ⟨h.1.same rfl, h.2.quiet ⟨rfl, rfl, rfl, rfl⟩ ⟨rfl, rfl, rfl, rfl⟩ rfl⟩) ⟨hr, hd.demandHeld ht⟩ hstep
  exact hboth.2.demandSound (modeStaysSound s t hm hstep)

end Sys2Proof.Machine
end

section
/-! The taking of requests by LNK (R174 to R177, R180 to R182): the order of its checks, and that each request has one reply. Settles O17 and
O18. -/

namespace Sys2Proof.Machine

/-! ### A request as LNK takes it -/

/-- Every request but the RESET_EXEC of an armed device is answered by its owner or refused on the way to it (R177). -/
theorem takeFrame_of_answer {s : State} {type : Byte} {p : List Byte} (h : ¬ (s.lnk.armed = true ∧ type = 0x7F ∧ p = [])) :
    s.takeFrame type p = (s.taken.answerFrame type p).1.sendReply (type + 0x80) (s.taken.answerFrame type p).2 := by
  have hr : ¬ (s.lnk.armed && type = 0x7F && p.isEmpty) = true := by
    simpa [and_assoc] using h
  exact if_neg hr

section
variable {c : Instr} {type : Byte} {p : List Byte} {s : State} (hc : requestOf c = some (type, p)) (hw : c.wellFormed = true)
  (h : Listening s)
include hc hw h

theorem exec_takeFrame : exec c s = .next (s.takeFrame type p) := by
  obtain ⟨hexec, hfits⟩ := exec_of_requestOf hc hw s
  rw [hexec, linkRequest_of_listening h type (by simpa [payloadFits] using hfits)]

variable (hr : ¬ (s.lnk.armed = true ∧ type = 0x7F ∧ p = []))
include hr

/-- What the owner makes of the state is all that changes beside what every reply changes. -/
theorem exec_of_answer {t : State} {r : Result} {w : List Byte}
    (ha : s.taken.answerFrame type p = (t, { result := r, payload := w })) :
    exec c s = .next (t.sendReply (type + 0x80) { result := r, payload := w }) := by
  rw [exec_takeFrame hc hw h, takeFrame_of_answer hr, ha]

theorem exec_of_changed {t : State} {r : Result} {w : List Byte}
    (ha : s.taken.answerFrame type p = (t.taken, { result := r, payload := w })) : exec c s = .next (t.answered type r w) :=
  exec_of_answer hc hw h hr ha

theorem exec_of_unchanged {r : Result} {w : List Byte} (ha : s.taken.answerFrame type p = (s.taken, { result := r, payload := w })) :
    exec c s = .next (s.answered type r w) :=
  exec_of_changed hc hw h hr ha

end

/-! ### The checks of R177 -/

/-- What the lock guards LINK_FAULT guards too. -/
theorem lockRefuses_of_not_writesTables (s : State) {type : Byte} (h : writesTables type = false) (p : List Byte) :
    s.lockRefuses type p = false := by
  have hne : ∀ n ∈ [0x28, 0x10, 0x18, 0x20], type.toNat ≠ n := by
    rintro n hn rfl
    simp only [writesTables, List.contains_eq_mem, decide_eq_false_iff_not] at h
    exact h (by revert hn; simp only [List.mem_cons]; tauto)
  unfold State.lockRefuses
  split
  · next h28 => exact absurd h28 (hne _ (by decide))
  · next h10 => exact absurd h10 (hne _ (by decide))
  · next h18 => exact absurd h18 (hne _ (by decide))
  · next h20 => exact absurd h20 (hne _ (by decide))
  · exact Bool.and_false _

/-- A request of its TYPE's length that writes no table reaches its owner (R177 step 4, R180). -/
theorem answerFrame_of_not_writesTables (s : State) {type : Byte} {p : List Byte} (hl : requestLength type = some p.length)
    (hw : writesTables type = false) : s.answerFrame type p = carryOut s type p :=
  answerFrame_eq_carryOut s hl (by rw [hw, Bool.and_false]) (lockRefuses_of_not_writesTables s hw p)

section
variable {s : State} {type : Byte} {p : List Byte}

theorem answerFrame_unknownType (hl : requestLength type = none) :
    s.answerFrame type p = (s, { result := .unknownType, payload := [] }) := by
  simp [State.answerFrame, hl, refusal]

theorem answerFrame_badLength {n : Nat} (hl : requestLength type = some n) (hp : p.length ≠ n) :
    s.answerFrame type p = (s, { result := .badLength, payload := refusedPayload type }) := by
  simp [State.answerFrame, hl, hp]

theorem answerFrame_linkFault (hl : requestLength type = some p.length) (hf : s.lnk.linkFault = true) (hw : writesTables type = true) :
    s.answerFrame type p = (s, { result := .linkFault, payload := refusedPayload type }) := by
  simp [State.answerFrame, hl, hf, hw]

theorem answerFrame_locked (hl : requestLength type = some p.length) (hf : ¬ (s.lnk.linkFault = true ∧ writesTables type = true))
    (hk : s.lockRefuses type p = true) : s.answerFrame type p = (s, { result := .locked, payload := refusedPayload type }) := by
  have hf' : (s.lnk.linkFault && writesTables type) = false := by simpa using hf
  simp [State.answerFrame, hl, hf', hk]

end

/-- Settles O17: each check of `State.answerFrame` is reached where those before it have passed, and refuses with the state as taken. -/
theorem linkChecksComeFirst : Obligations.LinkChecksComeFirst := by
  intro c type p s hc hw h hr
  refine ⟨fun hl => ?_, fun n hl hp => ?_, fun hl hf ht => ?_, fun hl hf hk => ?_⟩
  · exact exec_of_unchanged hc hw h hr (answerFrame_unknownType hl)
  · exact exec_of_unchanged hc hw h hr (answerFrame_badLength hl hp)
  · exact exec_of_unchanged hc hw h hr (answerFrame_linkFault hl hf ht)
  · exact exec_of_unchanged hc hw h hr (answerFrame_locked (s := s.taken) hl hf hk)

/-! ### One reply for each request -/

theorem takeFrame_replies {s : State} {type : Byte} {p : List Byte} (h : ¬ (s.lnk.armed = true ∧ type = 0x7F ∧ p = [])) :
    ∃ r payload, (s.takeFrame type p).replies type r payload := by
  rw [takeFrame_of_answer h]
  exact ⟨_, _, _, rfl⟩

theorem takeFrame_of_resetExec {s : State} (h : s.lnk.armed = true) : s.takeFrame 0x7F [] =
    State.sendReply { s with lnk.reply := some [], lnk.armed := false, lnk.resetDue := true } 0xFF { result := .accepted, payload := [] } := by
  have hr : (s.lnk.armed && (0x7F : Byte) = 0x7F && ([] : List Byte).isEmpty) = true := by
    rw [h]
    rfl
  exact if_pos hr

theorem takeFrame_accepted {s : State} (h : s.lnk.armed = true) : (s.takeFrame 0x7F []).replies 0x7F .accepted [] := by
  rw [takeFrame_of_resetExec h]
  exact ⟨_, rfl⟩

theorem takeNext_of_replying {s : State} (h : s.lnk.reply.isSome = true) : s.takeNext = s := if_pos h

theorem receive_of_dead {s : State} (h : s.linkLive = false) (e : Inbound) : s.receive e = s := by
  rw [State.receive, if_neg (by rw [h]; decide)]

/-- While a reply is sent an arrival waits for a place, or is discarded (R176). -/
theorem receive_of_replying {s : State} (hl : s.linkLive = true) (hr : s.lnk.reply.isSome = true) (e : Inbound) :
    s.receive e = s.arrive e := by
  rw [State.receive, if_pos hl]
  unfold State.arrive
  split <;> exact takeNext_of_replying hr

/-- Settles O18: the reply is formed by `State.sendReply` in every case; an arrival during a reply, or on a dead link, stops at the inbound
queue. -/
theorem requestsAreAnsweredInTurn : Obligations.RequestsAreAnsweredInTurn := by
  intro c type p s hc hw
  obtain ⟨hexec, hfits⟩ := exec_of_requestOf hc hw s
  have hreceive : s.held = false → exec c s = .next (s.receive (.frame type p)) := by
    intro hh
    have hlen : ¬ 48 < p.length := by simpa [payloadFits] using hfits
    rw [hexec, linkRequest, if_neg hlen, if_neg (by rw [hh]; decide)]
  refine ⟨fun h => ⟨_, exec_takeFrame hc hw h, takeFrame_replies, ?accepted⟩, ?dead, ?waits, ?overrun⟩
  case accepted =>
    rintro ⟨harmed, rfl, rfl⟩
    exact takeFrame_accepted harmed
  case dead =>
    intro hh hl
    rw [hreceive hh, receive_of_dead hl]
  case waits =>
    intro hh hl hr hlt
    rw [hreceive hh, receive_of_replying hl hr, State.arrive, if_pos hlt]
  case overrun =>
    intro hh hl hr hle
    rw [hreceive hh, receive_of_replying hl hr, State.arrive, if_neg (Nat.not_lt.2 hle)]

end Sys2Proof.Machine
end

section
/-! The link's own requests (R173, R178 to R181) and the requests that only report (R19, R51, R104, R184). Settles O22 and O25. -/

namespace Sys2Proof.Machine

/-! ### Enumerated fields and indices -/

theorem enumAt_eq_none {α : Type} {values : List α} {b : Byte} (h : values.length ≤ b.toNat) : enumAt values b = none :=
  List.getElem?_eq_none h

theorem toNat_byte {n : Nat} (h : n < 256) : (byte n).toNat = n := by
  rw [byte, BitVec.toNat_ofNat]
  exact Nat.mod_eq_of_lt h

theorem readDom_byte (d : DomId) : readDom (byte d.val) = some d := by
  have hd := toNat_byte (n := d.val) (by omega)
  simp [readDom, hd]

theorem readLine_byte (l : LineId) : readLine (byte l.val) = some l := by
  have hl := toNat_byte (n := l.val) (by omega)
  simp [readLine, hl]

theorem readDom_eq_none {b : Byte} (h : 11 < b.toNat) : readDom b = none := dif_neg (by omega)

theorem readLine_eq_none {b : Byte} (h : 15 < b.toNat) : readLine b = none := dif_neg (by omega)

/-! ### LINK_SET -/

/-- ATTN does not look at what the taking of a frame changes. -/
theorem refreshAttn_taken (s : State) : s.taken.refreshAttn = s.refreshAttn.taken := by
  have hite : ∀ (b : Bool) (u v : State), (if b then u.taken else v.taken) = (if b then u else v).taken := by
    intro b u v
    cases b <;> rfl
  have hstart : (if s.taken.evq.attnMode = .pulse && s.taken.work.condFirst = some true then s.taken.startPulse else s.taken) =
      (if s.evq.attnMode = .pulse && s.work.condFirst = some true then s.startPulse else s).taken := hite _ s.startPulse s
  unfold State.refreshAttn
  dsimp only
  rw [hstart]
  generalize (if s.evq.attnMode = .pulse && s.work.condFirst = some true then s.startPulse else s) = u
  have hend : (if (u.taken.dom 0).state != .on || u.taken.evq.attnMode = .level then { u.taken with evq.pulse := none } else u.taken) =
      (if (u.dom 0).state != .on || u.evq.attnMode = .level then { u with evq.pulse := none } else u).taken :=
    hite _ { u with evq.pulse := none } u
  rw [hend]
  rfl

/-- What a LINK_SET in range writes (R179). -/
def State.linkSettings (s : State) (n : Nat) (mode : AttnMode) (policy : Overflow) (timeout : Nat) : State :=
  { s with lnk.limit := n, evq.attnMode := mode, evq.policy := policy, mdc.handoverTimeout := timeout }

section
variable (s : State) {n a o h l : Byte}

theorem reqLinkSet_of_range {mode : AttnMode} {policy : Overflow} (hn : 1 ≤ n.toNat ∧ n.toNat ≤ 15)
    (ha : enumAt [AttnMode.level, .pulse] a = some mode) (ho : enumAt [Overflow.keepOldest, .keepNewest] o = some policy)
    (ht : 10 ≤ nat16 h l ∧ nat16 h l ≤ 600) :
    reqLinkSet s [n, a, o, h, l] = okay (s.linkSettings n.toNat mode policy (nat16 h l)).refreshAttn := by
  have hin : (1 ≤ n.toNat && n.toNat ≤ 15 && 10 ≤ nat16 h l && nat16 h l ≤ 600) = true := by
    simp [hn, ht]
  simp only [reqLinkSet, ha, ho]
  exact if_pos hin

theorem reqLinkSet_of_badField
    (hbad : n.toNat = 0 ∨ 15 < n.toNat ∨ 1 < a.toNat ∨ 1 < o.toNat ∨ nat16 h l < 10 ∨ 600 < nat16 h l) :
    reqLinkSet s [n, a, o, h, l] = refusal s .badField := by
  unfold reqLinkSet
  dsimp only
  split
  · next mode policy ha ho =>
    refine if_neg ?_
    have ha' : a.toNat < 2 := by
      by_contra hge
      rw [enumAt_eq_none (Nat.not_lt.1 hge)] at ha
      cases ha
    have ho' : o.toNat < 2 := by
      by_contra hge
      rw [enumAt_eq_none (Nat.not_lt.1 hge)] at ho
      cases ho
    simp only [Bool.and_eq_true, decide_eq_true_eq]
    omega
  · rfl

end

theorem answerFrame_linkSet {s : State} (hf : s.lnk.linkFault = false) (n a o h l : Byte) :
    s.answerFrame 0x60 [n, a, o, h, l] = reqLinkSet s [n, a, o, h, l] :=
  answerFrame_eq_carryOut s rfl (by rw [hf]; rfl) (by simp [State.lockRefuses])

theorem answerFrame_configLock {s : State} (hf : s.lnk.linkFault = false) : s.answerFrame 0x70 [] = okay { s with lnk.locked := true } :=
  answerFrame_eq_carryOut s rfl (by rw [hf]; rfl) (by simp [State.lockRefuses])

/-- No request but RESET_EXEC is taken as an armed device's RESET_EXEC. -/
theorem not_resetExec {s : State} {type : Byte} (p : List Byte) (h : type ≠ 0x7F) : ¬ (s.lnk.armed = true ∧ type = 0x7F ∧ p = []) :=
  fun hx => h hx.2.1

/-- Settles O22: one equation for each request and each of its outcomes. -/
theorem linkRequestsAreTaken : Obligations.LinkRequestsAreTaken := by
  intro s h
  refine ⟨?arm, ?unarmed, ?armed, ?set, ?badField, ?lock, ?clear⟩
  case arm =>
    have ha : s.taken.answerFrame 0x7E [] = okay { s.taken with lnk.armed := true } := answerFrame_of_not_writesTables _ rfl rfl
    exact exec_of_answer rfl rfl h (not_resetExec _ (by decide)) ha
  case unarmed =>
    intro harm
    have ha : s.taken.answerFrame 0x7F [] = refusal s.taken .wrongMode := answerFrame_of_not_writesTables _ rfl rfl
    exact exec_of_unchanged rfl rfl h (fun hx => absurd hx.1 (by rw [harm]; decide)) ha
  case armed =>
    intro harm
    rw [exec_takeFrame (c := .resetExec []) rfl rfl h, takeFrame_of_resetExec harm]
    rfl
  case set =>
    intro n a o hb lb mode policy hf hn1 hn15 ha ho ht10 ht600
    have ha' : enumAt [AttnMode.level, .pulse] a = some mode := by
      rw [ha]
      cases mode <;> rfl
    have ho' : enumAt [Overflow.keepOldest, .keepNewest] o = some policy := by
      rw [ho]
      cases policy <;> rfl
    have hreq := reqLinkSet_of_range s.taken ⟨hn1, hn15⟩ ha' ho' ⟨ht10, ht600⟩
    have hanswer := (answerFrame_linkSet (s := s.taken) hf n a o hb lb).trans hreq
    have htaken : (s.taken.linkSettings n.toNat mode policy (nat16 hb lb)).refreshAttn =
        (s.linkSettings n.toNat mode policy (nat16 hb lb)).refreshAttn.taken := refreshAttn_taken (s.linkSettings ..)
    rw [okay, htaken] at hanswer
    exact exec_of_changed (c := .linkSet [n, a, o, hb, lb]) rfl rfl h (not_resetExec _ (by decide)) hanswer
  case badField =>
    intro n a o hb lb hf hbad
    have hanswer := (answerFrame_linkSet (s := s.taken) hf n a o hb lb).trans (reqLinkSet_of_badField s.taken hbad)
    exact exec_of_unchanged (c := .linkSet [n, a, o, hb, lb]) rfl rfl h (not_resetExec _ (by decide)) hanswer
  case lock =>
    intro hf
    exact exec_of_changed (c := .configLock []) (t := { s with lnk.locked := true }) rfl rfl h (not_resetExec _ (by decide))
      (answerFrame_configLock (s := s.taken) hf)
  case clear =>
    have ha : s.taken.answerFrame 0x08 [] = okay { s.taken with lnk.linkFault := false }.refreshAttn :=
      answerFrame_of_not_writesTables _ rfl rfl
    have htaken : { s.taken with lnk.linkFault := false }.refreshAttn = ({ s with lnk.linkFault := false } : State).refreshAttn.taken :=
      refreshAttn_taken { s with lnk.linkFault := false }
    rw [okay, htaken] at ha
    exact exec_of_changed (c := .faultClear []) rfl rfl h (not_resetExec _ (by decide)) ha

/-! ### SESSION_LIST: as many records as fit (R104) -/

/-- The bytes that a reply carries for these session records. -/
def sessionBytesOf (xs : List Session) : Nat := (xs.flatMap sessionBytes).length

theorem sessionBytesOf_cons (x : Session) (rest : List Session) : sessionBytesOf (x :: rest) = (sessionBytes x).length + sessionBytesOf rest := by
  simp [sessionBytesOf]

theorem recordsFitting_le_length (room : Nat) (xs : List Session) : recordsFitting room xs ≤ xs.length := by
  fun_induction recordsFitting room xs with
  | case1 | case3 => exact Nat.zero_le _
  | case2 room x rest hfits ih =>
    rw [List.length_cons]
    omega

theorem sessionBytesOf_take_recordsFitting_le (room : Nat) (xs : List Session) : sessionBytesOf (xs.take (recordsFitting room xs)) ≤ room := by
  fun_induction recordsFitting room xs with
  | case1 | case3 => exact Nat.zero_le _
  | case2 room x rest hfits ih =>
    rw [Nat.add_comm, List.take_succ_cons, sessionBytesOf_cons]
    omega

theorem lt_sessionBytesOf_take_recordsFitting_succ (room : Nat) (xs : List Session) (h : recordsFitting room xs < xs.length) :
    room < sessionBytesOf (xs.take (recordsFitting room xs + 1)) := by
  fun_induction recordsFitting room xs with
  | case1 => exact absurd h (Nat.not_lt_zero _)
  | case2 room x rest hfits ih =>
    rw [List.length_cons] at h
    have hrest := ih (by omega)
    rw [Nat.add_comm 1, List.take_succ_cons, sessionBytesOf_cons]
    omega
  | case3 room x rest hfits =>
    rw [List.take_succ_cons, sessionBytesOf_cons]
    omega

/-- The payload of the reply with the first k of the records from place n on (R104). -/
def State.listPayload (s : State) (n k : Nat) : List Byte :=
  [byte s.ssc.sessions.length, byte k] ++ ((s.ssc.sessions.drop n).take k).flatMap sessionBytes

theorem reqSessionList_of_le (s : State) {b : Byte} (h : b.toNat ≤ 5) : reqSessionList s [b] =
    (s, { result := .ok, payload := s.listPayload b.toNat (recordsFitting 56 (s.ssc.sessions.drop b.toNat)) }) := by
  have hlen := List.length_take_of_le (recordsFitting_le_length 56 (s.ssc.sessions.drop b.toNat))
  rw [reqSessionList, if_pos h]
  dsimp only
  rw [hlen]
  rfl

theorem reqSessionList_of_gt (s : State) {b : Byte} (h : 5 < b.toNat) : reqSessionList s [b] = refusal s .badField :=
  if_neg (Nat.not_le.2 h)

/-! ### DOMAIN_GET and LINE_GET -/

theorem reqDomainGet_of_none (s : State) {b : Byte} (h : readDom b = none) : reqDomainGet s [b] = refusal s .badField := by
  rw [reqDomainGet, h]

theorem reqLineGet_of_none (s : State) {b : Byte} (h : readLine b = none) : reqLineGet s [b] = refusal s .badField := by
  rw [reqLineGet, h]

theorem reqDomainGet_byte (s : State) (d : DomId) : reqDomainGet s [byte d.val] = (s, { result := .ok, payload := s.domainPayload d }) := by
  rw [reqDomainGet, readDom_byte]

theorem reqLineGet_byte (s : State) (l : LineId) : reqLineGet s [byte l.val] = (s, { result := .ok, payload := s.linePayload l }) := by
  rw [reqLineGet, readLine_byte]

/-- Settles O25: each request's owner answers without a change, and no check of LNK stands in the way of any of them. -/
theorem reportsChangeNothing : Obligations.ReportsChangeNothing := by
  intro s h
  have report : ∀ {c : Instr} {type : Byte} {p w : List Byte} {r : Result}, requestOf c = some (type, p) → c.wellFormed = true →
      requestLength type = some p.length → writesTables type = false → type ≠ 0x7F →
      carryOut s.taken type p = (s.taken, { result := r, payload := w }) → exec c s = .next (s.answered type r w) :=
    fun hc hw hl ht hne hcarry => exec_of_unchanged hc hw h (not_resetExec _ hne) ((answerFrame_of_not_writesTables _ hl ht).trans hcarry)
  refine ⟨report rfl rfl rfl rfl (by decide) rfl, fun d => ?dom, fun l => ?line, fun b hb => ?noDom, fun b hb => ?noLine, fun b hb => ?above,
    fun b hb => ?list⟩
  case dom => exact report rfl rfl rfl rfl (by decide) (reqDomainGet_byte s.taken d)
  case line => exact report rfl rfl rfl rfl (by decide) (reqLineGet_byte s.taken l)
  case noDom => exact report rfl rfl rfl rfl (by decide) (reqDomainGet_of_none s.taken (readDom_eq_none hb))
  case noLine => exact report rfl rfl rfl rfl (by decide) (reqLineGet_of_none s.taken (readLine_eq_none hb))
  case above => exact report rfl rfl rfl rfl (by decide) (reqSessionList_of_gt s.taken hb)
  case list =>
    exact ⟨recordsFitting 56 (s.ssc.sessions.drop b.toNat), recordsFitting_le_length _ _, sessionBytesOf_take_recordsFitting_le _ _,
      lt_sessionBytesOf_take_recordsFitting_succ _ _, report rfl rfl rfl rfl (by decide) (reqSessionList_of_le s.taken hb)⟩

end Sys2Proof.Machine
end

section
/-! The receiver (R174, R175) and frame-error notices (R178, R172). Settles O15, O19 and O20. -/

namespace Sys2Proof.Machine

/-! ### One byte at LRX -/

theorem exec_lrxByte {s : State} (h : s.held = false) (b : Byte) : exec (.lrxByte b) s = .next (s.lrx b) :=
  if_neg (by rw [h]; decide)

section
variable {s : State}

theorem lrx_hunting (h : s.lnk.receiver = .hunting) (b : Byte) : s.lrx b = if b = 0xC3 then s.setReceiver .awaitLength else s := by
  simp only [State.lrx, h]

theorem lrx_awaitLength (h : s.lnk.receiver = .awaitLength) (b : Byte) :
    s.lrx b = if b.toNat ≤ 48 then s.setReceiver (.body [b]) else (s.setReceiver .draining).receive (.notice .length) := by
  simp only [State.lrx, h]

theorem lrx_body {kept : List Byte} (h : s.lnk.receiver = .body kept) (b : Byte) : s.lrx b = s.bodyByte (kept ++ [b]) := by
  simp only [State.lrx, h]

theorem setReceiver_same {r : Receiver} (h : s.lnk.receiver = r) : s.setReceiver r = { s with lnk.gap := 0 } := by
  rw [← h]
  rfl

/-- A byte that does not complete the frame is kept. -/
theorem bodyByte_of_short {len : Byte} {kept : List Byte} (h : kept.length + 1 ≠ len.toNat + 3) :
    s.bodyByte (len :: kept) = s.setReceiver (.body (len :: kept)) :=
  if_neg (by simpa using h)

theorem bodyByte_of_complete {len : Byte} {kept : List Byte} (h : kept.length + 1 = len.toNat + 3) :
    s.bodyByte (len :: kept) = (s.setReceiver .hunting).receive (completeFrame (len :: kept)) :=
  if_pos (by simpa using h)

end

/-! ### A frame byte by byte -/

theorem hears_cons {s : State} (h : s.held = false) (b : Byte) (bs : List Byte) : hears s (b :: bs) = hears (s.lrx b) bs := by
  exact congrArg (fun o => bs.foldl _ o) (exec_lrxByte h b)

/-- The bytes of a frame in progress are kept one after the other. -/
theorem hears_body {s : State} (h : s.held = false) {len : Byte} {rest bs : List Byte} (hlen : rest.length + bs.length + 1 < len.toNat + 3)
    (tail : List Byte) : hears (s.setReceiver (.body (len :: rest))) (bs ++ tail) = hears (s.setReceiver (.body (len :: (rest ++ bs)))) tail := by
  induction bs generalizing rest with
  | nil => rw [List.append_nil, List.nil_append]
  | cons b bs ih =>
    rw [List.length_cons] at hlen
    have hkept : (s.setReceiver (.body (len :: rest))).lrx b = s.setReceiver (.body (len :: (rest ++ [b]))) := by
      rw [lrx_body rfl, List.cons_append, bodyByte_of_short]
      · rfl
      · rw [List.length_append, List.length_singleton]
        omega
    rw [List.cons_append, hears_cons (s := s.setReceiver (.body (len :: rest))) h, hkept, ih]
    · rw [List.append_assoc, List.singleton_append]
    · rw [List.length_append, List.length_singleton]
      omega

/-- A frame of at most 48 payload bytes, whatever its last byte, is handed on when that byte has come. -/
theorem hears_frame {s : State} (h : s.held = false) (hr : s.lnk.receiver = .hunting) (type : Byte) {p : List Byte} (hp : p.length ≤ 48)
    (k : Byte) : hears s ([0xC3] ++ [byte p.length, type] ++ p ++ [k]) =
      .next ((s.setReceiver .hunting).receive (completeFrame (byte p.length :: type :: (p ++ [k])))) := by
  have hlen : (byte p.length).toNat = p.length := toNat_byte (by omega)
  have hstart : s.lrx 0xC3 = s.setReceiver .awaitLength := by
    rw [lrx_hunting hr]
    exact if_pos rfl
  have hlength : (s.setReceiver .awaitLength).lrx (byte p.length) = s.setReceiver (.body [byte p.length]) := by
    rw [lrx_awaitLength rfl, if_pos (by omega)]
    rfl
  have hbody : hears (s.setReceiver (.body [byte p.length])) ((type :: p) ++ [k]) =
      hears (s.setReceiver (.body (byte p.length :: type :: p))) [k] :=
    hears_body h (rest := []) (by simp [hlen]) [k]
  have hlast : (s.setReceiver (.body (byte p.length :: type :: p))).lrx k =
      (s.setReceiver .hunting).receive (completeFrame (byte p.length :: type :: (p ++ [k]))) := by
    rw [lrx_body rfl, List.cons_append, bodyByte_of_complete (by simp [hlen])]
    rfl
  calc hears s ([0xC3] ++ [byte p.length, type] ++ p ++ [k])
    _ = hears (s.lrx 0xC3) (byte p.length :: ((type :: p) ++ [k])) := hears_cons h _ _
    _ = hears (s.setReceiver (.body [byte p.length])) ((type :: p) ++ [k]) := by
      rw [hstart, hears_cons (s := s.setReceiver .awaitLength) h, hlength]
    _ = hears ((s.setReceiver (.body (byte p.length :: type :: p))).lrx k) [] := by
      rw [hbody, hears_cons (s := s.setReceiver (.body (byte p.length :: type :: p))) h]
    _ = _ := by rw [hlast]; rfl

/-- R174: the check byte decides between the frame and the notice. -/
theorem completeFrame_append (len type k : Byte) (p : List Byte) : completeFrame (len :: type :: (p ++ [k])) =
    if checkByte ([len, type] ++ p) = k then .frame type p else .notice .crc := by
  simp [completeFrame, List.getLastD_eq_getLast?]

/-- Settles O15, by what is handed on when the last byte of a frame has come. -/
theorem arrivingFramesAreChecked : Obligations.ArrivingFramesAreChecked := by
  intro type p s h hr hp
  refine ⟨?_, fun k hk => ?_⟩
  · have hframe := hears_frame h hr type hp (checkByte ([byte p.length, type] ++ p))
    rw [completeFrame_append, if_pos rfl] at hframe
    exact hframe
  · rw [hears_frame h hr type hp k, completeFrame_append, if_neg hk.symm]

/-! ### Gaps -/

theorem lapse_receiver (s : State) (n : Nat) : (s.lapse n).lnk.receiver = s.lnk.receiver := by
  unfold State.lapse
  (repeat' split) <;> rfl

theorem exec_gapTimeout {s : State} (h : s.held = false) (hr : s.lnk.receiver.inFrame = true) :
    exec .gapTimeout s = .next (s.lapse (3 - s.lnk.gap)).gapExpired := by
  have hleft : s.leftGap = some (3 - s.lnk.gap) := if_pos hr
  show execGapTimeout s = _
  rw [execGapTimeout, if_neg (by rw [h]; decide), hleft]

/-- Settles O19, by the receiver's state. -/
theorem receiverTakesBytesAndGaps : Obligations.ReceiverTakesBytesAndGaps := by
  intro b s h
  have hexec := exec_lrxByte h b
  refine ⟨fun hr => ?dead, fun hr hb => ?sync, fun hr hb => ?noSync, fun hr hb => ?length, fun hr hb => ?tooLong, fun len kept hr hk => ?body,
    fun hr => ?drain, fun hr => ?gapInFrame, fun hr => ?gapDraining⟩
  case dead =>
    rw [hexec]
    simp only [State.lrx, hr]
  case sync =>
    rw [hexec, lrx_hunting hr, if_pos hb]
    rfl
  case noSync => rw [hexec, lrx_hunting hr, if_neg hb]
  case length =>
    rw [hexec, lrx_awaitLength hr, if_pos hb]
    rfl
  case tooLong =>
    rw [hexec, lrx_awaitLength hr, if_neg (Nat.not_le.2 hb)]
    rfl
  case body =>
    have hshort : (kept ++ [b]).length + 1 ≠ len.toNat + 3 := by simpa using hk
    rw [hexec, lrx_body hr, List.cons_append, bodyByte_of_short hshort]
    rfl
  case drain =>
    rw [hexec, ← setReceiver_same hr]
    simp only [State.lrx, hr]
  case gapInFrame =>
    have hin : s.lnk.receiver.inFrame = true := by
      rcases hr with hr | ⟨kept, hr⟩ <;> rw [hr] <;> rfl
    rw [exec_gapTimeout h hin]
    have hsame := lapse_receiver s (3 - s.lnk.gap)
    rcases hr with hr | ⟨kept, hr⟩
    · rw [hr] at hsame
      simp only [State.gapExpired, hsame]
      rfl
    · rw [hr] at hsame
      simp only [State.gapExpired, hsame]
      rfl
  case gapDraining =>
    have hsame := lapse_receiver s (3 - s.lnk.gap)
    rw [exec_gapTimeout h (by rw [hr]; rfl)]
    rw [hr] at hsame
    simp only [State.gapExpired, hsame]
    rfl

/-! ### A frame-error notice (R178) -/

theorem receive_notice_of_listening {s : State} (h : Listening s) (e : FrameError) : s.receive (.notice e) = s.takeNotice e := by
  have harrive : s.arrive (.notice e) = { s with lnk.inbound := [.notice e] } := by
    simp [State.arrive, h.empty]
  have hidle : ¬ s.lnk.reply.isSome = true := by simp [h.silent]
  have hrest : ({ s with lnk.inbound := [] } : State) = s := by rw [← h.empty]
  calc s.receive (.notice e)
    _ = State.takeNext { s with lnk.inbound := [.notice e] } := by rw [State.receive, if_pos h.live, harrive]
    _ = State.takeNotice { s with lnk.inbound := [] } e := if_neg hidle
    _ = s.takeNotice e := by rw [hrest]

theorem exec_frameErrorNotice {s : State} (h : Listening s) (e : FrameError) : exec (.frameErrorNotice e) s = .next (s.takeNotice e) := by
  have hexec : exec (.frameErrorNotice e) s = .next (s.receive (.notice e)) := if_neg (by rw [h.awake]; decide)
  rw [hexec, receive_notice_of_listening h e]

/-! ### Records while a place is free (R166) -/

/-- The attention condition is noted once in an event (R172). -/
theorem noteAppend_of_first {s : State} (h : s.work.condFirst = none) : s.noteAppend = { s with work.condFirst := some s.attention } := by
  unfold State.noteAppend
  rw [h]

theorem record_of_room {s : State} (h : s.evq.events.length < 24) (k : RecordKind) (a b : Nat) (v : Option Nat) :
    s.record k a b v = { s with evq.events := s.evq.events ++ [s.recordOf k a b v], work := s.noteAppend.work } := by
  obtain ⟨w, heq⟩ := noteAppend_eq s
  unfold State.record
  dsimp only
  rw [if_pos h, heq]
  rfl

/-! ### LINK_FAULT and ATTN -/

section
variable (s : State) (e : FrameError)

/-- R178: LINK_FAULT is set when the counter reaches the limit. -/
def State.reachesLimit (s : State) : Prop := s.lnk.linkFault = false ∧ s.lnk.limit ≤ min 255 (s.lnk.frameErrors + 1)

theorem takeNotice_of_limit (h : s.reachesLimit) : s.takeNotice e = ((s.noticeAnswered e).faultRaised e).refreshAttn.endEvent := by
  rw [takeNotice_eq, if_pos (by simp [h.1, h.2])]

theorem takeNotice_of_not_limit (h : ¬ s.reachesLimit) : s.takeNotice e = s.noticeAnswered e := by
  rw [takeNotice_eq, if_neg]
  simpa [State.reachesLimit, and_comm] using h

/-- Beside the reply only records, ATTN and LINK_FAULT change. -/
theorem takeNotice_cases : ∃ q w f, s.takeNotice e = { s.noticeAnswered e with evq := q, work := w, lnk.linkFault := f } ∧
    (f = true ↔ s.lnk.linkFault = true ∨ s.lnk.limit ≤ min 255 (s.lnk.frameErrors + 1)) ∧ (¬ s.reachesLimit → q = s.evq) := by
  by_cases h : s.reachesLimit
  · obtain ⟨q, w, hraised⟩ := faultRaised_eq (s.noticeAnswered e) e
    obtain ⟨a, p, hattn⟩ := refreshAttn_eq ((s.noticeAnswered e).faultRaised e)
    rw [takeNotice_of_limit s e h, hattn, hraised]
    exact ⟨_, _, true, rfl, ⟨fun _ => .inr h.2, fun _ => rfl⟩, fun hn => absurd h hn⟩
  · rw [takeNotice_of_not_limit s e h]
    refine ⟨_, _, s.lnk.linkFault, rfl, ⟨.inl, fun hx => hx.elim id fun hle => ?_⟩, fun _ => rfl⟩
    by_contra hf
    exact h ⟨by simpa using hf, hle⟩

end

theorem refreshAttn_evq_events (s : State) : s.refreshAttn.evq.events = s.evq.events := by
  obtain ⟨a, p, heq⟩ := refreshAttn_eq s
  rw [heq]

theorem refreshAttn_pulse_of_none {s : State} (hp : s.evq.pulse = none) (hc : s.work.condFirst ≠ some true) : s.refreshAttn.evq.pulse = none := by
  have hstart : ¬ (s.evq.attnMode = .pulse && s.work.condFirst = some true) = true := by simp [hc]
  unfold State.refreshAttn
  dsimp only
  rw [if_neg hstart]
  split
  · rfl
  · exact hp

theorem refreshAttn_attention (s : State) : s.refreshAttn.attention = s.attention := by
  obtain ⟨a, p, heq⟩ := refreshAttn_eq s
  rw [heq]
  rfl

/-- Settles O20: LINK_FAULT's record is noted with the attention condition as it stood before the flag. -/
theorem frameErrorIsCounted : Obligations.FrameErrorIsCounted := by
  intro e s h
  obtain ⟨q, w, f, heq, hf, hquiet⟩ := takeNotice_cases s e
  refine ⟨_, exec_frameErrorNotice h e, ?_⟩
  refine ⟨by rw [heq]; rfl, by rw [heq]; rfl, by rw [heq]; rfl, by rw [heq]; exact h.empty, by rw [heq]; rfl, by rw [heq]; rfl,
    by rw [heq]; rfl, by rw [heq]; exact hf, fun hq => ?same, fun hfault hle hroom => ?raised⟩
  case same =>
    rw [heq]
    refine hquiet fun hreach => ?_
    rcases hq with hq | hq
    · rw [hreach.1] at hq
      cases hq
    · exact absurd hreach.2 (Nat.not_le.2 hq)
  case raised =>
    have hcond : (s.noticeAnswered e).work.condFirst = none := by
      show s.work.condFirst = none
      rw [h.between]
      rfl
    have hraised : (s.noticeAnswered e).faultRaised e = { s.noticeAnswered e with
        evq.events := s.evq.events ++ [s.recordOf .linkFault (FrameErrorResult e).code s.lnk.limit (some (min 255 (s.lnk.frameErrors + 1)))]
        work.condFirst := some (s.noticeAnswered e).attention
        lnk.linkFault := true } := by
      rw [State.faultRaised, record_of_room (s := s.noticeAnswered e) hroom, noteAppend_of_first hcond]
      rfl
    rw [takeNotice_of_limit s e ⟨hfault, hle⟩]
    refine ⟨?records, fun hempty hon hpulse => ?attn⟩
    case records =>
      show ((s.noticeAnswered e).faultRaised e).refreshAttn.evq.events = _
      rw [refreshAttn_evq_events, hraised]
    case attn =>
      have hbefore : (s.noticeAnswered e).attention = false := by
        show ((s.dom 0).state == .on && (!s.evq.events.isEmpty || s.lnk.linkFault)) = false
        simp [hempty, hfault]
      have hafter : ((s.noticeAnswered e).faultRaised e).attention = true := by
        rw [hraised]
        show ((s.dom 0).state == .on && (!(s.evq.events ++ _).isEmpty || true)) = true
        simp [hon]
      have hnone : ((s.noticeAnswered e).faultRaised e).refreshAttn.evq.pulse = none := by
        refine refreshAttn_pulse_of_none ?_ ?_
        · rw [hraised]
          exact hpulse
        · rw [hraised, hbefore]
          simp
      refine ⟨?_, hnone⟩
      show ((s.noticeAnswered e).faultRaised e).refreshAttn.evq.attn = true
      rw [refreshAttn_attn, refreshAttn_attention, hafter, hnone]
      rfl

end Sys2Proof.Machine
end

section
/-! The end of a reply (R176, R177, R178, R181). Settles O21. -/

namespace Sys2Proof.Machine

/-! ### The inbound queue throughout a request's work -/

/-- A reply is in progress on a live link, and these entries wait. -/
structure WaitingWith (rest : List Inbound) (s : State) : Prop where
  replying : Replying s
  inbound : s.lnk.inbound = rest

section
variable {rest : List Inbound}

theorem WaitingWith.served {s t : State} (h : WaitingWith rest s) (ht : Serving s.lnk t) : WaitingWith rest t :=
  ⟨ht.replying, by rw [ht.lnk]; exact h.inbound⟩

theorem WaitingWith.congr {s t : State} (h : WaitingWith rest s) (hd : (t.dom 0).state = (s.dom 0).state)
    (hr : t.lnk.reply.isSome = true) (hi : t.lnk.inbound = s.lnk.inbound) : WaitingWith rest t :=
  ⟨h.replying.congr hd hr, hi.trans h.inbound⟩

theorem WaitingWith.closed : Closed (WaitingWith rest) where
  settle s h := h.served ((Serving.closed s.lnk).settle s h.replying.serving)
  record s k a b v hv h := h.served ((Serving.closed s.lnk).record s k a b v hv h.replying.serving)
  refreshSub s h := h.served ((Serving.closed s.lnk).refreshSub s h.replying.serving)
  mdc _ _ h := h.congr rfl h.replying.reply rfl
  line _ _ _ h := h.congr rfl h.replying.reply rfl
  apq _ _ h := h.congr rfl h.replying.reply rfl
  session _ _ _ _ h := h.congr rfl h.replying.reply rfl
  suspended _ _ _ _ h := h.congr rfl h.replying.reply rfl
  removed _ _ h := h.congr rfl h.replying.reply rfl
  takeId _ h := h.congr rfl h.replying.reply rfl
  created _ _ _ _ _ _ _ _ _ _ _ _ _ h := h.congr rfl h.replying.reply rfl
  charged _ _ _ h := h.congr rfl h.replying.reply rfl
  chm _ _ h := h.congr rfl h.replying.reply rfl
  btm _ _ h := h.congr rfl h.replying.reply rfl
  advance s e d he h := h.served ((Serving.closed s.lnk).advance s e d he h.replying.serving)
  setPending _ _ _ h := h.congr rfl h.replying.reply rfl
  noSched _ h := h.congr rfl h.replying.reply rfl
  clock _ _ _ h := h.congr rfl h.replying.reply rfl
  resume _ _ h := h.congr rfl h.replying.reply rfl
  forceCutoff _ h := h.served h.replying.serving.forceCutoff

theorem refreshAttn_waitingWith {s : State} (h : WaitingWith rest s) : WaitingWith rest s.refreshAttn :=
  h.served (h.replying.serving.same (refreshAttn_power s) (refreshAttn_lnk s))

theorem waitingWith_requests : Requests (fun s => RampSound s ∧ WaitingWith rest s) (fun s => RampHeld s ∧ WaitingWith rest s) where
  weak _ h := ⟨h.1.held, h.2⟩
  closed := RampHeld.closed.and WaitingWith.closed
  finish _ h := ⟨finish_rampSound h.1, h.2.served (h.2.replying.serving.finish h.1)⟩
  adm _ _ h := ⟨h.1.same rfl, h.2.congr rfl h.2.replying.reply rfl⟩
  eventsRead s k b h := ⟨RampSound.requests.eventsRead s k b h.1, refreshAttn_waitingWith (h.2.congr rfl h.2.replying.reply rfl)⟩
  faultClear s h := ⟨RampSound.requests.faultClear s h.1, refreshAttn_waitingWith (h.2.congr rfl h.2.replying.reply rfl)⟩
  linkSet s n m p t hn ht h := ⟨RampSound.requests.linkSet s n m p t hn ht h.1, refreshAttn_waitingWith (h.2.congr rfl h.2.replying.reply rfl)⟩
  lock _ h := ⟨h.1.same rfl, h.2.congr rfl h.2.replying.reply rfl⟩
  arm _ h := ⟨h.1.same rfl, h.2.congr rfl h.2.replying.reply rfl⟩
  entry s d e hr ho hp h := ⟨RampSound.requests.entry s d e hr ho hp h.1, h.2.served (h.2.replying.serving.updDom d _ fun _ => rfl)⟩
  clearFault s d h := ⟨clearFault_rampHeld d h.1.held, h.2.served (h.2.replying.serving.clearFault d)⟩
  unmute _ _ h := ⟨h.1.same rfl, h.2.congr rfl h.2.replying.reply rfl⟩
  tierSet _ _ _ _ _ _ _ _ _ _ _ _ _ _ _ _ _ h := ⟨h.1.same rfl, h.2.congr rfl h.2.replying.reply rfl⟩
  meterSet _ _ _ _ _ h := ⟨h.1.same rfl, h.2.congr rfl h.2.replying.reply rfl⟩
  schedAdd _ _ _ _ _ h := ⟨h.1.same rfl, h.2.congr rfl h.2.replying.reply rfl⟩
  schedCancel _ _ h := ⟨h.1.same rfl, h.2.congr rfl h.2.replying.reply rfl⟩
  extend s id n c ls ms h := by
    obtain ⟨a, heq⟩ := lengthenWindows_same (s.updSession id (fun x => x.extended n c)) ls ms
    rw [heq]
    exact ⟨h.1.same rfl, h.2.congr rfl h.2.replying.reply rfl⟩
  reserve _ _ _ h := ⟨h.1.same rfl, h.2.congr rfl h.2.replying.reply rfl⟩
  clock _ _ _ h := ⟨h.1.held.same rfl, h.2.congr rfl h.2.replying.reply rfl⟩
  taken _ h := ⟨h.1.same rfl, h.2.congr rfl rfl rfl⟩
  takenReset _ h := ⟨h.1.same rfl, h.2.congr rfl rfl rfl⟩
  replied _ _ _ h := ⟨h.1.same rfl, h.2.congr rfl rfl rfl⟩

/-- The taking of a frame leaves the entries that wait (R35, R176). -/
theorem takeFrame_inbound {s : State} (hr : RampSound s) (hl : s.linkLive = true) (type : Byte) (p : List Byte) :
    (s.takeFrame type p).lnk.inbound = s.lnk.inbound := by
  have hstart : RampSound { s with lnk.reply := some [] } ∧ WaitingWith s.lnk.inbound { s with lnk.reply := some [] } :=
    ⟨hr.same rfl, ⟨⟨hl, rfl⟩, rfl⟩⟩
  exact (takeFrame_keeps waitingWith_requests type p hstart).2.inbound

end

/-! ### The end of an event where all agrees already -/

theorem grants_of_granted {n : Nat} {s : State} (hg : s.granted) : State.grants n s = s := by
  cases n with
  | zero => rfl
  | succ n =>
    unfold State.grants
    split
    · next hf =>
      split
      · next d hd =>
        have hmem := mem_queueOrder (List.mem_of_find?_eq_some hd)
        have helig := (eligible_iff s d).1 (List.find?_some hd)
        have hslots : s.rmp.slotA = none ∨ s.rmp.slotB = none := by
          simpa [State.slotFree] using hf
        obtain ⟨p, hp, hon⟩ := hg hslots d hmem
        exact absurd (helig p hp) hon
      · rfl
    · rfl

/-- With every domain calm and the grants made the end of an event does no more than its records and what is derived. -/
theorem finish_of_demandHeld {s : State} (hr : RampSound s) (h : DemandHeld s) (hh : s.held = false) (hw : s.work.resume = none) :
    s.finish = s.recordBlocked.refreshSessions.refreshOwners.refreshSub.refreshAttn.endEvent := by
  rw [State.finish, resumeNow_none hw, settle_of_calm h.calm hh, enqueueArrivals_of_queued hr, grants_of_granted h.granted]

theorem recordBlocked_lnk (s : State) : s.recordBlocked.lnk = s.lnk := by
  unfold State.recordBlocked
  exact foldl_keeps State.lnk _ (fun u d => by
    split
    · exact record_lnk ..
    · rfl) _ _

theorem closing_lnk (s : State) : s.recordBlocked.refreshSessions.refreshOwners.refreshSub.refreshAttn.endEvent.lnk = s.lnk := by
  rw [endEvent_lnk, refreshAttn_lnk, refreshSub_lnk, refreshOwners_lnk, refreshSessions_lnk, recordBlocked_lnk]

theorem closing_state (s : State) (d : DomId) :
    (s.recordBlocked.refreshSessions.refreshOwners.refreshSub.refreshAttn.endEvent.dom d).state = (s.dom d).state := by
  rw [endEvent_dom, power_dom (refreshAttn_power _), power_dom (refreshSub_power _), refreshOwners_state, refreshSessions_dom,
    power_dom (recordBlocked_power s)]

/-! ### Where nothing waits -/

/-- No reply is sent and no entry waits. -/
def LinkIdle (s : State) : Prop := s.lnk.reply = none ∧ s.lnk.inbound = []

theorem LinkIdle.same {s t : State} (h : LinkIdle s) (hl : t.lnk = s.lnk) : LinkIdle t := by
  unfold LinkIdle
  rwa [hl]

theorem LinkIdle.domestic : Domestic LinkIdle where
  setState s d n t h := by
    unfold State.setState State.linkFollows
    dsimp only
    (repeat' split) <;> first | exact h | exact ⟨rfl, rfl⟩
  dom _ _ _ _ h := h
  rmp _ _ h := h
  d0Held _ _ h := h
  work _ _ h := h
  record s k a b v _ h := h.same (record_lnk s k a b v)
  sub _ _ h := h
  chm _ _ h := h

theorem finish_linkIdle {s : State} (hw : s.work.resume = none) (h : LinkIdle s) : LinkIdle s.finish :=
  LinkIdle.domestic.finish (by rw [resumeNow_none hw]; exact h) (fun _ h => h) fun s h => h.same (refreshAttn_lnk s)

/-! ### The end of a reply -/

/-- The state at the end of a reply with no software reset due and no switch-off of D0 held, before the end of the event. -/
def State.replied (s : State) : State := { s.clearReply with dmc.d0Held := none }.pulseAfterRead

theorem replySent_of_plain {s : State} (hreset : s.lnk.resetDue = false) (hheld : s.dmc.d0Held = none) :
    s.replySent = s.replied.finish := by
  have hstands : ¬ s.clearReply.heldStands = true := by
    have hnone : s.clearReply.dmc.d0Held = none := hheld
    simp [State.heldStands, hnone]
  have hrelease : s.clearReply.releaseD0 = { s.clearReply with dmc.d0Held := none } := if_neg hstands
  rw [State.replySent, if_neg (by rw [hreset]; decide), hrelease, State.replied]

theorem pulseAfterRead_frame (s : State) : s.pulseAfterRead.frame = s.frame := by
  unfold State.pulseAfterRead
  dsimp only
  split <;> rfl

theorem replied_frame {s : State} (hreset : s.lnk.resetDue = false) : s.replied.frame = s.frame := by
  have hbase : ({ s.clearReply with dmc.d0Held := none } : State).base = s.base := by
    simp only [State.base, State.clearReply, hreset]
  rw [State.replied, pulseAfterRead_frame]
  exact congrArg (fun b => ((b, s.wlu, s.wsc), s.table, s.apq)) hbase

theorem replied_lnk (s : State) : s.replied.lnk = s.clearReply.lnk := by
  obtain ⟨q, heq⟩ := pulseAfterRead_eq { s.clearReply with dmc.d0Held := none }
  rw [State.replied, heq]

theorem replied_work (s : State) : s.replied.work = s.work := by
  obtain ⟨q, heq⟩ := pulseAfterRead_eq { s.clearReply with dmc.d0Held := none }
  rw [State.replied, heq]
  rfl

theorem replied_demandHeld {s : State} (hheld : s.dmc.d0Held = none) (h : DemandHeld s) : DemandHeld s.replied := by
  obtain ⟨q, heq⟩ := pulseAfterRead_eq { s.clearReply with dmc.d0Held := none }
  obtain ⟨⟨htree, hparents, -, -, -⟩, ⟨hcalm, -⟩, hgranted⟩ := h
  rw [State.replied, heq]
  exact ⟨⟨htree, hparents, fun hx => absurd rfl hx, fun hx => absurd rfl hx, fun hx => absurd rfl hx⟩,
    ⟨fun d => (hcalm d).congr ⟨rfl, rfl, ⟨rfl, rfl, rfl⟩, fun _ => rfl, rfl⟩ rfl rfl (.inr hheld.symm), fun hx => absurd rfl hx⟩, hgranted⟩

theorem replied_power (s : State) : s.replied.power = s.power := by
  obtain ⟨q, heq⟩ := pulseAfterRead_eq { s.clearReply with dmc.d0Held := none }
  rw [State.replied, heq]
  rfl

theorem replied_held (s : State) : s.replied.held = s.held := by
  obtain ⟨q, heq⟩ := pulseAfterRead_eq { s.clearReply with dmc.d0Held := none }
  rw [State.replied, heq]
  rfl

theorem exec_replyEnd {s : State} (hh : s.held = false) (hr : s.lnk.reply.isSome = true) :
    exec .replyEnd s = .next (s.lapse s.lnk.replyLeft).replySent.takeNext := by
  have hleft : s.leftReply = some s.lnk.replyLeft := if_pos hr
  show execReplyEnd s = _
  rw [execReplyEnd, if_neg (by rw [hh]; decide), hleft]

/-- What of LNK and of the model's notes a lapse leaves. -/
theorem lapse_link (s : State) (n : Nat) : (s.lapse n).lnk.inbound = s.lnk.inbound ∧ (s.lapse n).lnk.resetDue = s.lnk.resetDue ∧
    (s.lapse n).lnk.armed = s.lnk.armed ∧ (s.lapse n).lnk.frameErrors = s.lnk.frameErrors ∧ (s.lapse n).dmc.d0Held = s.dmc.d0Held ∧
    (s.lapse n).work = s.work := by
  unfold State.lapse
  (repeat' split) <;> exact ⟨rfl, rfl, rfl, rfl, rfl, rfl⟩

/-- Settles O21: with nothing waiting the event ends as it began; with every domain agreeing with its demand before it D0 stays up through
it, and the oldest entry is taken from the link as it was. -/
theorem replyEndFreesTheLink : Obligations.ReplyEndFreesTheLink := by
  intro s hh hr hreset hheld hbetween
  have hexec := exec_replyEnd hh hr
  obtain ⟨hinbound, hreset', harmed, herrors, hheld', hwork⟩ := lapse_link s s.lnk.replyLeft
  have hresume : (s.lapse s.lnk.replyLeft).work.resume = none := by
    rw [hwork, hbetween]
    rfl
  have hawake : (s.lapse s.lnk.replyLeft).held = false := (lapse_held s _).trans hh
  rw [hexec, replySent_of_plain (hreset'.trans hreset) (hheld'.trans hheld)]
  rw [← hinbound, ← harmed, ← herrors]
  refine ⟨fun hempty => ?idle, fun hmode htree hramp hdemand hlive => ?taken⟩
  case idle =>
    generalize s.lapse s.lnk.replyLeft = u at *
    have hidle : LinkIdle u.replied.finish := by
      refine finish_linkIdle (by rw [replied_work]; exact hresume) ?_
      unfold LinkIdle
      rw [replied_lnk]
      exact ⟨rfl, hempty⟩
    have hnext : u.replied.finish.takeNext = u.replied.finish := by
      rw [State.takeNext, if_neg (by rw [hidle.1]; decide), hidle.2]
    refine ⟨_, rfl, ?_, ?_⟩
    · rw [hnext]
      exact hidle.1
    · rw [hnext, finish_frame (by rw [replied_work]; exact hresume), replied_frame (hreset'.trans hreset)]
  case taken =>
    have hramp' : RampSound (s.lapse s.lnk.replyLeft) := lapse_rampSound _ hramp
    have hdemand' : DemandHeld (s.lapse s.lnk.replyLeft) := (hdemand.demandHeld htree).lapse _
    have hlive' : (s.lapse s.lnk.replyLeft).linkLive = true := (linkLive_congr (lapse_dom_state s _ 0)).trans hlive
    generalize s.lapse s.lnk.replyLeft = u at *
    have hcalm := replied_demandHeld (hheld'.trans hheld) hdemand'
    have hsound : RampSound u.replied := hramp'.same (replied_power u)
    have hfinish := finish_of_demandHeld hsound hcalm ((replied_held u).trans hawake) (by rw [replied_work]; exact hresume)
    have hlnk : u.replied.finish.lnk = u.clearReply.lnk := by
      rw [hfinish, closing_lnk, replied_lnk]
    have hup : u.replied.finish.linkLive = true := by
      rw [hfinish, linkLive_congr (closing_state _ 0), linkLive_congr (congrArg Domain.state (power_dom (replied_power u) 0))]
      exact hlive'
    have hramp'' := finish_rampSound hsound.held
    generalize u.replied.finish = v at *
    have hnone : ¬ v.lnk.reply.isSome = true := by
      rw [hlnk]
      exact Bool.false_ne_true
    refine ⟨fun type p rest hin => ?frame, fun e rest hin => ?notice⟩
    case frame =>
      have hnext : v.takeNext = { v with lnk.inbound := rest }.takeFrame type p := by
        have hin' : v.lnk.inbound = .frame type p :: rest := by
          rw [hlnk]
          exact hin
        rw [State.takeNext, if_neg hnone, hin']
      have hrest : ({ v with lnk.inbound := rest }.takeFrame type p).lnk.inbound = rest :=
        takeFrame_inbound (s := { v with lnk.inbound := rest }) (hramp''.same rfl) hup type p
      have harm : v.lnk.armed = u.lnk.armed := by
        rw [hlnk]
        rfl
      refine ⟨_, rfl, by rw [hnext]; exact hrest, fun hn => ?_, fun hx => ?_⟩
      · rw [hnext]
        rw [← harm] at hn
        exact takeFrame_replies (s := { v with lnk.inbound := rest }) hn
      · obtain ⟨ha, rfl, rfl⟩ := hx
        rw [← harm] at ha
        rw [hnext]
        refine ⟨takeFrame_accepted (s := { v with lnk.inbound := rest }) ha, ?_⟩
        rw [takeFrame_of_resetExec (s := { v with lnk.inbound := rest }) ha]
        rfl
    case notice =>
      have hnext : v.takeNext = { v with lnk.inbound := rest }.takeNotice e := by
        have hin' : v.lnk.inbound = .notice e :: rest := by
          rw [hlnk]
          exact hin
        rw [State.takeNext, if_neg hnone, hin']
      obtain ⟨q, w, f, heq, -, -⟩ := takeNotice_cases { v with lnk.inbound := rest } e
      have hcount : v.lnk.frameErrors = u.lnk.frameErrors := by
        rw [hlnk]
        rfl
      rw [hnext, heq, ← hcount]
      exact ⟨_, rfl, rfl, ⟨_, rfl⟩, rfl, rfl⟩

end Sys2Proof.Machine
end

section
/-! The byte layouts of table entries (section 12.9): an entry that was read reads back from its own layout. Settles O16. -/

namespace Sys2Proof.Machine

/-! ### Fields -/

theorem nat16_be16 {n : Nat} (h : n < 65536) : nat16 (byte (n / 256)) (byte n) = n := by
  simp only [nat16, byte, BitVec.toNat_ofNat]
  omega

theorem nat32_be32 {n : Nat} (h : n ≤ 4294967295) : nat32 (byte (n / 16777216)) (byte (n / 65536)) (byte (n / 256)) (byte n) = n := by
  simp only [nat32, byte, BitVec.toNat_ofNat]
  omega

theorem check_eq_some {α : Type} {ok : Bool} {a e : α} (h : check ok a = some e) : ok = true ∧ a = e := by
  unfold check at h
  split at h
  · next hok => exact ⟨hok, Option.some.inj h⟩
  · cases h

theorem check_of_true {α : Type} {ok : Bool} (h : ok = true) (a : α) : check ok a = some a := if_pos h

/-! ### Domain entries -/

/-- What a Domain Table entry that was read satisfies (R17). -/
structure DomainEntry.Fits (d : DomId) (e : DomainEntry) : Prop where
  parent : ∀ p, e.parent = some p → p < d
  runCurrent : e.runCurrent ≤ 20000
  rampTimeout : e.rampTimeout < 65536
  holdOff : e.holdOff < 256
  rampPriority : e.rampPriority ≤ 3
  retryDelay : 1 ≤ e.retryDelay ∧ e.retryDelay ≤ 60

/-- The parent byte of an entry. -/
def parentByte (p : Option DomId) : Byte :=
  match p with
  | some p => byte p.val
  | none => 0xFF

theorem readParent_parentByte {d : DomId} {q : Option DomId} (h : ∀ p, q = some p → p < d) : readParent d (parentByte q) = some q := by
  cases q with
  | none => exact if_pos rfl
  | some p =>
    have hne : byte p.val ≠ 0xFF := by
      intro hx
      have hval := congrArg BitVec.toNat hx
      rw [toNat_byte (by omega)] at hval
      have hp := p.isLt
      simp only [BitVec.reduceToNat] at hval
      omega
    have hlt : p.val < d.val := h p rfl
    rw [readParent, parentByte, if_neg hne, readDom_byte]
    exact if_pos hlt

theorem readDomainEntry_fits {d : DomId} {p : List Byte} {e : DomainEntry} (h : readDomainEntry d p = some e) : e.Fits d := by
  have hparent := readDomainEntry_parent h
  unfold readDomainEntry at h
  split at h
  · simp only [Option.bind_eq_some_iff] at h
    obtain ⟨q, -, h⟩ := h
    obtain ⟨hok, rfl⟩ := check_eq_some h
    simp only [Bool.and_eq_true, decide_eq_true_eq] at hok
    obtain ⟨⟨⟨hcurrent, hpriority⟩, hretry1⟩, hretry2⟩ := hok
    exact ⟨hparent, hcurrent, Nat.lt_succ_of_le (nat16_lt _ _), BitVec.isLt _, hpriority, hretry1, hretry2⟩
  · cases h

theorem domainFlags : ∀ a b c d : Bool, flag (byte (bit a 1 + bit b 2 + bit c 4 + bit d 8)) 0 = a ∧
    flag (byte (bit a 1 + bit b 2 + bit c 4 + bit d 8)) 1 = b ∧ flag (byte (bit a 1 + bit b 2 + bit c 4 + bit d 8)) 2 = c ∧
    flag (byte (bit a 1 + bit b 2 + bit c 4 + bit d 8)) 3 = d := by decide

theorem readDomainEntry_bytes {d : DomId} {e : DomainEntry} (h : e.Fits d) : readDomainEntry d (domainEntryBytes e) = some e := by
  obtain ⟨hparent, hcurrent, htimeout, hholdOff, hpriority, hretry⟩ := h
  obtain ⟨h0, h1, h2, h3⟩ := domainFlags e.enabled e.alwaysOn e.guarded e.driveSet
  have hbytes : domainEntryBytes e = [byte (bit e.enabled 1 + bit e.alwaysOn 2 + bit e.guarded 4 + bit e.driveSet 8),
      byte (e.runCurrent / 256), byte e.runCurrent, parentByte e.parent, byte (e.rampTimeout / 256), byte e.rampTimeout, byte e.holdOff,
      byte e.rampPriority, byte e.retryDelay] := rfl
  rw [hbytes, readDomainEntry, readParent_parentByte hparent, nat16_be16 (by omega), nat16_be16 htimeout, toNat_byte (by omega),
    toNat_byte (by omega), toNat_byte hholdOff, h0, h1, h2, h3]
  exact check_of_true (by simp [hcurrent, hpriority, hretry]) _

/-! ### Line entries -/

/-- What a Line Table entry that was read satisfies (R49). -/
structure LineEntry.Fits (l : LineId) (e : LineEntry) : Prop where
  partner : ¬ (e.role = .stage1 ∧ e.partner = l)
  debounce : e.debounce < 256
  nuisanceLimit : e.nuisanceLimit ≤ 15
  nuisanceWindow : 1 ≤ e.nuisanceWindow ∧ e.nuisanceWindow < 256
  muteTime : 1 ≤ e.muteTime ∧ e.muteTime < 256

theorem readLineEntry_fits {l : LineId} {p : List Byte} {e : LineEntry} (h : readLineEntry l p = some e) : e.Fits l := by
  unfold readLineEntry at h
  split at h
  · simp only [Option.bind_eq_some_iff] at h
    obtain ⟨mode, -, role, -, cls, -, partner, -, h⟩ := h
    obtain ⟨hok, rfl⟩ := check_eq_some h
    simp only [Bool.and_eq_true, decide_eq_true_eq, Bool.not_eq_true', Bool.and_eq_false_iff, beq_eq_false_iff_ne] at hok
    obtain ⟨⟨⟨hpartner, hlimit⟩, hwindow⟩, hmute⟩ := hok
    exact ⟨fun hx => hpartner.elim (fun hr => hr hx.1) (fun hp => hp hx.2), BitVec.isLt _, hlimit, ⟨hwindow, BitVec.isLt _⟩,
      hmute, BitVec.isLt _⟩
  · cases h

theorem lineFlags : ∀ a b c : Bool, flag (byte (bit a 1 + bit b 2 + bit c 4)) 0 = a ∧ flag (byte (bit a 1 + bit b 2 + bit c 4)) 1 = b ∧
    flag (byte (bit a 1 + bit b 2 + bit c 4)) 2 = c := by decide

theorem enumAt_triggerMode (m : TriggerMode) : enumAt [TriggerMode.rising, .falling, .both, .levelHigh, .levelLow] (byte m.code) = some m := by
  cases m <;> rfl

theorem enumAt_role (r : Role) : enumAt [Role.direct, .stage1, .stage2, .record] (byte r.code) = some r := by
  cases r <;> rfl

theorem enumAt_tier (t : Tier) : enumAt [Tier.normal, .conserve, .critical, .cutoff] (byte t.code) = some t := by
  cases t <;> rfl

theorem readLineEntry_bytes {l : LineId} {e : LineEntry} (h : e.Fits l) : readLineEntry l (lineEntryBytes e) = some e := by
  obtain ⟨hpartner, hdebounce, hlimit, hwindow, hmute⟩ := h
  obtain ⟨h0, h1, h2⟩ := lineFlags e.enabled e.guarded e.cutoffCapable
  rw [lineEntryBytes, readLineEntry, enumAt_triggerMode, enumAt_role, readClass_byte, readLine_byte, toNat_byte hdebounce,
    toNat_byte (n := e.nuisanceLimit) (by omega), toNat_byte hwindow.2, toNat_byte hmute.2, h0, h1, h2]
  refine check_of_true ?_ _
  have hrole : (!(e.role == .stage1 && e.partner == l)) = true := by
    rw [Bool.not_eq_true', Bool.and_eq_false_iff, beq_eq_false_iff_ne, beq_eq_false_iff_ne]
    exact not_and_or.1 hpartner
  simp [hrole, hlimit, hwindow.1, hmute.1]

/-! ### Class entries -/

/-- What a Class Table entry that was read satisfies (R80). -/
structure ClassEntry.Fits (e : ClassEntry) : Prop where
  priority : e.priority ≤ 7
  full : 1 ≤ e.fullDuration ∧ e.fullDuration ≤ 3600 ∧ e.fullDuration ≤ e.maxDuration
  reduced : ∀ r, e.reduced = some r → 1 ≤ r.amount ∧ r.amount ≤ 3600 ∧ r.amount ≤ e.maxDuration
  listen : ∀ r, e.listen = some r → 1 ≤ r.amount ∧ r.amount < 256
  overhead : e.overhead < 65536
  chargeCap : 1 ≤ e.chargeCap ∧ e.chargeCap < 65536
  maxDuration : 1 ≤ e.maxDuration ∧ e.maxDuration ≤ 7200
  extensionLimit : e.extensionLimit ≤ 3600
  suspensionLimit : e.suspensionLimit ≤ 3600

theorem readProfile_amount {b : Bool} {h l : Byte} {n : Nat} {q : Option ProfileSpec} (hq : readProfile b h l n = some q) :
    ∀ r, q = some r → r.amount = n := by
  rintro r rfl
  unfold readProfile at hq
  split at hq
  · simp only [Option.map_eq_some_iff] at hq
    obtain ⟨S, -, hr⟩ := hq
    rw [← Option.some.inj hr]
  · cases hq

theorem readClassEntry_fits {p : List Byte} {e : ClassEntry} (h : readClassEntry p = some e) : e.Fits := by
  unfold readClassEntry at h
  split at h
  · simp only [Option.bind_eq_some_iff] at h
    obtain ⟨minTier, -, fullSet, -, reduced, hreduced, listen, hlisten, h⟩ := h
    obtain ⟨hok, rfl⟩ := check_eq_some h
    simp only [Bool.and_eq_true, decide_eq_true_eq] at hok
    obtain ⟨⟨⟨⟨⟨⟨⟨⟨⟨⟨hpriority, hfull1⟩, hfull2⟩, hred⟩, hlis⟩, hcap⟩, htop1⟩, htop2⟩, hfull3⟩, hext⟩, hsus⟩ := hok
    refine ⟨hpriority, ⟨hfull1, hfull2, hfull3⟩, fun r hr => ?_, fun r hr => ?_, Nat.lt_succ_of_le (nat16_lt _ _),
      ⟨hcap, Nat.lt_succ_of_le (nat16_lt _ _)⟩, ⟨htop1, htop2⟩, hext, hsus⟩
    · dsimp only at hr
      subst hr
      simpa [profileOk, and_assoc] using hred
    · have hamount := readProfile_amount hlisten r hr
      dsimp only at hr
      subst hr
      refine ⟨by simpa [profileOk] using hlis, ?_⟩
      rw [hamount]
      exact BitVec.isLt _
  · cases h

theorem readSet_setBytes (S : DomSet) : readSet (byte (S.toNat / 256)) (byte S.toNat) = some S := by
  have hS := S.isLt
  have hval := nat16_be16 (n := S.toNat) (by omega)
  simp [readSet, hval, hS]

theorem classFlags : ∀ a b c d e f g : Bool,
    let x := byte (bit a 1 + bit b 2 + bit c 4 + bit d 8 + bit e 16 + bit f 32 + bit g 64)
    flag x 0 = a ∧ flag x 1 = b ∧ flag x 2 = c ∧ flag x 3 = d ∧ flag x 4 = e ∧ flag x 5 = f ∧ flag x 6 = g := by decide

/-- The bytes of an optional REDUCED profile. -/
def reducedBytes (q : Option ProfileSpec) : List Byte :=
  match q with
  | some r => setBytes r.set ++ be16 r.amount
  | none => [0, 0, 0, 0]

/-- The bytes of an optional LISTEN profile. -/
def listenBytes (q : Option ProfileSpec) : List Byte :=
  match q with
  | some r => setBytes r.set ++ [byte r.amount]
  | none => [0, 0, 0]

theorem readProfile_reducedBytes {q : Option ProfileSpec} (h : ∀ r, q = some r → r.amount < 65536) :
    ∃ a b c d, reducedBytes q = [a, b, c, d] ∧ readProfile q.isSome a b (nat16 c d) = some q := by
  cases q with
  | none => exact ⟨_, _, _, _, rfl, rfl⟩
  | some r =>
    refine ⟨_, _, _, _, rfl, ?_⟩
    rw [readProfile, if_pos Option.isSome_some, readSet_setBytes, nat16_be16 (h r rfl)]
    rfl

theorem readProfile_listenBytes {q : Option ProfileSpec} (h : ∀ r, q = some r → r.amount < 256) :
    ∃ a b c, listenBytes q = [a, b, c] ∧ readProfile q.isSome a b c.toNat = some q := by
  cases q with
  | none => exact ⟨_, _, _, rfl, rfl⟩
  | some r =>
    refine ⟨_, _, _, rfl, ?_⟩
    rw [readProfile, if_pos Option.isSome_some, readSet_setBytes, toNat_byte (h r rfl)]
    rfl

theorem profileOk_of {q : Option ProfileSpec} {ok : Nat → Bool} (h : ∀ r, q = some r → ok r.amount = true) : profileOk q ok = true := by
  cases q with
  | none => rfl
  | some r => exact h r rfl

theorem readClassEntry_bytes {e : ClassEntry} (h : e.Fits) : readClassEntry (classEntryBytes e) = some e := by
  obtain ⟨hpriority, ⟨hfull1, hfull2, hfull3⟩, hreduced, hlisten, hoverhead, ⟨hcap1, hcap2⟩, ⟨htop1, htop2⟩, hext, hsus⟩ := h
  obtain ⟨r3, r2, r1, r0, hr, hreadr⟩ := readProfile_reducedBytes (q := e.reduced) fun r hr => by
    have := hreduced r hr
    omega
  obtain ⟨l2, l1, l0, hl, hreadl⟩ := readProfile_listenBytes (q := e.listen) fun r hr => (hlisten r hr).2
  obtain ⟨h0, h1, h2, h3, h4, h5, h6⟩ := classFlags e.enabled e.guarded e.essential e.suspendable e.exclusive e.reduced.isSome e.listen.isSome
  have hbytes : classEntryBytes e = [byte (bit e.enabled 1 + bit e.guarded 2 + bit e.essential 4 + bit e.suspendable 8 +
      bit e.exclusive 16 + bit e.reduced.isSome 32 + bit e.listen.isSome 64), byte e.priority, byte e.minTier.code] ++ setBytes e.fullSet ++
      be16 e.fullDuration ++ reducedBytes e.reduced ++ listenBytes e.listen ++ be16 e.overhead ++ be16 e.chargeCap ++ be16 e.maxDuration ++
      be16 e.extensionLimit ++ be16 e.suspensionLimit := rfl
  rw [hr, hl] at hbytes
  have hok1 : profileOk e.reduced (fun n => decide (1 ≤ n) && decide (n ≤ 3600) && decide (n ≤ e.maxDuration)) = true :=
    profileOk_of fun r hr => by simp [hreduced r hr]
  have hok2 : profileOk e.listen (fun n => decide (1 ≤ n)) = true := profileOk_of fun r hr => by simp [hlisten r hr]
  rw [hbytes]
  simp only [setBytes, be16, List.cons_append, List.nil_append]
  simp only [readClassEntry]
  rw [enumAt_tier, readSet_setBytes, h5, h6, hreadr, hreadl, nat16_be16 (n := e.fullDuration) (by omega),
    nat16_be16 (n := e.maxDuration) (by omega), nat16_be16 hoverhead, nat16_be16 hcap2, nat16_be16 (n := e.extensionLimit) (by omega),
    nat16_be16 (n := e.suspensionLimit) (by omega), toNat_byte (n := e.priority) (by omega), h0, h1, h2, h3, h4]
  exact check_of_true (by simp [hpriority, hfull1, hfull2, hfull3, hok1, hok2, hcap1, htop1, htop2, hext, hsus]) _

/-! ### Schedule entries -/

/-- What a schedule entry that was read satisfies (R155). -/
structure SchedEntry.Fits (e : SchedEntry) : Prop where
  id : 1 ≤ e.id ∧ e.id < 256
  due : e.due ≤ 4294967295
  period : e.period = 0 ∨ (60 ≤ e.period ∧ e.period ≤ 604800)
  lateness : e.lateness ≤ 3600
  pending : e.pending = false

theorem readSchedEntry_fits {p : List Byte} {e : SchedEntry} (h : readSchedEntry p = some e) : e.Fits := by
  have hdue := readSchedEntry_due h
  unfold readSchedEntry at h
  split at h
  · simp only [Option.bind_eq_some_iff] at h
    obtain ⟨cls, -, h⟩ := h
    obtain ⟨hok, rfl⟩ := check_eq_some h
    simp only [Bool.and_eq_true, Bool.or_eq_true, decide_eq_true_eq, beq_iff_eq] at hok
    obtain ⟨⟨⟨hid, hperiod⟩, hlateness⟩, -⟩ := hok
    exact ⟨⟨hid, BitVec.isLt _⟩, hdue, hperiod, hlateness, rfl⟩
  · cases h

theorem schedFlag : ∀ a : Bool, flag (byte (bit a 1 + bit false 2)) 0 = a ∧ (byte (bit a 1 + bit false 2)).toNat ≤ 1 := by decide

theorem readSchedEntry_bytes {e : SchedEntry} (h : e.Fits) : readSchedEntry (schedEntryBytes e) = some e := by
  obtain ⟨⟨hid1, hid2⟩, hdue, hperiod, hlateness, hpending⟩ := h
  obtain ⟨hflag, hflags⟩ := schedFlag e.skipInDrive
  have hbytes : schedEntryBytes e = [byte e.id, byte (e.due / 16777216), byte (e.due / 65536), byte (e.due / 256), byte e.due,
      byte (e.period / 16777216), byte (e.period / 65536), byte (e.period / 256), byte e.period, byte e.cls.val,
      byte (e.lateness / 256), byte e.lateness, byte (bit e.skipInDrive 1 + bit false 2)] := by
    rw [← hpending]
    rfl
  rw [hbytes, readSchedEntry, readClass_byte, nat32_be32 hdue, nat32_be32 (n := e.period) (by omega), nat16_be16 (n := e.lateness) (by omega),
    toNat_byte hid2, hflag]
  refine (check_of_true ?_ _).trans ?_
  · simp [hid1, hperiod, hlateness, hflags]
  · rw [← hpending]

/-- Settles O16: what was read fits its layout, and what fits reads back. -/
theorem entriesReadBack : Obligations.EntriesReadBack :=
  ⟨fun _ _ _ h => readDomainEntry_bytes (readDomainEntry_fits h), fun _ _ _ h => readLineEntry_bytes (readLineEntry_fits h),
    fun _ _ h => readClassEntry_bytes (readClassEntry_fits h), fun _ _ h => readSchedEntry_bytes (readSchedEntry_fits h)⟩

end Sys2Proof.Machine
end

section
/-! What the claims read after an event: the frame, and the records in their order. The rules by which the proofs about commands reach
them. -/

namespace Sys2Proof.Machine

/-! ### The frame -/

theorem frame_of {s t : State} (hd : t.deep = s.deep) (ht : t.table = s.table) (ha : t.apq = s.apq) : t.frame = s.frame := by
  unfold State.frame
  rw [hd, ht, ha]

theorem frame_deep {s t : State} (h : t.frame = s.frame) : t.deep = s.deep := congrArg Prod.fst h
theorem frame_table {s t : State} (h : t.frame = s.frame) : t.table = s.table := congrArg (fun f => f.2.1) h
theorem frame_apq {s t : State} (h : t.frame = s.frame) : t.apq = s.apq := congrArg (fun f => f.2.2) h
theorem frame_base {s t : State} (h : t.frame = s.frame) : t.base = s.base := deep_base (frame_deep h)
theorem frame_wlu {s t : State} (h : t.frame = s.frame) : t.wlu = s.wlu := congrArg (fun d => d.2.1) (frame_deep h)
theorem frame_wsc {s t : State} (h : t.frame = s.frame) : t.wsc = s.wsc := congrArg (fun d => d.2.2) (frame_deep h)

theorem table_of_ssc {s t : State} (h : t.ssc = s.ssc) : t.table = s.table := by
  unfold State.table
  rw [h]

theorem record_apq (s : State) (k : RecordKind) (a b : Nat) (v : Option Nat) : (s.record k a b v).apq = s.apq := by
  obtain ⟨q, w, heq⟩ := record_eq s k a b v
  rw [heq]

theorem record_frame (s : State) (k : RecordKind) (a b : Nat) (v : Option Nat) : (s.record k a b v).frame = s.frame :=
  frame_of (record_deep ..) (table_of_ssc (record_ssc ..)) (record_apq ..)

theorem settle_frame (s : State) : s.settle.frame = s.frame :=
  frame_of (settle_deep s) (table_of_ssc (settle_ssc s)) ((Domestic.sameApproach s.apq).settle rfl)

theorem refreshSub_frame (s : State) : s.refreshSub.frame = s.frame := by
  obtain ⟨c, hc, heq⟩ := refreshSub_eq s
  refine frame_of (refreshSub_deep s) (table_of_ssc (refreshSub_ssc s)) ?_
  rw [heq]

theorem demandChanged_frame (s : State) : s.demandChanged.frame = s.frame :=
  (refreshSub_frame _).trans (settle_frame s)

theorem refreshAttn_frame (s : State) : s.refreshAttn.frame = s.frame :=
  frame_of (refreshAttn_deep s) (table_of_ssc (refreshAttn_ssc s).1) (refreshAttn_ssc s).2

/-- A change of a line changes the frame by the frame alone. -/
theorem updLine_frame {s t : State} (h : t.frame = s.frame) (l : LineId) (f : Line → Line) : (t.updLine l f).frame = (s.updLine l f).frame := by
  have hwlu := frame_wlu h
  have hline : t.line l = s.line l := by rw [State.line, hwlu]; rfl
  have hbase := frame_base h
  have hlines : t.wlu.lines.set l.val (f (t.line l)) = s.wlu.lines.set l.val (f (s.line l)) := by rw [hwlu, hline]
  have htable : (t.updLine l f).table = (s.updLine l f).table := frame_table (t := t) (s := s) h
  have hapq : (t.updLine l f).apq = (s.updLine l f).apq := frame_apq (t := t) (s := s) h
  have hwsc : (t.updLine l f).wsc = (s.updLine l f).wsc := frame_wsc (t := t) (s := s) h
  refine frame_of ?_ htable hapq
  refine Prod.ext ?_ (Prod.ext (congrArg Wlu.mk hlines) hwsc)
  simp only [State.base, Base.mk.injEq] at hbase
  simp only [State.deep, State.base, State.updLine, Base.mk.injEq, hlines]
  simp_all

/-! ### What else a record leaves -/

theorem record_resume (s : State) (k : RecordKind) (a b : Nat) (v : Option Nat) : (s.record k a b v).work.resume = s.work.resume := by
  have hn : s.noteAppend.work.resume = s.work.resume := by
    unfold State.noteAppend
    split <;> rfl
  unfold State.record
  dsimp only
  split
  · exact hn
  · split
    · rfl
    · exact hn

theorem record_line (s : State) (k : RecordKind) (a b : Nat) (v : Option Nat) (l : LineId) : (s.record k a b v).line l = s.line l := by
  have hwlu : (s.record k a b v).wlu = s.wlu := congrArg (fun d => d.2.1) (record_deep s k a b v)
  rw [State.line, hwlu]
  rfl

/-! ### The records in their order -/

/-- The queue holds exactly these records, and the policy keeps them (R166, R167). -/
def Holds (l : List Event) (s : State) : Prop := s.evq.events = l ∧ s.evq.policy = .keepOldest

section
variable {s t : State} {l m : List Event}

theorem Holds.start {n : Nat} (h : s.roomFor n) : Holds s.evq.events s := ⟨rfl, h.1⟩

theorem Holds.same (h : Holds l s) (he : t.evq.events = s.evq.events) (hp : t.evq.policy = s.evq.policy) : Holds l t :=
  ⟨he.trans h.1, hp.trans h.2⟩

theorem Holds.record (h : Holds l s) (hlen : l.length < 24) (k : RecordKind) (a b : Nat) (v : Option Nat) :
    Holds (l ++ [s.recordOf k a b v]) (s.record k a b v) := by
  obtain ⟨rfl, hpolicy⟩ := h
  rw [record_of_room hlen]
  exact ⟨rfl, hpolicy⟩

theorem Holds.keeps (h : Holds l s) : Keeps l s := ⟨h.1 ▸ List.prefix_refl _, h.2⟩

theorem Keeps.finish_recorded (h : Keeps (s.evq.events ++ m) t) : t.finish.recorded s m := (finish_records h).1

/-- A record is stamped with the part time alone (R165). -/
theorem recordOf_congr (h : t.wsc.seconds = s.wsc.seconds) (k : RecordKind) (a b : Nat) (v : Option Nat) :
    t.recordOf k a b v = s.recordOf k a b v := by
  unfold State.recordOf
  rw [h]

end

/-! ### What a lapse leaves -/

theorem lapse_evq (s : State) (n : Nat) : (s.lapse n).evq.events = s.evq.events ∧ (s.lapse n).evq.policy = s.evq.policy ∧
    (s.lapse n).evq.attnMode = s.evq.attnMode ∧ (s.lapse n).evq.readPulse = s.evq.readPulse := by
  unfold State.lapse
  (repeat' split) <;> exact ⟨rfl, rfl, rfl, rfl⟩

theorem lapse_seconds (s : State) (n : Nat) : (s.lapse n).wsc.seconds = s.wsc.seconds := by
  unfold State.lapse Wsc.lapse
  (repeat' split) <;> rfl

theorem lapse_work (s : State) (n : Nat) : (s.lapse n).work = s.work := by
  unfold State.lapse
  (repeat' split) <;> rfl

theorem lapse_recordOf (s : State) (n : Nat) (k : RecordKind) (a b : Nat) (v : Option Nat) :
    (s.lapse n).recordOf k a b v = s.recordOf k a b v := recordOf_congr (lapse_seconds s n) k a b v

theorem lapse_holds {s : State} {l : List Event} (n : Nat) (h : Holds l s) : Holds l (s.lapse n) := by
  obtain ⟨hevents, hpolicy, -⟩ := lapse_evq s n
  exact h.same hevents hpolicy

/-! ### Settling makes no record -/

/-- The queue with its policy and the pulse, the link's note of an EVENTS_READ apart, and what the event in progress has put off to its
end. -/
def State.noted (s : State) : Evq × Option Resume × Option Bool :=
  ({ s.evq with readPulse := false }, s.work.resume, s.work.condFirst)

section
variable {s t : State} (h : t.noted = s.noted)
include h

theorem noted_evq : { t.evq with readPulse := false } = { s.evq with readPulse := false } := congrArg Prod.fst h
theorem noted_events : t.evq.events = s.evq.events := congrArg (fun n => n.1.events) h
theorem noted_policy : t.evq.policy = s.evq.policy := congrArg (fun n => n.1.policy) h
theorem noted_resume : t.work.resume = s.work.resume := congrArg (fun n => n.2.1) h
theorem noted_condFirst : t.work.condFirst = s.work.condFirst := congrArg (fun n => n.2.2) h

theorem Holds.noted {l : List Event} (hs : Holds l s) : Holds l t := hs.same (noted_events h) (noted_policy h)

end

theorem setState_noted (s : State) (d : DomId) (n : DomState) (t : Nat) : (s.setState d n t).noted = s.noted := by
  unfold State.setState State.linkFollows
  dsimp only
  (repeat' split) <;> exact rfl

theorem enterOff_noted (s : State) (d : DomId) : (s.enterOff d).noted = s.noted := setState_noted s d .off 0

theorem noteBlocked_noted (s : State) (d : DomId) : (s.noteBlocked d).noted = s.noted := by
  unfold State.noteBlocked
  split <;> exact rfl

theorem enterQueued_noted (s : State) (d : DomId) : (s.enterQueued d).noted = s.noted := by
  unfold State.enterQueued
  dsimp only
  split
  · exact (noteBlocked_noted _ d).trans (setState_noted s d .queued 0)
  · exact setState_noted s d .queued 0

theorem powerOff_noted (s : State) (d : DomId) (c : HeldCause) : (s.powerOff d c).noted = s.noted := by
  unfold State.powerOff
  split
  · exact rfl
  · exact enterOff_noted s d

theorem forceOff_noted (s : State) (d : DomId) : (s.forceOff d).noted = s.noted := by
  unfold State.forceOff
  split
  · exact rfl
  · exact rfl
  · exact enterOff_noted s d
  · exact enterOff_noted s d
  · exact enterOff_noted s d
  · exact powerOff_noted s d _
  · exact powerOff_noted s d _

theorem forceCutoff_noted (s : State) : s.forceCutoff.noted = s.noted :=
  foldl_keeps State.noted _ (fun t d => by
    split
    · exact rfl
    · exact forceOff_noted t d) _ s

theorem transition_noted (s : State) (d : DomId) : (s.transition d).noted = s.noted := by
  unfold State.transition
  split
  · exact forceCutoff_noted s
  · split
    · split
      · exact enterQueued_noted s d
      · exact rfl
    · split
      · exact enterOff_noted s d
      · exact rfl
    · split
      · exact enterOff_noted s d
      · exact rfl
    · exact rfl
    · exact rfl
    · split
      · exact rfl
      · split
        · exact powerOff_noted s d _
        · exact setState_noted s d _ _
    · split
      · exact setState_noted s d _ _
      · exact rfl

theorem settle_noted (s : State) : s.settle.noted = s.noted :=
  foldl_keeps State.noted _ (fun t d => by
    unfold State.transitionOf
    split
    · split
      · exact rfl
      · exact (transition_noted { t with dmc.d0Held := none } d).trans rfl
    · exact transition_noted t d) _ s

theorem refreshSub_noted (s : State) : s.refreshSub.noted = s.noted := by
  obtain ⟨c, -, heq⟩ := refreshSub_eq s
  rw [heq]
  exact rfl

theorem demandChanged_noted (s : State) : s.demandChanged.noted = s.noted := (refreshSub_noted _).trans (settle_noted s)

theorem Holds.demandChanged {s : State} {l : List Event} (h : Holds l s) : Holds l s.demandChanged := h.noted (demandChanged_noted s)

theorem Holds.refreshSub {s : State} {l : List Event} (h : Holds l s) : Holds l s.refreshSub := h.noted (refreshSub_noted s)

theorem rampDone_noted (s : State) (d : DomId) : (s.rampDone d).noted = s.noted := by
  unfold State.rampDone
  split
  · exact setState_noted s d _ _
  · split
    · exact enterOff_noted s d
    · exact setState_noted s d _ _

theorem grant_noted (s : State) (d : DomId) : (s.grant d).noted = s.noted := by
  unfold State.grant
  dsimp only
  split
  · exact setState_noted s d .ramping _
  · exact setState_noted s d .ramping _

theorem grantAndRamp_noted (s : State) (d : DomId) : (s.grantAndRamp d).noted = s.noted := by
  have henqueue : ∀ u : State, u.enqueueArrivals.noted = u.noted := fun u => rfl
  unfold State.grantAndRamp
  dsimp only
  split
  · exact (henqueue _).trans ((demandChanged_noted _).trans ((rampDone_noted _ d).trans (grant_noted s d)))
  · exact grant_noted s d

theorem grants_noted (n : Nat) (s : State) : (State.grants n s).noted = s.noted := by
  induction n generalizing s with
  | zero => rfl
  | succ n ih =>
    unfold State.grants
    split
    · split
      · exact (ih _).trans (grantAndRamp_noted s _)
      · rfl
    · rfl

/-! ### Events -/

theorem Ready.resume {s : State} (h : Ready s) : s.work.resume = none := by
  rw [h.between]
  rfl

theorem Listening.resume {s : State} (h : Listening s) : s.work.resume = none := by
  rw [h.between]
  rfl

/-- A timed event that can come is its work after the time left, and the end of the event. -/
theorem timed_of_some {s : State} {left : Option Nat} {n : Nat} (h : s.held = false) (hn : left = some n) (work : State → State) :
    s.timed left work = .next (work (s.lapse n)).finish := by
  unfold State.timed
  rw [if_neg (by rw [h]; decide), hn]

theorem sendReply_frame (s : State) (type : Byte) (a : Answer) : (s.sendReply type a).frame = s.frame := rfl

end Sys2Proof.Machine
end

section
/-! Requests as they reach their owner, past LINK_FAULT and the configuration lock (R177 step 4, R180), and those that only write
settings: TIER_SET and METER_SET (R137, R142, R143), LINE_UNMUTE (R64), SESSION_EXTEND (R114, R115). Settles O55, O40 and O49. -/

namespace Sys2Proof.Machine

/-! ### Past LINK_FAULT and the lock -/

theorem toNat_eq_zero {b : Byte} (h : b ≠ 0) : b.toNat ≠ 0 := fun hb => h (BitVec.eq_of_toNat_eq hb)

theorem not_linkFault {s : State} (h : s.lnk.linkFault = false) (type : Byte) : (s.lnk.linkFault && writesTables type) = false := by
  rw [h, Bool.false_and]

theorem unlocked_of_writable {s : State} (h : s.writable) : (s.lnk.locked && !s.mdc.service.debounced) = false := by
  obtain ⟨-, hlock | hservice⟩ := h
  · rw [hlock, Bool.false_and]
  · rw [hservice, Bool.not_true, Bool.and_false]

theorem unlocked_of_entryWritable {s : State} {guarded : Bool} (h : s.entryWritable guarded) :
    (s.lnk.locked && !s.mdc.service.debounced && guarded) = false := by
  obtain ⟨-, hlock | hservice | hguard⟩ := h
  · rw [hlock, Bool.false_and, Bool.false_and]
  · rw [hservice, Bool.not_true, Bool.and_false, Bool.false_and]
  · rw [hguard, Bool.and_false]

section
variable (s : State) (p : List Byte)

theorem lockRefuses_domain {i : Byte} {d : DomId} (h : readDom i = some d) :
    s.lockRefuses 0x10 (i :: p) = (s.lnk.locked && !s.mdc.service.debounced && (s.dom d).entry.guarded) := by
  simp [State.lockRefuses, h]

theorem lockRefuses_noDomain {i : Byte} (h : readDom i = none) : s.lockRefuses 0x10 (i :: p) = false := by
  simp [State.lockRefuses, h]

theorem lockRefuses_line {i : Byte} {l : LineId} (h : readLine i = some l) :
    s.lockRefuses 0x18 (i :: p) = (s.lnk.locked && !s.mdc.service.debounced && (s.line l).entry.guarded) := by
  simp [State.lockRefuses, h]

theorem lockRefuses_noLine {i : Byte} (h : readLine i = none) : s.lockRefuses 0x18 (i :: p) = false := by
  simp [State.lockRefuses, h]

theorem lockRefuses_class {i : Byte} {c : ClassId} (h : readClass i = some c) :
    s.lockRefuses 0x20 (i :: p) = (s.lnk.locked && !s.mdc.service.debounced && (s.cls c).guarded) := by
  simp [State.lockRefuses, h]

theorem lockRefuses_noClass {i : Byte} (h : readClass i = none) : s.lockRefuses 0x20 (i :: p) = false := by
  simp [State.lockRefuses, h]

end

section
variable {c : Instr} {type : Byte} {p : List Byte} {s : State} (hc : requestOf c = some (type, p)) (hw : c.wellFormed = true)
  (h : Listening s) (hne : type ≠ 0x7F) (hl : requestLength type = some p.length)
  (hf : (s.lnk.linkFault && writesTables type) = false) (hk : s.lockRefuses type p = false)
include hc hw h hne hl hf hk

/-- A request that LNK's own checks pass is its owner's work, and the reply (R177). -/
theorem exec_of_owner {t : State} {a : Answer} (ha : carryOut s.taken type p = (t, a)) :
    exec c s = .next (t.sendReply (type + 0x80) a) :=
  exec_of_answer hc hw h (not_resetExec p hne) ((answerFrame_eq_carryOut s.taken hl hf hk).trans ha)

theorem exec_of_owner_changed {t : State} {r : Result} {w : List Byte}
    (ha : carryOut s.taken type p = (t.taken, { result := r, payload := w })) : exec c s = .next (t.answered type r w) :=
  exec_of_owner hc hw h hne hl hf hk ha

end

/-- What a request's owner leaves behind is what the next state shows, but for the reply. -/
theorem sendReply_replies (s : State) (type : Byte) (a : Answer) : (s.sendReply (type + 0x80) a).replies type a.result a.payload := ⟨_, rfl⟩

theorem recorded_sendReply {t s : State} {l : List Event} (h : t.recorded s l) (type : Byte) (a : Answer) :
    (t.sendReply type a).recorded s l := h

/-! ### TIER_SET and METER_SET -/

theorem tierFieldsOk_iff {tc tk tx nf nr : Nat} : tierFieldsOk tc tk tx nf nr = true ↔
    8000 ≤ tx ∧ tx < tk ∧ tk < tc ∧ tc ≤ 15000 ∧ 1 ≤ nf ∧ nf ≤ 32 ∧ 1 ≤ nr := by
  simp only [tierFieldsOk, Bool.and_eq_true, decide_eq_true_eq, and_assoc]

/-- What a TIER_SET in range writes (R142, R143). -/
def State.tierSettings (s : State) (tc tk tx hy nf nr : Nat) : State :=
  { s with btm := { s.btm with conserve := tc, critical := tk, cutoff := tx, hysteresis := hy, fallConfirm := nf, riseConfirm := nr,
                               fall := 0, rise := 0 } }

theorem byte_toNat (b : Byte) : byte b.toNat = b := by
  apply BitVec.eq_of_toNat_eq
  exact toNat_byte b.isLt

theorem be16_nat16 (h l : Byte) : be16 (nat16 h l) = [h, l] := by
  have hh : nat16 h l / 256 = h.toNat := by
    have hl := l.isLt
    unfold nat16
    omega
  have hl : byte (nat16 h l) = l := by
    apply BitVec.eq_of_toNat_eq
    have hl := l.isLt
    rw [byte, BitVec.toNat_ofNat, nat16]
    omega
  rw [be16, hh, byte_toNat, hl]

theorem clamp_hysteresis (n : Nat) : min 1000 (max 50 n) = if n < 50 then 50 else if 1000 < n then 1000 else n := by
  split
  · omega
  · split <;> omega

theorem okOrClamped_bne (m n : Nat) : okOrClamped (m != n) = if m = n then Result.ok else .clamped := by
  by_cases h : m = n <;> simp [okOrClamped, h]

section
variable (s : State) (a b c d e f g h nf nr : Byte)

theorem reqTierSet_badField (hbad : ¬ tierFieldsOk (nat16 a b) (nat16 c d) (nat16 e f) nf.toNat nr.toNat = true) :
    reqTierSet s [a, b, c, d, e, f, g, h, nf, nr] = refusal s .badField :=
  if_neg hbad

theorem reqTierSet_ok (hok : tierFieldsOk (nat16 a b) (nat16 c d) (nat16 e f) nf.toNat nr.toNat = true) {hy : Nat}
    (hhy : hy = if nat16 g h < 50 then 50 else if 1000 < nat16 g h then 1000 else nat16 g h) :
    reqTierSet s [a, b, c, d, e, f, g, h, nf, nr] =
      (s.tierSettings (nat16 a b) (nat16 c d) (nat16 e f) hy nf.toNat nr.toNat,
        { result := if hy = nat16 g h then .ok else .clamped, payload := [a, b, c, d, e, f] ++ be16 hy ++ [nf, nr] }) := by
  rw [← clamp_hysteresis] at hhy
  subst hhy
  rw [reqTierSet, if_pos hok]
  dsimp only
  rw [okOrClamped_bne]
  simp only [Btm.settingsBytes, be16_nat16, byte_toNat, List.cons_append, List.nil_append, State.tierSettings]

end

/-- Settles O55. -/
theorem meterAndTierSettingsAreTaken : Obligations.MeterAndTierSettingsAreTaken := by
  intro s h
  refine ⟨fun a b c d e f g i nf nr hw => ?tier, fun a b c d hf => ⟨fun hbad => ?badMeter, fun hok => ?meter⟩⟩
  case tier =>
    have hf := not_linkFault hw.1 0x28
    have hk : s.lockRefuses 0x28 [a, b, c, d, e, f, g, i, nf, nr] = false := by
      unfold State.lockRefuses
      simp only [unlocked_of_writable hw, Bool.false_and]
    refine ⟨fun hbad => ?_, fun hok => ?_⟩
    · exact exec_of_owner_changed (c := .tierSet [a, b, c, d, e, f, g, i, nf, nr]) (t := s) rfl rfl h (by decide) rfl hf hk
        (reqTierSet_badField s.taken a b c d e f g i nf nr (fun hx => hbad (tierFieldsOk_iff.1 hx)))
    · exact exec_of_owner_changed (c := .tierSet [a, b, c, d, e, f, g, i, nf, nr]) (t := s.tierSettings ..) rfl rfl h (by decide) rfl hf hk
        (reqTierSet_ok s.taken a b c d e f g i nf nr (tierFieldsOk_iff.2 hok) rfl)
  case badMeter =>
    exact exec_of_owner_changed (c := .meterSet [a, b, c, d]) (t := s) rfl rfl h (by decide) rfl (not_linkFault hf _)
      (by simp [State.lockRefuses]) (if_neg (Nat.not_le.2 hbad))
  case meter =>
    exact exec_of_owner_changed (c := .meterSet [a, b, c, d]) (t := { s with chm.baseline := nat16 a b, chm.floorMah := nat16 c d })
      rfl rfl h (by decide) rfl (not_linkFault hf _) (by simp [State.lockRefuses]) (if_pos hok)

/-! ### LINE_UNMUTE -/

theorem reqLineUnmute_none (s : State) {i : Byte} (h : readLine i = none) : reqLineUnmute s [i] = refusal s .badField := by
  rw [reqLineUnmute, h]

theorem reqLineUnmute_free (s : State) {l : LineId} (h : (s.line l).mute = none) :
    reqLineUnmute s [byte l.val] = okay (s.updLine l (fun x => { x with window := none, nuisance := 0 })) := by
  rw [reqLineUnmute, readLine_byte]
  exact if_neg (by rw [h]; decide)

theorem reqLineUnmute_muted (s : State) {l : LineId} (h : (s.line l).mute.isSome = true) :
    reqLineUnmute s [byte l.val] = okay (s.endMute l .commanded).finish := by
  rw [reqLineUnmute, readLine_byte]
  exact if_pos h

/-- Requests that no check of LNK holds up. -/
theorem exec_of_free {c : Instr} {type : Byte} {p : List Byte} {s t : State} {a : Answer} (hc : requestOf c = some (type, p))
    (hw : c.wellFormed = true) (h : Listening s) (hne : type ≠ 0x7F) (hl : requestLength type = some p.length)
    (ht : writesTables type = false) (ha : carryOut s.taken type p = (t, a)) : exec c s = .next (t.sendReply (type + 0x80) a) :=
  exec_of_owner hc hw h hne hl (by rw [ht, Bool.and_false]) (lockRefuses_of_not_writesTables s ht p) ha

/-! ### The end of a mute (R63) -/

/-- The line with its mute, its window and both counters ended. -/
def Line.unmuted (x : Line) : Line := { x with mute := none, window := none, nuisance := 0, mutedTriggers := 0 }

theorem endMute_frame (s : State) (l : LineId) (c : UnmuteCause) : (s.endMute l c).frame = (s.updLine l Line.unmuted).frame :=
  updLine_frame (record_frame ..) l _

theorem endMute_resume (s : State) (l : LineId) (c : UnmuteCause) : (s.endMute l c).work.resume = s.work.resume :=
  record_resume s .lineUnmuted l.val c.code (some (s.line l).mutedTriggers)

theorem Holds.endMute {s : State} {es : List Event} (h : Holds es s) (hlen : es.length < 24) (l : LineId) (c : UnmuteCause) :
    Holds (es ++ [s.recordOf .lineUnmuted l.val c.code (some (s.line l).mutedTriggers)]) (s.endMute l c) :=
  (h.record hlen .lineUnmuted l.val c.code (some (s.line l).mutedTriggers)).same rfl rfl

/-- Settles O40. -/
theorem lineUnmuteEndsTheMute : Obligations.LineUnmuteEndsTheMute := by
  intro l s h
  refine ⟨fun i hi => ?badField, fun hmute => ?free, fun hmute => ?muted⟩
  case badField =>
    exact exec_of_free (c := .lineUnmute [i]) rfl rfl h (by decide) rfl rfl (reqLineUnmute_none s.taken (readLine_eq_none hi))
  case free =>
    exact exec_of_free (c := .lineUnmute [byte l.val]) rfl rfl h (by decide) rfl rfl (reqLineUnmute_free s.taken hmute)
  case muted =>
    refine ⟨_, exec_of_free (c := .lineUnmute [byte l.val]) rfl rfl h (by decide) rfl rfl (reqLineUnmute_muted s.taken hmute),
      sendReply_replies .., ?_, fun hroom => ?_⟩
    · have hresume : (s.taken.endMute l .commanded).work.resume = none := (endMute_resume s.taken l .commanded).trans h.resume
      exact (sendReply_frame ..).trans ((finish_frame hresume).trans (endMute_frame s.taken l .commanded))
    · have hlen : s.evq.events.length < 24 := hroom.2
      have hholds : Holds s.evq.events s.taken := Holds.start hroom
      have hkeeps := (hholds.endMute hlen l .commanded).keeps
      exact recorded_sendReply (Keeps.finish_recorded (s := s) hkeeps) _ _

/-! ### SESSION_EXTEND -/

/-- What a granted extension changes (R74, R115). -/
def State.extendedBy (s : State) (x : Session) (n cost : Nat) : State :=
  (s.updSession x.id (fun y => y.extended n cost)).lengthenWindows x.listening (n * 1000)

theorem lengthenWindows_taken (s : State) (ls : List LineId) (ms : Nat) : s.taken.lengthenWindows ls ms = (s.lengthenWindows ls ms).taken := by
  unfold State.lengthenWindows
  induction ls generalizing s with
  | nil => rfl
  | cons l ls ih =>
    rw [List.foldl_cons, List.foldl_cons]
    exact ih (s.updApproach l (fun a => { a with listen := a.listen.map (fun r => { r with window := r.window + ms }) }))

theorem extendedBy_taken (s : State) (x : Session) (n cost : Nat) : s.taken.extendedBy x n cost = (s.extendedBy x n cost).taken :=
  lengthenWindows_taken (s.updSession x.id (fun y => y.extended n cost)) x.listening (n * 1000)

theorem okOrClamped_lt (m n : Nat) : okOrClamped (decide (m < n)) = if m < n then Result.clamped else .ok := by
  by_cases h : m < n <;> simp [okOrClamped, h]

section
variable (s : State) {i a b : Byte} {x : Session}

theorem reqSessionExtend_zero : reqSessionExtend s [0, a, b] = (s, { result := .badField, payload := extendPayload 0 0 0 }) := rfl

variable (hi : i ≠ 0)
include hi

theorem reqSessionExtend_notFound (h : s.session? i.toNat = none) :
    reqSessionExtend s [i, a, b] = (s, { result := .notFound, payload := extendPayload 0 0 0 }) := by
  rw [reqSessionExtend, if_neg hi, h]

variable (h : s.session? i.toNat = some x) {n : Nat} (hn : n = grantedSeconds (s.cls x.cls) x (nat16 a b))
include h hn

theorem reqSessionExtend_nothing (hzero : n = 0) : reqSessionExtend s [i, a, b] =
    (s, { result := if n < nat16 a b then .clamped else .ok,
          payload := extendPayload 0 (secondsUp x.remaining) (tenths16 x.estimate) }) := by
  rw [reqSessionExtend, if_neg hi, h]
  dsimp only
  rw [← hn, if_pos hzero, okOrClamped_lt]

theorem reqSessionExtend_noCharge (hne : n ≠ 0) (hactive : x.active = true) (hfit : s.fits (s.cls x.cls) (s.sumCurrent x.set * n) = false) :
    reqSessionExtend s [i, a, b] = (s, { result := .noCharge, payload := extendPayload n 0 0 }) := by
  rw [reqSessionExtend, if_neg hi, h]
  dsimp only
  rw [← hn, if_neg hne, hactive, hfit]
  rfl

theorem reqSessionExtend_granted (hne : n ≠ 0) (hfit : x.active = true → s.fits (s.cls x.cls) (s.sumCurrent x.set * n) = true) :
    reqSessionExtend s [i, a, b] = (s.extendedBy x n (s.sumCurrent x.set * n),
      { result := if n < nat16 a b then .clamped else .ok,
        payload := extendPayload n (secondsUp (x.remaining + n * 1000))
          (tenths16 (if x.active then x.estimate + s.sumCurrent x.set * n else x.estimate)) }) := by
  have hpays : ¬ (x.active && !s.fits (s.cls x.cls) (s.sumCurrent x.set * n)) = true := by
    cases hactive : x.active
    · simp
    · simp [hfit hactive]
  rw [reqSessionExtend, if_neg hi, h]
  dsimp only
  rw [← hn, if_neg hne, if_neg hpays, okOrClamped_lt]
  rfl

end

/-- Settles O49: one equation for each outcome of the request. -/
theorem sessionIsExtended : Obligations.SessionIsExtended := by
  intro i a b s h
  have does : ∀ {t : State} {r : Result} {w : List Byte}, reqSessionExtend s.taken [i, a, b] = (t.taken, { result := r, payload := w }) →
      exec (.sessionExtend [i, a, b]) s = .next (t.answered 0x41 r w) :=
    fun ha => exec_of_free (c := .sessionExtend [i, a, b]) rfl rfl h (by decide) rfl rfl ha
  refine ⟨?zero, fun hi hx => does (reqSessionExtend_notFound s.taken hi hx), fun x hi hx => ?found⟩
  case zero =>
    rintro rfl
    exact does (reqSessionExtend_zero s.taken)
  case found =>
    refine ⟨fun hz => does (reqSessionExtend_nothing s.taken hi hx rfl hz),
      fun hne hactive hfit => does (reqSessionExtend_noCharge s.taken hi hx rfl hne hactive hfit), fun hne hactive hfit => ?_,
      fun hne hactive => ?_⟩
    · have ha := reqSessionExtend_granted s.taken hi hx (a := a) (b := b) rfl hne (fun _ => hfit)
      rw [extendedBy_taken, hactive] at ha
      exact does ha
    · have ha := reqSessionExtend_granted s.taken hi hx (a := a) (b := b) rfl hne (fun hx => absurd hx (by rw [hactive]; decide))
      rw [extendedBy_taken, hactive] at ha
      exact does ha

end Sys2Proof.Machine
end

section
/-! DOMAIN_SET (R17, R18, R180): its range checks, its refusals, and the entry that it writes. Settles O32. -/

namespace Sys2Proof.Machine

/-! ### The fields of a domain entry -/

theorem check_eq_none {α : Type} {ok : Bool} {a : α} : check ok a = none ↔ ok = false := by
  cases ok <;> simp [check]

theorem readParent_eq_none {d : DomId} {q : Byte} : readParent d q = none ↔ q ≠ 0xFF ∧ d.val ≤ q.toNat := by
  unfold readParent readDom
  by_cases hno : q = 0xFF
  · simp [hno]
  · rw [if_neg hno]
    by_cases hdom : q.toNat < 12
    · simpa [hdom] using fun _ => hno
    · have hd : d.val ≤ q.toNat := by omega
      simpa [hdom, hd] using hno

theorem readDomainEntry_eq_none (d : DomId) (f c1 c0 q t1 t0 h pr rd : Byte) :
    readDomainEntry d [f, c1, c0, q, t1, t0, h, pr, rd] = none ↔
      20000 < nat16 c1 c0 ∨ 3 < pr.toNat ∨ rd.toNat = 0 ∨ 60 < rd.toNat ∨ (q ≠ 0xFF ∧ d.val ≤ q.toNat) := by
  rw [readDomainEntry, Option.bind_eq_none_iff]
  simp only [check_eq_none, Bool.and_eq_false_iff, decide_eq_false_iff_not]
  rw [← readParent_eq_none]
  cases hparent : readParent d q with
  | none => simp
  | some parent =>
    simp only [reduceCtorEq, or_false, Option.some.injEq, forall_eq']
    omega

/-! ### The refusals that read the tree -/

/-- The write would break the tree (R17). -/
def State.breaksTree (s : State) (d : DomId) (e : DomainEntry) : Prop :=
  (e.enabled = true ∧ ∃ q, e.parent = some q ∧ (s.dom q).entry.enabled = false) ∨
    (e.enabled = false ∧ ∃ c, c ≠ d ∧ (s.dom c).entry.enabled = true ∧ (s.dom c).entry.parent = some d)

theorem treeRefuses_iff (s : State) (d : DomId) (e : DomainEntry) : s.treeRefuses d e = true ↔ s.breaksTree d e := by
  unfold State.treeRefuses State.breaksTree
  cases hen : e.enabled
  · simp [List.any_eq_true, mem_domIds, and_assoc]
  · cases hparent : e.parent <;> simp

/-- The write would change what R18 holds while the domain is active. -/
def State.changesActive (s : State) (d : DomId) (e : DomainEntry) : Prop :=
  (s.dom d).state ≠ .off ∧ (e.enabled ≠ (s.dom d).entry.enabled ∨ e.alwaysOn ≠ (s.dom d).entry.alwaysOn ∨ e.parent ≠ (s.dom d).entry.parent)

theorem changesActive_iff (s : State) (d : DomId) (e : DomainEntry) :
    ((s.dom d).state != .off && changesTree (s.dom d).entry e) = true ↔ s.changesActive d e := by
  simp only [changesTree, State.changesActive, Bool.and_eq_true, Bool.or_eq_true, bne_iff_ne, or_assoc]
  rw [ne_comm (a := e.enabled), ne_comm (a := e.alwaysOn), ne_comm (a := e.parent)]

theorem clampRamp_eq (n : Nat) : clampRamp n = if n = 0 then 1 else if 2000 < n then 2000 else n := by
  unfold clampRamp
  split
  · omega
  · split <;> omega

theorem okOrClamped_clampRamp (n : Nat) : okOrClamped (clampRamp n != n) = if n = 0 ∨ 2000 < n then Result.clamped else .ok := by
  have hne : (clampRamp n != n) = decide (n = 0 ∨ 2000 < n) := by
    rw [Bool.eq_iff_iff, bne_iff_ne, decide_eq_true_iff]
    unfold clampRamp
    omega
  rw [hne]
  by_cases h : n = 0 ∨ 2000 < n <;> simp [okOrClamped, h]

section
variable (s : State) (p : List Byte) {d : DomId}

theorem reqDomainSet_noDomain {i : Byte} (h : readDom i = none) : reqDomainSet s (i :: p) = refusal s .badField := by
  rw [reqDomainSet, h]

theorem reqDomainSet_badField (h : readDomainEntry d p = none) : reqDomainSet s (byte d.val :: p) = refusal s .badField := by
  rw [reqDomainSet, readDom_byte]
  dsimp only
  rw [h]

variable {e : DomainEntry} (h : readDomainEntry d p = some e)
include h

theorem reqDomainSet_breaks (hbreaks : s.breaksTree d e) : reqDomainSet s (byte d.val :: p) = refusal s .badField := by
  rw [reqDomainSet, readDom_byte]
  dsimp only
  rw [h]
  exact if_pos ((treeRefuses_iff s d e).2 hbreaks)

variable (hbreaks : ¬ s.breaksTree d e)
include hbreaks

theorem reqDomainSet_active (hactive : s.changesActive d e) : reqDomainSet s (byte d.val :: p) = refusal s .domainActive := by
  rw [reqDomainSet, readDom_byte]
  dsimp only
  rw [h]
  dsimp only
  rw [if_neg (fun hx => hbreaks ((treeRefuses_iff s d e).1 hx))]
  exact if_pos ((changesActive_iff s d e).2 hactive)

theorem reqDomainSet_written (hactive : ¬ s.changesActive d e) : reqDomainSet s (byte d.val :: p) =
    ((s.updDom d (fun x => { x with entry := { e with rampTimeout := clampRamp e.rampTimeout } })).demandChanged.finish,
      { result := okOrClamped (clampRamp e.rampTimeout != e.rampTimeout), payload := [] }) := by
  rw [reqDomainSet, readDom_byte]
  dsimp only
  rw [h]
  dsimp only
  rw [if_neg (fun hx => hbreaks ((treeRefuses_iff s d e).1 hx))]
  exact if_neg (fun hx => hactive ((changesActive_iff s d e).1 hx))

end

/-- An event that ends after DMC has settled a change of demand changes no more of the frame. -/
theorem demandChanged_finish_frame {s : State} (h : s.work.resume = none) : s.demandChanged.finish.frame = s.frame :=
  (finish_frame ((noted_resume (demandChanged_noted s)).trans h)).trans (demandChanged_frame s)

/-- Settles O32. -/
theorem domainSetIsTaken : Obligations.DomainSetIsTaken := by
  intro d p s h hp
  have hlength : ∀ i : Byte, requestLength 0x10 = some (i :: p).length := fun i => by
    rw [List.length_cons, hp]
    rfl
  have hfits : ∀ i : Byte, (Instr.domainSet (i :: p)).wellFormed = true := fun i => by
    simp [Instr.wellFormed, payloadFits, hp]
  refine ⟨?fields, fun i hf hi => ?noDomain, fun hw => ?writable⟩
  case fields =>
    rintro f c1 c0 q t1 t0 i pr rd rfl
    exact readDomainEntry_eq_none d f c1 c0 q t1 t0 i pr rd
  case noDomain =>
    exact exec_of_owner_changed (t := s) rfl (hfits i) h (by decide) (hlength i) (not_linkFault hf _)
      (lockRefuses_noDomain s p (readDom_eq_none hi)) (reqDomainSet_noDomain s.taken p (readDom_eq_none hi))
  case writable =>
    have hk : s.lockRefuses 0x10 (byte d.val :: p) = false :=
      (lockRefuses_domain s p (readDom_byte d)).trans (unlocked_of_entryWritable hw)
    have does : ∀ {t : State} {a : Answer}, reqDomainSet s.taken (byte d.val :: p) = (t, a) →
        exec (.domainSet (byte d.val :: p)) s = .next (t.sendReply (0x10 + 0x80) a) :=
      fun ha => exec_of_owner rfl (hfits _) h (by decide) (hlength _) (not_linkFault hw.1 _) hk ha
    refine ⟨fun hread => does (reqDomainSet_badField s.taken p hread), fun e hread => ⟨fun hbroken => ?_, fun hbroken hactive => ?_,
      fun hbroken hactive => ⟨_, does (reqDomainSet_written s.taken p hread hbroken hactive), ?_, ?_⟩⟩⟩
    · exact does (reqDomainSet_breaks s.taken p hread hbroken)
    · exact does (reqDomainSet_active s.taken p hread hbroken hactive)
    · rw [← okOrClamped_clampRamp]
      exact sendReply_replies ..
    · rw [← clampRamp_eq]
      exact (sendReply_frame ..).trans (demandChanged_finish_frame h.resume)

end Sys2Proof.Machine
end

section
/-! The closing of sessions (R117, R118): what it leaves of the frame, its records in table order, and what it puts off to the end of the
event. What CLASS_SET, RESERVE_ADJUST and the mode changes rest on. -/

namespace Sys2Proof.Machine

/-! ### The session of an id -/

theorem session_some {s : State} {id : Nat} {x : Session} (h : s.session? id = some x) : x ∈ s.ssc.sessions ∧ x.id = id := by
  unfold State.session? at h
  exact ⟨List.mem_of_find?_eq_some h, by simpa using List.find?_some h⟩

theorem eq_of_id {l : List Session} (h : (l.map Session.id).Nodup) {x y : Session} (hx : x ∈ l) (hy : y ∈ l) (he : x.id = y.id) :
    x = y := List.inj_on_of_nodup_map h hx hy he

theorem session_of_mem {s : State} (h : (s.ssc.sessions.map Session.id).Nodup) {x : Session} (hx : x ∈ s.ssc.sessions) :
    s.session? x.id = some x := by
  cases hfound : s.session? x.id with
  | none =>
    rw [State.session?, List.find?_eq_none] at hfound
    exact absurd (beq_self_eq_true x.id) (hfound x hx)
  | some y =>
    obtain ⟨hy, hid⟩ := session_some hfound
    rw [eq_of_id h hy hx hid]

/-! ### Approach records -/

theorem updApproach_frame {s t : State} (h : t.frame = s.frame) (l : LineId) (f : Approach → Approach) :
    (t.updApproach l f).frame = (s.updApproach l f).frame := by
  have hd : (t.updApproach l f).deep = (s.updApproach l f).deep := frame_deep (t := t) (s := s) h
  have ht : (t.updApproach l f).table = (s.updApproach l f).table := frame_table (t := t) (s := s) h
  refine frame_of hd ht ?_
  have hapq := frame_apq h
  have hl : t.approach l = s.approach l := by
    unfold State.approach
    rw [hapq]
  unfold State.updApproach
  rw [hl, hapq]

theorem idleLines_frame {s t : State} (h : t.frame = s.frame) (ls : List LineId) : (t.idleLines ls).frame = (s.idleLines ls).frame := by
  unfold State.idleLines
  induction ls generalizing s t with
  | nil => exact h
  | cons l ls ih => exact ih (updApproach_frame h l _)

theorem idleLines_noted (s : State) (ls : List LineId) : (s.idleLines ls).noted = s.noted :=
  foldl_keeps State.noted State.idleLine (fun _ _ => rfl) ls s

/-! ### One closing -/

/-- The state without this session, its lines IDLE (R117 steps 2 and 3). -/
def State.left (s : State) (x : Session) : State :=
  State.idleLines { s with ssc.sessions := s.ssc.sessions.filter (fun y => y.id != x.id) } x.listening

/-- The state after a withdrawal of demands, of an active session or of a SUSPENDED one (R117 step 1). -/
def State.withdrawn (s : State) (active : Bool) : State := if active then s.demandChanged else s.refreshSub

/-- A closing up to what it puts off to the end of the event. -/
def State.closedRecord (s : State) (x : Session) (why : CloseReason) : State :=
  ((State.withdrawn { s with ssc.sessions := s.ssc.sessions.filter (fun y => y.id != x.id) } x.active).idleLines x.listening).record
    .sessionClosed x.id why.code (some (tenths16 x.drawn))

theorem closeSession_eq {s : State} {x : Session} (h : s.session? x.id = some x) (why : CloseReason) :
    s.closeSession x.id why = (s.closedRecord x why).noteClosed x.id := by
  unfold State.closeSession
  rw [h]
  rfl

theorem noteClosed_frame (s : State) (id : Nat) : (s.noteClosed id).frame = s.frame := by
  unfold State.noteClosed
  dsimp only
  (repeat' split) <;> rfl

theorem noteClosed_evq (s : State) (id : Nat) : (s.noteClosed id).evq = s.evq := by
  unfold State.noteClosed
  dsimp only
  (repeat' split) <;> rfl

section
variable {s : State} {x : Session}

theorem withdrawn_frame (t : State) (b : Bool) : (t.withdrawn b).frame = t.frame := by
  unfold State.withdrawn
  split
  · exact demandChanged_frame t
  · exact refreshSub_frame t

theorem withdrawn_noted (t : State) (b : Bool) : (t.withdrawn b).noted = t.noted := by
  unfold State.withdrawn
  split
  · exact demandChanged_noted t
  · exact refreshSub_noted t

theorem withdrawn_ssc (t : State) (b : Bool) : (t.withdrawn b).ssc = t.ssc := by
  unfold State.withdrawn
  split
  · exact demandChanged_ssc t
  · exact refreshSub_ssc t

theorem closedRecord_frame (why : CloseReason) : (s.closedRecord x why).frame = (s.left x).frame :=
  (record_frame ..).trans (idleLines_frame (withdrawn_frame _ x.active) x.listening)

/-- A closing leaves the frame as the session's leaving the table leaves it. -/
theorem closeSession_frame (h : s.session? x.id = some x) (why : CloseReason) : (s.closeSession x.id why).frame = (s.left x).frame := by
  rw [closeSession_eq h]
  exact (noteClosed_frame ..).trans (closedRecord_frame why)

theorem withdrawn_left_noted (s : State) (x : Session) :
    ((State.withdrawn { s with ssc.sessions := s.ssc.sessions.filter (fun y => y.id != x.id) } x.active).idleLines x.listening).noted =
      s.noted :=
  (idleLines_noted _ x.listening).trans (withdrawn_noted { s with ssc.sessions := s.ssc.sessions.filter (fun y => y.id != x.id) } x.active)

theorem withdrawn_left_seconds (s : State) (x : Session) :
    ((State.withdrawn { s with ssc.sessions := s.ssc.sessions.filter (fun y => y.id != x.id) } x.active).idleLines
      x.listening).wsc.seconds = s.wsc.seconds := by
  have hwithdrawn := withdrawn_frame { s with ssc.sessions := s.ssc.sessions.filter (fun y => y.id != x.id) } x.active
  exact congrArg Wsc.seconds ((frame_wsc (idleLines_frame hwithdrawn x.listening)).trans
    (congrArg (fun d => d.2.2) (idleLines_deep { s with ssc.sessions := s.ssc.sessions.filter (fun y => y.id != x.id) } x.listening)))

theorem Holds.closeSession {es : List Event} (hs : Holds es s) (hlen : es.length < 24) (h : s.session? x.id = some x) (why : CloseReason) :
    Holds (es ++ [s.closing why.code x]) (s.closeSession x.id why) := by
  rw [closeSession_eq h]
  have hrecord := (hs.noted (withdrawn_left_noted s x)).record hlen .sessionClosed x.id why.code (some (tenths16 x.drawn))
  rw [recordOf_congr (withdrawn_left_seconds s x)] at hrecord
  have hevq := noteClosed_evq (s.closedRecord x why) x.id
  exact hrecord.same (congrArg Evq.events hevq) (congrArg Evq.policy hevq)

theorem closedRecord_resume (why : CloseReason) : (s.closedRecord x why).work.resume = s.work.resume :=
  (record_resume ..).trans (noted_resume (withdrawn_left_noted s x))

theorem closedRecord_sessions (why : CloseReason) :
    (s.closedRecord x why).ssc.sessions = s.ssc.sessions.filter (fun y => y.id != x.id) := by
  unfold State.closedRecord
  rw [record_ssc, idleLines_ssc, withdrawn_ssc]

/-- A closing puts nothing off when no session waits for the closed one. -/
theorem closeSession_resume (h : s.session? x.id = some x) (why : CloseReason) (hwork : s.work.resume = none)
    (hnone : ∀ y ∈ s.ssc.sessions, y.suspendedBy ≠ some x.id) : (s.closeSession x.id why).work.resume = none := by
  rw [closeSession_eq h]
  have hresume : (s.closedRecord x why).work.resume = none := (closedRecord_resume why).trans hwork
  have hfind : (s.closedRecord x why).ssc.sessions.find? (fun y => y.suspendedBy == some x.id) = none := by
    rw [closedRecord_sessions, List.find?_eq_none]
    intro y hy
    simpa using hnone y (List.mem_of_mem_filter hy)
  unfold State.noteClosed
  simp only [hresume, hfind]

end

/-! ### Closings in table order -/

/-- Sessions of distinct ids that are closed one after the other leave their records in that order (R118). -/
theorem Holds.closeAll {s : State} {es : List Event} (xs : List Session) (why : CloseReason) (hs : Holds es s)
    (hids : (s.ssc.sessions.map Session.id).Nodup) (hxs : (xs.map Session.id).Nodup) (hmem : ∀ x ∈ xs, x ∈ s.ssc.sessions)
    (hroom : es.length + xs.length ≤ 24) :
    Holds (es ++ xs.map (s.closing why.code)) (xs.foldl (fun s x => s.closeSession x.id why) s) := by
  induction xs generalizing s es with
  | nil => simpa using hs
  | cons x xs ih =>
    rw [List.length_cons] at hroom
    obtain ⟨hnew, hxs'⟩ := List.nodup_cons.1 hxs
    have hclosed := hs.closeSession (by omega) (session_of_mem hids (hmem x List.mem_cons_self)) why
    have hsessions := closeSession_sessions s x.id why
    have hmem' : ∀ y ∈ xs, y ∈ (s.closeSession x.id why).ssc.sessions := by
      intro y hy
      rw [hsessions, List.mem_filter]
      refine ⟨hmem y (List.mem_cons_of_mem _ hy), ?_⟩
      simp only [bne_iff_ne]
      exact fun he => hnew (List.mem_map.2 ⟨y, hy, he⟩)
    have hids' : ((s.closeSession x.id why).ssc.sessions.map Session.id).Nodup := by
      rw [hsessions]
      exact hids.sublist (List.filter_sublist.map _)
    have hclosing : (s.closeSession x.id why).closing why.code = s.closing why.code := by
      funext y
      exact recordOf_congr (congrArg (fun d : Base × Wlu × Wsc => d.2.2.seconds) (closeSession_deep s x.id why)) ..
    have hrest := ih hclosed hids' hxs' hmem' (by
      rw [List.length_append]
      simp only [List.length_cons, List.length_nil]
      omega)
    rw [hclosing] at hrest
    simpa [List.append_assoc] using hrest

theorem Holds.closeWhere {s : State} {es : List Event} (hs : Holds es s) (h : SessionsSound s) (p : Session → Bool) (why : CloseReason)
    (hroom : es.length + (s.ssc.sessions.filter p).length ≤ 24) :
    Holds (es ++ (s.ssc.sessions.filter p).map (s.closing why.code)) (s.closeWhere p why) :=
  hs.closeAll _ why h.ids (h.ids.sublist (List.filter_sublist.map _)) (fun _ hx => List.mem_of_mem_filter hx) hroom

theorem closeAll_sessions (xs : List Session) (why : CloseReason) (s : State) :
    (xs.foldl (fun s x => s.closeSession x.id why) s).ssc.sessions =
      s.ssc.sessions.filter (fun y => !(xs.map Session.id).contains y.id) := by
  induction xs generalizing s with
  | nil => simp
  | cons x xs ih =>
    rw [List.foldl_cons, ih, closeSession_sessions, List.filter_filter]
    refine List.filter_congr (fun y hy => ?_)
    simp only [List.map_cons, List.contains_cons, Bool.not_or, bne, Bool.and_comm]

/-- No session that satisfies p is left where those that do are closed. -/
theorem not_of_mem_closeWhere {s : State} {p : Session → Bool} {why : CloseReason} {y : Session}
    (hy : y ∈ (s.closeWhere p why).ssc.sessions) : y ∈ s.ssc.sessions ∧ p y = false := by
  unfold State.closeWhere at hy
  rw [closeAll_sessions, List.mem_filter] at hy
  obtain ⟨hmem, hnot⟩ := hy
  refine ⟨hmem, ?_⟩
  by_contra hp
  rw [Bool.not_eq_false] at hp
  have hin : y.id ∈ (s.ssc.sessions.filter p).map Session.id := List.mem_map.2 ⟨y, List.mem_filter.2 ⟨hmem, hp⟩, rfl⟩
  simp only [Bool.not_eq_true', List.contains_eq_mem, decide_eq_false_iff_not] at hnot
  exact hnot hin

/-! ### The ids and classes at an event's end -/

theorem updSession_keys (s : State) (id : Nat) (f : Session → Session) (hid : ∀ x, (f x).id = x.id) (hcls : ∀ x, (f x).cls = x.cls) :
    (s.updSession id f).keys = s.keys := by
  unfold State.keys State.updSession
  simp only [List.map_map]
  refine List.map_congr_left (fun x _ => ?_)
  simp only [Function.comp]
  split
  · rw [hid, hcls]
  · rfl

theorem keys_of_ssc {s t : State} (h : t.ssc = s.ssc) : t.keys = s.keys := by
  unfold State.keys
  rw [h]

theorem keysWithin_of_eq {s t : State} (h : t.keys = s.keys) : t.keys.Sublist s.keys := by
  rw [h]

theorem resume_keys (s : State) (r : Resume) : (s.resume r).keys.Sublist s.keys := by
  unfold State.resume
  split
  · exact List.Sublist.refl _
  · next x hx =>
    split
    · exact List.Sublist.refl _
    · dsimp only
      split
      · rw [keys_of_ssc ((record_ssc ..).trans (demandChanged_ssc _))]
        refine keysWithin_of_eq (updSession_keys s x.id _ ?_ ?_) <;> exact fun _ => rfl
      · refine (closeSession_keys ..).trans (keysWithin_of_eq (updSession_keys s x.id _ ?_ ?_)) <;> exact fun _ => rfl

theorem resumeNow_keys (s : State) : s.resumeNow.keys.Sublist s.keys := by
  unfold State.resumeNow
  split
  · exact resume_keys { s with work.resume := none } _
  · exact List.Sublist.refl _

theorem refreshSessions_keys (s : State) : s.refreshSessions.keys = s.keys := by
  unfold State.keys State.refreshSessions
  simp only [List.map_map]
  rfl

theorem Domestic.keysWithin (ks : List (Nat × ClassId)) : Domestic (fun t => t.keys.Sublist ks) where
  setState := setState_keeps (fun _ _ _ h => h) (fun _ _ h => h) (fun _ h => h) (fun _ h => h)
  dom _ _ _ _ h := h
  rmp _ _ h := h
  d0Held _ _ h := h
  work _ _ h := h
  record s k a b v _ h := by
    rw [keys_of_ssc (record_ssc s k a b v)]
    exact h
  sub _ _ h := h
  chm _ _ h := h

/-- An event's end brings no session into the table. -/
theorem finish_keys (s : State) : s.finish.keys.Sublist s.keys :=
  (Domestic.keysWithin s.keys).finish (resumeNow_keys s)
    (fun t ht => by rw [refreshSessions_keys]; exact ht)
    (fun t ht => by rw [keys_of_ssc (refreshAttn_ssc t).1]; exact ht)

/-- Every session at the event's end has the id and class of one before it. -/
theorem exists_of_mem_finish {s : State} {y : Session} (h : y ∈ s.finish.ssc.sessions) : ∃ x ∈ s.ssc.sessions, x.id = y.id ∧ x.cls = y.cls := by
  have hkey : (y.id, y.cls) ∈ s.finish.keys := List.mem_map.2 ⟨y, h, rfl⟩
  obtain ⟨x, hx, he⟩ := List.mem_map.1 ((finish_keys s).subset hkey)
  exact ⟨x, hx, congrArg Prod.fst he, congrArg Prod.snd he⟩

end Sys2Proof.Machine
end

section
/-! CLASS_SET (R80, R81, R123, R180) and RESERVE_ADJUST (R131, R138). Settles O44 and O56. -/

namespace Sys2Proof.Machine

/-! ### The fields of a class entry -/

theorem readSet_eq_none {h l : Byte} : readSet h l = none ↔ 4096 ≤ nat16 h l := by
  by_cases hin : nat16 h l < 4096
  · simp [readSet, hin]
  · simpa [readSet, hin] using Nat.not_lt.1 hin

theorem readProfile_eq_none {b : Bool} {h l : Byte} {n : Nat} : readProfile b h l n = none ↔ b = true ∧ 4096 ≤ nat16 h l := by
  cases b
  · simp [readProfile]
  · simp [readProfile, readSet_eq_none]

theorem profileOk_of_read {b : Bool} {h l : Byte} {n : Nat} {p : Option ProfileSpec} (hp : readProfile b h l n = some p) (ok : Nat → Bool) :
    profileOk p ok = (!b || ok n) := by
  cases b
  · cases hp
    rfl
  · obtain ⟨S, -, rfl⟩ := Option.map_eq_some_iff.1 hp
    rfl

theorem enumAt_tier_eq_none {b : Byte} : enumAt [Tier.normal, .conserve, .critical, .cutoff] b = none ↔ 3 < b.toNat := by
  rw [enumAt, List.getElem?_eq_none_iff]
  exact Iff.rfl

theorem readClassEntry_eq_none (f pr mt fs1 fs0 fd1 fd0 rs1 rs0 rd1 rd0 ls1 ls0 lw o1 o0 cc1 cc0 md1 md0 el1 el0 sl1 sl0 : Byte) :
    readClassEntry [f, pr, mt, fs1, fs0, fd1, fd0, rs1, rs0, rd1, rd0, ls1, ls0, lw, o1, o0, cc1, cc0, md1, md0, el1, el0, sl1, sl0] =
        none ↔
      7 < pr.toNat ∨ 3 < mt.toNat ∨ 4096 ≤ nat16 fs1 fs0 ∨ nat16 fd1 fd0 = 0 ∨ 3600 < nat16 fd1 fd0 ∨
      (f.getLsbD 5 = true ∧
        (4096 ≤ nat16 rs1 rs0 ∨ nat16 rd1 rd0 = 0 ∨ 3600 < nat16 rd1 rd0 ∨ nat16 md1 md0 < nat16 rd1 rd0)) ∨
      (f.getLsbD 6 = true ∧ (4096 ≤ nat16 ls1 ls0 ∨ lw.toNat = 0)) ∨ nat16 cc1 cc0 = 0 ∨ nat16 md1 md0 = 0 ∨ 7200 < nat16 md1 md0 ∨
      nat16 md1 md0 < nat16 fd1 fd0 ∨ 3600 < nat16 el1 el0 ∨ 3600 < nat16 sl1 sl0 := by
  rw [readClassEntry]
  have hreduced := readProfile_eq_none (b := flag f 5) (h := rs1) (l := rs0) (n := nat16 rd1 rd0)
  have hlisten := readProfile_eq_none (b := flag f 6) (h := ls1) (l := ls0) (n := lw.toNat)
  have hfull := readSet_eq_none (h := fs1) (l := fs0)
  have htier := enumAt_tier_eq_none (b := mt)
  unfold flag at *
  cases ht : enumAt [Tier.normal, .conserve, .critical, .cutoff] mt with
  | none =>
    rw [ht] at htier
    simp [htier.1 rfl]
  | some tier =>
    cases hs : readSet fs1 fs0 with
    | none =>
      rw [hs] at hfull
      simp [hfull.1 rfl]
    | some set =>
      cases hr : readProfile (f.getLsbD 5) rs1 rs0 (nat16 rd1 rd0) with
      | none =>
        rw [hr] at hreduced
        simp [hreduced.1 rfl]
      | some reduced =>
        cases hl : readProfile (f.getLsbD 6) ls1 ls0 lw.toNat with
        | none =>
          rw [hl] at hlisten
          simp [hlisten.1 rfl]
        | some listen =>
          rw [ht] at htier
          rw [hs] at hfull
          rw [hr] at hreduced
          rw [hl] at hlisten
          simp only [reduceCtorEq, false_iff] at htier hfull hreduced hlisten
          simp only [Option.bind_some, check_eq_none, profileOk_of_read hr, profileOk_of_read hl, Bool.and_eq_false_iff,
            Bool.or_eq_false_iff, decide_eq_false_iff_not, Bool.not_eq_false']
          cases h5 : f.getLsbD 5 <;> cases h6 : f.getLsbD 6 <;>
            simp only [h5, h6, Bool.false_eq_true, true_and, false_and, false_or, or_false] at hreduced hlisten ⊢ <;>
            omega

/-! ### CLASS_SET -/

/-- The session stands SUSPENDED for as long as this entry of its class allows (R123). -/
def outstays (c : ClassId) (e : ClassEntry) (x : Session) : Prop :=
  x.cls = c ∧ x.active = false ∧ e.suspensionLimit ≠ 0 ∧ e.suspensionLimit * 1000 ≤ x.suspendedFor.getD 0

theorem setClass_cls_self (s : State) (c : ClassId) (e : ClassEntry) : (s.setClass c e).cls c = e := by
  simp [State.setClass, State.cls]

theorem overSuspended_test (s : State) (c : ClassId) (x : Session) :
    (x.cls == c && !x.active && (s.cls c).suspensionLimit != 0 &&
      decide ((s.cls c).suspensionLimit * 1000 ≤ x.suspendedFor.getD 0)) = true ↔ outstays c (s.cls c) x := by
  simp [outstays, and_assoc]

theorem overSuspended_none {s : State} {c : ClassId} {e : ClassEntry} (he : s.cls c = e) (h : ∀ x ∈ s.ssc.sessions, ¬ outstays c e x) :
    s.overSuspended c = none := by
  rw [State.overSuspended, List.find?_eq_none]
  intro x hx htest
  exact h x hx (he ▸ (overSuspended_test s c x).1 htest)

theorem overSuspended_some {s : State} {c : ClassId} {e : ClassEntry} (he : s.cls c = e)
    (hclasses : (s.ssc.sessions.map Session.cls).Nodup) {x : Session} (hx : x ∈ s.ssc.sessions) (h : outstays c e x) :
    s.overSuspended c = some x := by
  cases hfound : s.overSuspended c with
  | none =>
    rw [State.overSuspended, List.find?_eq_none] at hfound
    exact absurd ((overSuspended_test s c x).2 (he ▸ h)) (hfound x hx)
  | some y =>
    have hy := List.mem_of_find?_eq_some hfound
    rw [State.overSuspended] at hfound
    have htest := List.find?_some hfound
    obtain ⟨hcls, -⟩ := (overSuspended_test s c y).1 htest
    rw [List.inj_on_of_nodup_map hclasses hy hx (hcls.trans h.1.symm)]

section
variable (s : State) (p : List Byte) {c : ClassId}

theorem reqClassSet_noClass {i : Byte} (h : readClass i = none) : reqClassSet s (i :: p) = refusal s .badField := by
  rw [reqClassSet, h]

theorem reqClassSet_badField (h : readClassEntry p = none) : reqClassSet s (byte c.val :: p) = refusal s .badField := by
  rw [reqClassSet, readClass_byte]
  dsimp only
  rw [h]

variable {e : ClassEntry} (h : readClassEntry p = some e)
include h

theorem reqClassSet_tier (htier : e.minTier ≠ (s.cls c).minTier) (hx : (s.sessionOf? c).isSome = true) :
    reqClassSet s (byte c.val :: p) = refusal s .badField := by
  rw [reqClassSet, readClass_byte]
  dsimp only
  rw [h]
  exact if_pos (by simp [htier, hx])

variable (htier : e.minTier = (s.cls c).minTier ∨ s.sessionOf? c = none)
include htier

theorem reqClassSet_taken : reqClassSet s (byte c.val :: p) =
    match (s.setClass c e).overSuspended c with
    | some x => okay ((s.setClass c e).closeSession x.id .expired).finish
    | none => okay (s.setClass c e) := by
  rw [reqClassSet, readClass_byte]
  dsimp only
  rw [h]
  refine if_neg ?_
  rcases htier with heq | hnone
  · simp [heq]
  · simp [hnone]

theorem reqClassSet_written (hn : ∀ x ∈ s.ssc.sessions, ¬ outstays c e x) :
    reqClassSet s (byte c.val :: p) = okay (s.setClass c e) := by
  rw [reqClassSet_taken s p h htier, overSuspended_none (setClass_cls_self s c e) hn]

theorem reqClassSet_expired (hclasses : (s.ssc.sessions.map Session.cls).Nodup) {x : Session} (hx : x ∈ s.ssc.sessions)
    (hout : outstays c e x) :
    reqClassSet s (byte c.val :: p) = okay ((s.setClass c e).closeSession x.id .expired).finish := by
  rw [reqClassSet_taken s p h htier, overSuspended_some (s := s.setClass c e) (setClass_cls_self s c e) hclasses hx hout]

end

theorem base_cls {s t : State} (h : t.base = s.base) (c : ClassId) : t.cls c = s.cls c :=
  congrArg (fun b : Base => b.adm.classes[c.val]) h

/-- A closed session's id is in the table no more at the event's end. -/
theorem closed_at_finish {s : State} {id : Nat} {why : CloseReason} {y : Session} (h : y ∈ (s.closeSession id why).finish.ssc.sessions) :
    y.id ≠ id := by
  obtain ⟨x, hx, hid, -⟩ := exists_of_mem_finish h
  rw [closeSession_sessions] at hx
  rw [← hid]
  simpa using (List.mem_filter.1 hx).2

theorem sendReply_base (s : State) (type : Byte) (a : Answer) : (s.sendReply type a).base = s.base := rfl

/-- Settles O44. -/
theorem classSetIsTaken : Obligations.ClassSetIsTaken := by
  intro c p s h hp
  have hlength : ∀ i : Byte, requestLength 0x20 = some (i :: p).length := fun i => by
    rw [List.length_cons, hp]
    rfl
  have hfits : ∀ i : Byte, (Instr.classSet (i :: p)).wellFormed = true := fun i => by
    simp [Instr.wellFormed, payloadFits, hp]
  refine ⟨?fields, fun i hf hi => ?noClass, fun hw => ?writable⟩
  case fields =>
    rintro f pr mt fs1 fs0 fd1 fd0 rs1 rs0 rd1 rd0 ls1 ls0 lw o1 o0 cc1 cc0 md1 md0 el1 el0 sl1 sl0 rfl
    exact readClassEntry_eq_none ..
  case noClass =>
    exact exec_of_owner_changed (t := s) rfl (hfits i) h (by decide) (hlength i) (not_linkFault hf _)
      (lockRefuses_noClass s p (readClass_eq_none hi)) (reqClassSet_noClass s.taken p (readClass_eq_none hi))
  case writable =>
    have hk : s.lockRefuses 0x20 (byte c.val :: p) = false :=
      (lockRefuses_class s p (readClass_byte c)).trans (unlocked_of_entryWritable hw)
    have does : ∀ {t : State} {a : Answer}, reqClassSet s.taken (byte c.val :: p) = (t, a) →
        exec (.classSet (byte c.val :: p)) s = .next (t.sendReply (0x20 + 0x80) a) :=
      fun ha => exec_of_owner rfl (hfits _) h (by decide) (hlength _) (not_linkFault hw.1 _) hk ha
    refine ⟨fun hread => does (reqClassSet_badField s.taken p hread), fun e hread => ⟨fun htier hx => ?_, fun htier =>
      ⟨fun hn => ?_, fun x hx hs hout => ?_⟩⟩⟩
    · exact does (reqClassSet_tier s.taken p hread htier hx)
    · exact does (reqClassSet_written s.taken p hread htier hn)
    · refine ⟨_, does (reqClassSet_expired s.taken p hread htier hs.classes hx hout), sendReply_replies .., ?_,
        fun y hy => ?_, fun hroom => ?_⟩
      · have hbase : ((s.taken.setClass c e).closeSession x.id .expired).finish.base = (s.taken.setClass c e).base :=
          (finish_base _).trans (closeSession_base ..)
        exact (base_cls ((sendReply_base ..).trans hbase) c).trans (setClass_cls_self s c e)
      · rw [sendReply_ssc] at hy
        exact closed_at_finish hy
      · have hstart : Holds s.evq.events (s.taken.setClass c e) := Holds.start hroom
        have hclosed := hstart.closeSession hroom.2 (session_of_mem (s := s.taken.setClass c e) hs.ids hx) .expired
        have hkeeps : Keeps (s.evq.events ++ [s.recordOf .sessionClosed x.id 1 (some (tenths16 x.drawn))])
            ((s.taken.setClass c e).closeSession x.id .expired) := hclosed.keeps
        exact recorded_sendReply (Keeps.finish_recorded (s := s) hkeeps) _ _

/-! ### RESERVE_ADJUST -/

/-- The reserve moved by so many mAs, within its range (R138). -/
def adjustedReserve (sum : Int) : Nat := if sum < 0 then 0 else if 235926000 < sum then 235926000 else sum.toNat

theorem saturate_reserveMax (sum : Int) : saturate reserveMax sum = adjustedReserve sum := by
  unfold saturate reserveMax adjustedReserve
  split
  · omega
  · split <;> omega

theorem okOrClamped_int (m n : Int) : okOrClamped (m != n) = if m = n then Result.ok else .clamped := by
  by_cases h : m = n <;> simp [okOrClamped, h]

section
variable (s : State) {a b : Byte} {sum : Int} {r : Nat}

theorem reqReserveAdjust_wrongMode (h : s.mdc.mode = .drive ∨ s.mdc.mode = .cutoff) : reqReserveAdjust s [a, b] = refusal s .wrongMode :=
  if_pos (by simpa using h)

variable (hmode : s.mdc.mode = .handover ∨ s.mdc.mode = .parked)
  (hsum : sum = (s.chm.reserve : Int) + (a ++ b : BitVec 16).toInt * 3600) (hr : r = adjustedReserve sum)
include hmode hsum hr

theorem reqReserveAdjust_taken : reqReserveAdjust s [a, b] =
    (if s.chm.reserve != 0 && r = 0 then (State.exhaust { s with chm.reserve := r } 1).finish else { s with chm.reserve := r },
      { result := if (r : Int) = sum then .ok else .clamped, payload := be32 (tenths r) }) := by
  have hopen : ¬ (s.mdc.mode = .drive || s.mdc.mode = .cutoff) = true := by
    rcases hmode with h | h <;> rw [h] <;> decide
  rw [← saturate_reserveMax, hsum] at hr
  subst hr hsum
  rw [reqReserveAdjust, if_neg hopen]
  dsimp only
  rw [okOrClamped_int]

theorem reqReserveAdjust_moved (hstays : s.chm.reserve = 0 ∨ r ≠ 0) : reqReserveAdjust s [a, b] =
    ({ s with chm.reserve := r }, { result := if (r : Int) = sum then .ok else .clamped, payload := be32 (tenths r) }) := by
  have hnot : ¬ (s.chm.reserve != 0 && r = 0) = true := by
    rcases hstays with h | h <;> simp [h]
  rw [reqReserveAdjust_taken s hmode hsum hr, if_neg hnot]

theorem reqReserveAdjust_exhausted (hbefore : s.chm.reserve ≠ 0) (hzero : r = 0) : reqReserveAdjust s [a, b] =
    ((State.exhaust { s with chm.reserve := 0 } 1).finish, { result := if (r : Int) = sum then .ok else .clamped, payload := be32 0 }) := by
  have hyes : (s.chm.reserve != 0 && r = 0) = true := by
    simp [hbefore, hzero]
  rw [reqReserveAdjust_taken s hmode hsum hr, if_pos hyes, hzero]
  rfl

end

/-! ### The exhaustion (R131) -/

/-- Only sessions of essential classes outlive the exhaustion. -/
theorem essential_of_exhausted {s : State} {cause : Nat} {y : Session} (h : y ∈ (s.exhaust cause).finish.ssc.sessions) :
    (s.cls y.cls).essential = true := by
  obtain ⟨x, hx, -, hcls⟩ := exists_of_mem_finish h
  obtain ⟨-, hp⟩ := not_of_mem_closeWhere hx
  rw [base_cls (record_base s .reserveExhausted s.mdc.mode.code cause none), hcls] at hp
  simpa using hp

theorem exhaust_base (s : State) (cause : Nat) : (s.exhaust cause).base = s.base :=
  (closeWhere_base ..).trans (record_base ..)

theorem Holds.exhaust {s : State} {es : List Event} (hs : Holds es s) (h : SessionsSound s) (cause : Nat)
    (hroom : es.length + 1 + (s.ssc.sessions.filter (fun x => !(s.cls x.cls).essential)).length ≤ 24) :
    Holds (es ++ s.recordOf .reserveExhausted s.mdc.mode.code cause none ::
      (s.ssc.sessions.filter (fun x => !(s.cls x.cls).essential)).map (s.closing 3)) (s.exhaust cause) := by
  have hrecorded := hs.record (by omega) .reserveExhausted s.mdc.mode.code cause none
  have hssc : (s.record .reserveExhausted s.mdc.mode.code cause none).ssc = s.ssc := record_ssc ..
  have hcls : (s.record .reserveExhausted s.mdc.mode.code cause none).cls = s.cls := funext (base_cls (record_base ..))
  have hclosing : (s.record .reserveExhausted s.mdc.mode.code cause none).closing 3 = s.closing 3 := by
    funext y
    exact recordOf_congr (congrArg (fun d : Base × Wlu × Wsc => d.2.2.seconds) (record_deep ..)) ..
  unfold State.exhaust
  generalize s.record .reserveExhausted s.mdc.mode.code cause none = u at hrecorded hssc hcls hclosing ⊢
  have hclosed := hrecorded.closeWhere (h.congr hssc) (fun x => !(u.cls x.cls).essential) .reserve (by
    rw [hssc, hcls, List.length_append]
    simpa using hroom)
  rw [hssc, hcls] at hclosed
  dsimp only
  rw [hcls]
  have hcode : u.closing CloseReason.reserve.code = s.closing 3 := hclosing
  rw [hcode, List.append_assoc] at hclosed
  exact hclosed

theorem exhaust_keeps {s : State} {es : List Event} (hs : Holds es s) (hlen : es.length < 24) (cause : Nat) :
    Keeps (es ++ [s.recordOf .reserveExhausted s.mdc.mode.code cause none]) (s.exhaust cause) :=
  (Closed.records _).closeWhere _ _ (hs.record hlen .reserveExhausted s.mdc.mode.code cause none).keeps

/-- Settles O56. -/
theorem reserveIsAdjusted : Obligations.ReserveIsAdjusted := by
  intro a b s h
  have does : ∀ {t : State} {x : Answer}, reqReserveAdjust s.taken [a, b] = (t, x) →
      exec (.reserveAdjust [a, b]) s = .next (t.sendReply (0x51 + 0x80) x) :=
    fun ha => exec_of_free (c := .reserveAdjust [a, b]) rfl rfl h (by decide) rfl rfl ha
  refine ⟨fun hmode => does (reqReserveAdjust_wrongMode s.taken hmode),
    fun hmode hstays => does (reqReserveAdjust_moved s.taken hmode rfl rfl hstays), fun hmode hbefore hzero => ?_⟩
  have hexec := does (reqReserveAdjust_exhausted s.taken (a := a) (b := b) hmode rfl rfl hbefore hzero)
  obtain ⟨u, hu⟩ : ∃ u : State, u = { s.taken with chm.reserve := 0 } := ⟨_, rfl⟩
  rw [← hu] at hexec
  have hreserve : u.chm.reserve = 0 ∧ u.chm.reserveRem = s.chm.reserveRem := by
    rw [hu]
    exact ⟨rfl, rfl⟩
  have hssc : u.ssc = s.ssc := by rw [hu]; rfl
  have hcls : u.cls = s.cls := by rw [hu]; rfl
  have hevq : u.evq = s.evq := by rw [hu]; rfl
  have hrecord : u.recordOf .reserveExhausted u.mdc.mode.code 1 none = s.recordOf .reserveExhausted s.mdc.mode.code 1 none := by
    rw [hu]
    rfl
  have hclosing : u.closing 3 = s.closing 3 := by rw [hu]; rfl
  have hstart : ∀ n, s.roomFor n → Holds s.evq.events u := fun n hroom => ⟨by rw [hevq], by rw [hevq]; exact hroom.1⟩
  have hbase : ∀ x : Answer, ((u.exhaust 1).finish.sendReply (0x51 + 0x80) x).base = u.base := fun x => (sendReply_base ..).trans ((finish_base _).trans (exhaust_base u 1))
  refine ⟨_, hexec, sendReply_replies .., (base_reserve (hbase _)).trans hreserve.1, (base_reserveRem (hbase _)).trans hreserve.2,
    fun x hx => ?_, fun hroom => ?_, fun hs hroom => ?_⟩
  · rw [sendReply_ssc] at hx
    rw [← hcls]
    exact essential_of_exhausted hx
  · have hkeeps := exhaust_keeps (hstart 1 hroom) hroom.2 1
    rw [hrecord] at hkeeps
    exact recorded_sendReply (Keeps.finish_recorded (s := s) hkeeps) _ _
  · have hkeeps := ((hstart _ hroom).exhaust (hs.congr hssc) 1 (by
      rw [hssc, hcls, Nat.add_assoc]
      exact hroom.2)).keeps
    rw [hrecord, hssc, hcls, hclosing] at hkeeps
    exact recorded_sendReply (Keeps.finish_recorded (s := s) hkeeps) _ _

end Sys2Proof.Machine
end

section
/-! Triggers and stable changes of wake lines (R52 to R56, R58, R62): an equation for each case, and what the claims about a line's times and
about the pins read from them. Settles O41 and O26. -/

namespace Sys2Proof.Machine

/-! ### A lapse while the device is awake -/

section
variable {s : State} (h : s.held = false) (n : Nat)
include h

theorem lapse_line (l : LineId) : (s.lapse n).line l = (s.line l).lapse n := by
  unfold State.lapse
  split
  · next hz =>
    subst hz
    simp [Line.lapse, countDown]
  · rw [if_neg (by rw [h]; decide)]
    simp [State.line]

theorem lapse_mode : (s.lapse n).mdc.mode = s.mdc.mode := by
  unfold State.lapse
  split
  · rfl
  · rw [if_neg (by rw [h]; decide)]
    rfl

end

/-! ### Triggers (R54, R56, R62) -/

theorem modeActs_eq_false {m : Mode} {e : LineEntry} : modeActs m e = false ↔ triggerIgnored m e := by
  cases m <;> simp [modeActs, triggerIgnored]

theorem updLine_updLine (s : State) (l : LineId) (f g : Line → Line) : (s.updLine l f).updLine l g = s.updLine l (fun x => g (f x)) := by
  have hl := line_updLine_self s l f
  unfold State.updLine at hl ⊢
  rw [hl]
  simp [Vector.set_set]

/-- A trigger whose level activation, if it has one, has been taken. -/
def State.acted (s : State) (l : LineId) : State :=
  if (s.line l).entry.triggerMode.isLevel then s.updLine l (fun x => { x with act := .spent }) else s

section
variable {s : State} {l : LineId} {e : Edge}

theorem trigger_of_ignored (h : triggerIgnored s.mdc.mode (s.line l).entry) : s.trigger l e = s := by
  rw [State.trigger, modeActs_eq_false.2 h]
  rfl

variable (h : ¬ triggerIgnored s.mdc.mode (s.line l).entry)
include h

theorem trigger_of_muted (hm : (s.line l).mute.isSome = true) :
    s.trigger l e = (s.acted l).updLine l (fun x => { x with mutedTriggers := min 65535 (x.mutedTriggers + 1) }) := by
  have hacts : modeActs s.mdc.mode (s.line l).entry = true := by
    rw [← Bool.not_eq_false, modeActs_eq_false]
    exact h
  rw [State.trigger, hacts]
  exact if_pos hm

theorem trigger_of_unmuted (hm : (s.line l).mute = none) : s.trigger l e = (s.acted l).roleTrigger l e := by
  have hacts : modeActs s.mdc.mode (s.line l).entry = true := by
    rw [← Bool.not_eq_false, modeActs_eq_false]
    exact h
  have hnot : ¬ (s.line l).mute.isSome = true := by
    rw [hm]
    decide
  rw [State.trigger, hacts]
  exact if_neg hnot

end

theorem acted_entry (s : State) (l : LineId) : ((s.acted l).line l).entry = (s.line l).entry := by
  unfold State.acted
  split
  · rw [line_updLine_self]
  · rfl

theorem roleTrigger_of_record {s : State} {l : LineId} {e : Edge} (h : (s.line l).entry.role = .record) :
    s.roleTrigger l e = s.record .lineRecord l.val e.code none := by
  rw [State.roleTrigger, h]

/-! ### Stable changes (R52 to R54) -/

/-- The line has taken this level, and its activation stands so (R52, R54). -/
def State.levelTaken (s : State) (l : LineId) (high : Bool) (act : Activation) : State :=
  s.updLine l (fun y => { y with pin := high, interval := none, debounced := high, act := act })

/-- The line's pin stands at this level, and no interval runs. -/
def State.pinned (s : State) (l : LineId) (high : Bool) : State := s.updLine l (fun y => { y with pin := high, interval := none })

section
variable (s : State) (l : LineId) (high : Bool)

theorem levelTaken_line (act : Activation) : (s.levelTaken l high act).line l =
    { s.line l with pin := high, interval := none, debounced := high, act := act } := line_updLine_self ..

theorem levelTaken_act (a b : Activation) :
    (s.levelTaken l high a).updLine l (fun y => { y with act := b }) = s.levelTaken l high b := updLine_updLine ..

theorem levelTaken_acted (a : Activation) : (s.levelTaken l high a).acted l =
    if (s.line l).entry.triggerMode.isLevel then s.levelTaken l high .spent else s.levelTaken l high a := by
  rw [State.acted, levelTaken_line, levelTaken_act]

theorem pinned_debounced :
    (s.pinned l high).updLine l (fun y => { y with debounced := high }) = s.levelTaken l high (s.line l).act := by
  rw [State.pinned, updLine_updLine]
  have hsame : ∀ f g : Line → Line, f (s.line l) = g (s.line l) → s.updLine l f = s.updLine l g := by
    intro f g he
    unfold State.updLine
    rw [he]
  exact hsame _ _ rfl

end

theorem isLevel_iff {m : TriggerMode} : m.isLevel = true ↔ m = .levelHigh ∨ m = .levelLow := by
  cases m <;> simp [TriggerMode.isLevel]

theorem names_of_level {m : TriggerMode} (h : m.isLevel = true) (high : Bool) : m.names high ↔ high = m.activeLevel := by
  cases m <;> cases high <;> simp_all [TriggerMode.isLevel, TriggerMode.names, TriggerMode.activeLevel]

theorem names_of_edge {m : TriggerMode} (h : m.isLevel = false) (high : Bool) : m.names high ↔ edgeTriggers m high = true := by
  cases m <;> cases high <;> simp_all [TriggerMode.isLevel, TriggerMode.names, edgeTriggers]

section
variable (s : State) (l : LineId) (high : Bool)

/-- A stable change by its branches, in terms of the level as taken. -/
theorem stableChange_eq : (s.pinned l high).stableChange l high =
    if !(s.line l).entry.enabled then s.levelTaken l high (s.line l).act
    else if (s.line l).entry.triggerMode.isLevel then
      if high = (s.line l).entry.triggerMode.activeLevel then (s.levelTaken l high .pending).trigger l (edgeOf high)
      else s.levelTaken l high .inactive
    else if edgeTriggers (s.line l).entry.triggerMode high then (s.levelTaken l high (s.line l).act).trigger l (edgeOf high)
    else s.levelTaken l high (s.line l).act := by
  rw [State.stableChange, pinned_debounced]
  rw [levelTaken_line, levelTaken_act, levelTaken_act]

variable {s l high}

theorem stableChange_of_disabled (h : (s.line l).entry.enabled = false) :
    (s.pinned l high).stableChange l high = s.levelTaken l high (s.line l).act := by
  rw [stableChange_eq, h]
  rfl

variable (h : (s.line l).entry.enabled = true)
include h

theorem stableChange_of_unnamed (hn : ¬ (s.line l).entry.triggerMode.names high) (hl : (s.line l).entry.triggerMode.isLevel = false) :
    (s.pinned l high).stableChange l high = s.levelTaken l high (s.line l).act := by
  have hedge : ¬ edgeTriggers (s.line l).entry.triggerMode high = true := fun hx => hn ((names_of_edge hl high).2 hx)
  rw [stableChange_eq, h, hl]
  exact if_neg hedge

theorem stableChange_of_inactive (hn : ¬ (s.line l).entry.triggerMode.names high) (hl : (s.line l).entry.triggerMode.isLevel = true) :
    (s.pinned l high).stableChange l high = s.levelTaken l high .inactive := by
  have hactive : ¬ high = (s.line l).entry.triggerMode.activeLevel := fun hx => hn ((names_of_level hl high).2 hx)
  rw [stableChange_eq, h, hl]
  exact if_neg hactive

theorem stableChange_of_named (hn : (s.line l).entry.triggerMode.names high) {act : Activation}
    (hlevel : (s.line l).entry.triggerMode.isLevel = true → act = .pending)
    (hedge : (s.line l).entry.triggerMode.isLevel = false → act = (s.line l).act) :
    (s.pinned l high).stableChange l high = (s.levelTaken l high act).trigger l (edgeOf high) := by
  rw [stableChange_eq, h]
  cases hl : (s.line l).entry.triggerMode.isLevel
  · rw [hedge hl]
    exact if_pos ((names_of_edge hl high).1 hn)
  · rw [hlevel hl]
    exact if_pos ((names_of_level hl high).1 hn)

end

/-! ### What `StableChange` says -/

/-- An event that ends with one record, as far as a claim reads it. -/
theorem exec_of_record {c : Instr} {s v : State} {k : RecordKind} {a b : Nat} {w : Option Nat}
    (hexec : exec c s = .next (v.record k a b w).finish) (hresume : v.work.resume = none) (hevents : v.evq.events = s.evq.events)
    (hpolicy : v.evq.policy = s.evq.policy) (hseconds : v.wsc.seconds = s.wsc.seconds) :
    ∃ t, exec c s = .next t ∧ t.frame = v.frame ∧ (s.roomFor 1 → t.recorded s [s.recordOf k a b w]) := by
  refine ⟨_, hexec, (finish_frame ((record_resume ..).trans hresume)).trans (record_frame ..), fun hroom => ?_⟩
  have hstart : Holds s.evq.events v := ⟨hevents, hpolicy.trans hroom.1⟩
  have hkeeps := (hstart.record hroom.2 k a b w).keeps
  rw [recordOf_congr hseconds] at hkeeps
  exact Keeps.finish_recorded hkeeps

/-- u is s, or s after a lapse, as far as a stable change of line l looks at it. -/
structure Follows (u s : State) (l : LineId) : Prop where
  entry : (u.line l).entry = (s.line l).entry
  act : (u.line l).act = (s.line l).act
  mute : (u.line l).mute.isSome = (s.line l).mute.isSome
  mode : u.mdc.mode = s.mdc.mode
  events : u.evq.events = s.evq.events
  policy : u.evq.policy = s.evq.policy
  seconds : u.wsc.seconds = s.wsc.seconds
  resume : u.work.resume = none

theorem Follows.lapse {s : State} (h : Ready s) (l : LineId) (n : Nat) : Follows (s.lapse n) s l := by
  obtain ⟨hevents, hpolicy, -⟩ := lapse_evq s n
  have hline := lapse_line h.awake n l
  refine ⟨by rw [hline]; rfl, by rw [hline]; rfl, ?_, lapse_mode h.awake n, hevents, hpolicy, lapse_seconds s n, by
    rw [lapse_work]
    exact h.resume⟩
  rw [hline]
  exact Option.isSome_map

theorem levelTaken_resume {u s : State} {l : LineId} (h : Follows u s l) (high : Bool) (act : Activation) :
    (u.levelTaken l high act).work.resume = none := h.resume

/-- A command that is a stable change of a line at its new pin level does what `StableChange` says. -/
theorem stableChange_holds {c : Instr} {s u : State} {l : LineId} {high : Bool} (h : Follows u s l)
    (hexec : exec c s = .next ((u.pinned l high).stableChange l high).finish) : StableChange c s u l high := by
  obtain ⟨hentry, hact, hmute, hmode, hevents, hpolicy, hseconds, hresume⟩ := h
  have does : ∀ v : State, v.work.resume = none → (u.pinned l high).stableChange l high = v →
      ∃ t, exec c s = .next t ∧ t.frame = v.frame :=
    fun v hv he => ⟨_, hexec, by rw [he]; exact finish_frame hv⟩
  have hlevel : ∀ {b : Bool}, (s.line l).entry.triggerMode.isLevel = b → (u.line l).entry.triggerMode.isLevel = b := fun hb => by
    rw [hentry]
    exact hb
  refine ⟨fun hen => ?disabled, fun hen hn hl => ?unnamed, fun hen hn hl => ?inactive, fun act acted ⟨hen, hn⟩ hpend hkeep => ?triggers⟩
  case disabled =>
    rw [← hact]
    exact does (u.levelTaken l high (u.line l).act) hresume (stableChange_of_disabled (hentry ▸ hen))
  case unnamed =>
    rw [← hact]
    exact does (u.levelTaken l high (u.line l).act) hresume
      (stableChange_of_unnamed (hentry ▸ hen) (hentry ▸ hn) (hlevel (b := false) (by rw [← Bool.not_eq_true, isLevel_iff]; exact hl)))
  case inactive =>
    exact does (u.levelTaken l high .inactive) hresume
      (stableChange_of_inactive (hentry ▸ hen) (hentry ▸ hn) (hlevel (isLevel_iff.2 hl)))
  case triggers =>
    have htrigger : (u.pinned l high).stableChange l high = (u.levelTaken l high act).trigger l (edgeOf high) := by
      refine stableChange_of_named (hentry ▸ hen) (hentry ▸ hn) (fun hl => ?_) (fun hl => ?_)
      · exact (hpend (isLevel_iff.1 (hentry ▸ hl))).1
      · rw [hact]
        exact (hkeep (by rw [← isLevel_iff, ← hentry, hl]; decide)).1
    have hacted : (u.levelTaken l high act).acted l = u.levelTaken l high acted := by
      rw [levelTaken_acted, hentry]
      split
      · next hl => rw [(hpend (isLevel_iff.1 hl)).2]
      · next hl =>
        obtain ⟨rfl, rfl⟩ := hkeep (by rw [← isLevel_iff]; exact hl)
        rfl
    have hline := levelTaken_line u l high act
    have hignored : triggerIgnored s.mdc.mode (s.line l).entry ↔
        triggerIgnored (u.levelTaken l high act).mdc.mode ((u.levelTaken l high act).line l).entry := by
      rw [hline, ← hentry, ← hmode]
      rfl
    refine ⟨fun hign => does _ hresume (htrigger.trans (trigger_of_ignored (hignored.1 hign))), fun hign hm => ?_, fun hign hm hrole => ?_⟩
    · have hmuted : ((u.levelTaken l high act).line l).mute.isSome = true := by
        rw [hline]
        exact hmute.trans hm
      have heq := trigger_of_muted (e := edgeOf high) (fun hx => hign (hignored.2 hx)) hmuted
      rw [hacted] at heq
      exact does ((u.levelTaken l high acted).updLine l (fun y => { y with mutedTriggers := min 65535 (y.mutedTriggers + 1) })) hresume
        (htrigger.trans heq)
    · have hunmuted : ((u.levelTaken l high act).line l).mute = none := by
        rw [hline]
        rw [hm] at hmute
        exact Option.not_isSome_iff_eq_none.1 (by rw [hmute]; decide)
      have heq := trigger_of_unmuted (e := edgeOf high) (fun hx => hign (hignored.2 hx)) hunmuted
      have hrecordRole : ((u.levelTaken l high acted).line l).entry.role = .record := by
        rw [levelTaken_line]
        exact hentry ▸ hrole
      rw [hacted, roleTrigger_of_record hrecordRole] at heq
      have hfinal := htrigger.trans heq
      have hcode : (edgeOf high).code = if high then 0 else 1 := by cases high <;> rfl
      rw [hfinal, hcode] at hexec
      exact exec_of_record hexec hresume hevents hpolicy hseconds

end Sys2Proof.Machine
end

section
/-! The ends of a wake line's times (R52, R61, R63) and the pins (R1, R22, R52). Settles O41 and O26. -/

namespace Sys2Proof.Machine

theorem updLine_congr {s : State} {l : LineId} {f g : Line → Line} (h : f (s.line l) = g (s.line l)) : s.updLine l f = s.updLine l g := by
  unfold State.updLine
  rw [h]

/-- An event whose work leaves v, as far as the frame tells. -/
theorem exec_frame {c : Instr} {s v : State} (hexec : exec c s = .next v.finish) (hresume : v.work.resume = none) :
    ∃ t, exec c s = .next t ∧ t.frame = v.frame := ⟨_, hexec, finish_frame hresume⟩

theorem Ready.lapse_resume {s : State} (h : Ready s) (n : Nat) : (s.lapse n).work.resume = none := by
  rw [lapse_work]
  exact h.resume

/-- Settles O41: the interval's end is a stable change or none, and each other end is one write of the line. -/
theorem wakeLineTimesEnd : Obligations.WakeLineTimesEnd := by
  intro l s n h
  have hline := lapse_line h.awake n l
  refine ⟨fun hn hpin => ?still, fun hn hpin => ?changes, fun hn => ?window, fun hn => ?mute⟩
  case still =>
    have hexec : exec (.wlDebounceEnd l) s = .next ((s.lapse n).wlSettles l).finish := timed_of_some h.awake hn (fun s => s.wlSettles l)
    have hwork : (s.lapse n).wlSettles l = (s.lapse n).updLine l (fun x => { x with interval := none }) := by
      rw [State.wlSettles, hline]
      exact if_pos hpin
    rw [hwork] at hexec
    exact exec_frame hexec (h.lapse_resume n)
  case changes =>
    have hexec : exec (.wlDebounceEnd l) s = .next ((s.lapse n).wlSettles l).finish := timed_of_some h.awake hn (fun s => s.wlSettles l)
    have hpinned : (s.lapse n).updLine l (fun x => { x with interval := none }) = (s.lapse n).pinned l (s.line l).pin := by
      refine updLine_congr ?_
      rw [hline]
      rfl
    have hwork : (s.lapse n).wlSettles l = ((s.lapse n).pinned l (s.line l).pin).stableChange l (s.line l).pin := by
      rw [State.wlSettles, hpinned, hline]
      exact if_neg hpin
    rw [hwork] at hexec
    exact stableChange_holds (Follows.lapse h l n) hexec
  case window =>
    exact exec_frame (timed_of_some h.awake hn (fun s => s.updLine l (fun x => { x with window := none, nuisance := 0 })))
      (h.lapse_resume n)
  case mute =>
    have hexec : exec (.muteExpiry l) s = .next ((s.lapse n).endMute l .expired).finish := timed_of_some h.awake hn (fun s => s.endMute l .expired)
    refine ⟨_, hexec, ?_, fun hroom => ?_⟩
    · exact (finish_frame ((endMute_resume ..).trans (h.lapse_resume n))).trans (endMute_frame ..)
    · have hkeeps := ((lapse_holds n (Holds.start hroom)).endMute hroom.2 l .expired).keeps
      rw [lapse_recordOf, hline] at hkeeps
      exact Keeps.finish_recorded hkeeps

/-! ### The pins -/

theorem Follows.refl {s : State} (h : BetweenEvents s) (l : LineId) : Follows s s l :=
  ⟨rfl, rfl, rfl, rfl, rfl, rfl, rfl, by rw [h]; rfl⟩

theorem updDom_congr {s : State} {d : DomId} {f g : Domain → Domain} (h : f (s.dom d) = g (s.dom d)) : s.updDom d f = s.updDom d g := by
  unfold State.updDom
  rw [h]

theorem updDom_self (s : State) (d : DomId) : s.updDom d (fun x => x) = s := by
  simp [State.updDom, State.dom]

theorem pinChange_same {i : Input} {high : Bool} (h : high = i.pin) : i.pinChange high = i := if_pos h

theorem pinChange_starts {i : Input} {high : Bool} (h : high ≠ i.pin) (hi : high ≠ i.debounced ∨ i.interval ≠ none) :
    i.pinChange high = { i with pin := high, interval := some 20 } := by
  have hstart : (i.interval.isSome || high != i.debounced) = true := by
    rcases hi with hne | hne
    · simp [hne]
    · simp [Option.isSome_iff_ne_none.2 hne]
  rw [Input.pinChange, if_neg h, hstart]
  rfl

theorem settled_of_level {i : Input} (h : i.pin = i.debounced) : i.settled = { i with interval := none } := by
  obtain ⟨pin, debounced, interval⟩ := i
  cases h
  rfl

section
variable {s : State} {high : Bool} (h : s.held = false)
include h

theorem exec_ignLevelChange : exec (.ignLevelChange high) s = .next { s with mdc.ign := s.mdc.ign.pinChange high } := by
  have hexec : exec (.ignLevelChange high) s = .next { s with
    mdc.ign := if s.held then s.mdc.ign.pinChangeHeld high else s.mdc.ign.pinChange high } := rfl
  rw [hexec, h]
  rfl

theorem exec_serviceLevelChange : exec (.serviceLevelChange high) s = .next { s with mdc.service := s.mdc.service.pinChange high } := by
  have hexec : exec (.serviceLevelChange high) s = .next { s with
    mdc.service := if s.held then s.mdc.service.pinChangeHeld high else s.mdc.service.pinChange high } := rfl
  rw [hexec, h]
  rfl

theorem exec_pgPinChange (d : DomId) : exec (.pgPinChange d high) s = .next (s.updDom d (fun x => x.pgChange high)) := by
  have hexec : exec (.pgPinChange d high) s = .next (s.updDom d (fun x => if s.held then { x with pgPin := high } else x.pgChange high)) :=
    rfl
  rw [hexec, h]
  rfl

theorem exec_wlPinChange (l : LineId) : exec (.wlPinChange l high) s = .next (s.wlChange l high).finish := by
  have hexec : exec (.wlPinChange l high) s =
    if s.held then .next (s.updLine l (fun x => { x with pin := high })) else s.outside (fun s => s.wlChange l high) := rfl
  rw [hexec, State.outside, h]
  rfl

end

theorem wlChange_same {s : State} {l : LineId} {high : Bool} (h : high = (s.line l).pin) : s.wlChange l high = s := if_pos h

theorem wlChange_starts {s : State} {l : LineId} {high : Bool} (h : high ≠ (s.line l).pin) (hd : (s.line l).entry.debounce ≠ 0)
    (hi : high ≠ (s.line l).debounced ∨ (s.line l).interval ≠ none) :
    s.wlChange l high = s.updLine l (fun x => { x with pin := high, interval := some x.entry.debounce }) := by
  have hstart : ((s.line l).interval.isSome || high != (s.line l).debounced) = true := by
    rcases hi with hne | hne
    · simp [hne]
    · simp [Option.isSome_iff_ne_none.2 hne]
  rw [State.wlChange]
  dsimp only
  rw [if_neg h, if_neg hd]
  refine updLine_congr ?_
  rw [if_pos hstart]

theorem wlChange_at_once {s : State} {l : LineId} {high : Bool} (h : high ≠ (s.line l).pin) (hd : (s.line l).entry.debounce = 0)
    (hi : high ≠ (s.line l).debounced) : s.wlChange l high = (s.pinned l high).stableChange l high := by
  rw [State.wlChange]
  dsimp only
  rw [if_neg h, if_pos hd, if_neg hi]
  rfl

theorem lapse_inputs {s : State} (h : s.held = false) (n : Nat) :
    (s.lapse n).mdc.service.pin = s.mdc.service.pin ∧ (s.lapse n).mdc.ign.pin = s.mdc.ign.pin ∧
      (s.lapse n).mdc.ign.debounced = s.mdc.ign.debounced := by
  unfold State.lapse
  split
  · exact ⟨rfl, rfl, rfl⟩
  · rw [if_neg (by rw [h]; decide)]
    exact ⟨rfl, rfl, rfl⟩

/-- Settles O26: each pin by its equation; a line's level at once is a stable change of the state itself. -/
theorem levelsAreDebounced : Obligations.LevelsAreDebounced := by
  refine ⟨fun s high h => ⟨fun hp => ?ignSame, fun hp hi => ?ignStarts, fun hp => ?serviceSame, fun hp hi => ?serviceStarts,
    fun d hp => ?pgSame, fun d hp => ?pgStarts, fun l hp hb => ?lineSame, fun l hd hp hi hb => ?lineStarts,
    fun l hd hp hi hb => ?lineAtOnce⟩, fun s n h => ⟨fun hn => ?serviceEnds, fun hn hp => ?ignEnds⟩⟩
  case ignSame => rw [exec_ignLevelChange h, pinChange_same hp]
  case ignStarts => rw [exec_ignLevelChange h, pinChange_starts hp hi]
  case serviceSame => rw [exec_serviceLevelChange h, pinChange_same hp]
  case serviceStarts => rw [exec_serviceLevelChange h, pinChange_starts hp hi]
  case pgSame =>
    have hsame : s.updDom d (fun x => x.pgChange high) = s.updDom d (fun x => x) := updDom_congr (if_pos hp)
    rw [exec_pgPinChange h, hsame, updDom_self]
  case pgStarts =>
    rw [exec_pgPinChange h]
    exact congrArg Host.Outcome.next (updDom_congr (if_neg hp))
  case lineSame =>
    have hexec := exec_wlPinChange (high := high) h l
    rw [wlChange_same hp] at hexec
    exact exec_frame hexec (Follows.refl hb l).resume
  case lineStarts =>
    have hexec := exec_wlPinChange (high := high) h l
    rw [wlChange_starts hp hd hi] at hexec
    exact exec_frame hexec (Follows.refl hb l).resume
  case lineAtOnce =>
    have hexec := exec_wlPinChange (high := high) h l
    rw [wlChange_at_once hp hd hi] at hexec
    exact stableChange_holds (Follows.refl hb l) hexec
  case serviceEnds =>
    have hpin := (lapse_inputs h.awake n).1
    have hexec : exec .serviceDebounceEnd s = .next (State.finish { s.lapse n with mdc.service := (s.lapse n).mdc.service.settled }) :=
      timed_of_some h.awake hn (fun s => { s with mdc.service := s.mdc.service.settled })
    have hsettled : (s.lapse n).mdc.service.settled = { pin := s.mdc.service.pin, debounced := s.mdc.service.pin, interval := none } := by
      rw [Input.settled, hpin]
    obtain ⟨v, hv⟩ : ∃ v, v = { s.lapse n with mdc.service := (s.lapse n).mdc.service.settled } := ⟨_, rfl⟩
    rw [← hv] at hexec
    refine ⟨v.finish, hexec, ?_, ?_⟩
    · rw [base_service (finish_base v), hv]
      exact hsettled
    · rw [finish_frame (s := v) (by rw [hv]; exact h.lapse_resume n), hv, ← hpin]
      rfl
  case ignEnds =>
    obtain ⟨-, hpin, hdebounced⟩ := lapse_inputs h.awake n
    have hexec : exec .ignDebounceEnd s = .next (s.lapse n).ignSettles.finish := timed_of_some h.awake hn State.ignSettles
    have hlevel : (s.lapse n).mdc.ign.settled.debounced = (s.lapse n).mdc.ign.debounced := by
      rw [hdebounced, ← hp]
      exact hpin
    have hwork : (s.lapse n).ignSettles = { s.lapse n with mdc.ign := (s.lapse n).mdc.ign.settled } := if_pos hlevel
    have hsettled : (s.lapse n).mdc.ign.settled = { (s.lapse n).mdc.ign with interval := none } :=
      settled_of_level hlevel
    rw [hwork, hsettled] at hexec
    exact exec_frame hexec (h.lapse_resume n)

end Sys2Proof.Machine
end

section
/-! LINE_SET (R49, R50, R55, R62, R63, R180): its range checks, and what the write of a line's entry does by the change that it makes. Settles
O39. -/

namespace Sys2Proof.Machine

/-! ### The fields of a line entry -/

theorem enumAt_trigger_eq_none {b : Byte} : enumAt [TriggerMode.rising, .falling, .both, .levelHigh, .levelLow] b = none ↔ 4 < b.toNat := by
  rw [enumAt, List.getElem?_eq_none_iff]
  exact Iff.rfl

theorem enumAt_role_eq_none {b : Byte} : enumAt [Role.direct, .stage1, .stage2, .record] b = none ↔ 3 < b.toNat := by
  rw [enumAt, List.getElem?_eq_none_iff]
  exact Iff.rfl

theorem enumAt_role_stage1 {b : Byte} {r : Role} (h : enumAt [Role.direct, .stage1, .stage2, .record] b = some r) :
    r = .stage1 ↔ b.toNat = 1 := by
  unfold enumAt at h
  generalize b.toNat = n at h
  match n with
  | 0 | 1 | 2 | 3 => cases h; decide
  | n + 4 => cases h

theorem readClass_none_iff {b : Byte} : readClass b = none ↔ 7 < b.toNat := by
  simp only [readClass, dite_eq_right_iff, reduceCtorEq, imp_false]
  omega

theorem readLine_none_iff {b : Byte} : readLine b = none ↔ 15 < b.toNat := by
  simp only [readLine, dite_eq_right_iff, reduceCtorEq, imp_false]
  omega

theorem readLine_val {b : Byte} {k : LineId} (h : readLine b = some k) : k.val = b.toNat := by
  unfold readLine at h
  split at h
  · cases h
    rfl
  · cases h

theorem readLineEntry_eq_none (l : LineId) (f m d r c q n w t : Byte) : readLineEntry l [f, m, d, r, c, q, n, w, t] = none ↔
    4 < m.toNat ∨ 3 < r.toNat ∨ 7 < c.toNat ∨ 15 < q.toNat ∨ (r.toNat = 1 ∧ q.toNat = l.val) ∨ 15 < n.toNat ∨ w.toNat = 0 ∨
      t.toNat = 0 := by
  rw [readLineEntry]
  have hmode := enumAt_trigger_eq_none (b := m)
  have hrole := enumAt_role_eq_none (b := r)
  have hclass := readClass_none_iff (b := c)
  have hpartner := readLine_none_iff (b := q)
  cases hm : enumAt [TriggerMode.rising, .falling, .both, .levelHigh, .levelLow] m with
  | none => simp [hmode.1 hm]
  | some mode =>
    cases hr : enumAt [Role.direct, .stage1, .stage2, .record] r with
    | none => simp [hrole.1 hr]
    | some role =>
      cases hc : readClass c with
      | none => simp [hclass.1 hc]
      | some cls =>
        cases hq : readLine q with
        | none => simp [hpartner.1 hq]
        | some partner =>
          rw [hm] at hmode
          rw [hr] at hrole
          rw [hc] at hclass
          rw [hq] at hpartner
          have hself : partner = l ↔ q.toNat = l.val := by
            rw [← readLine_val hq, Fin.ext_iff]
          simp only [reduceCtorEq, false_iff] at hmode hrole hclass hpartner
          simp only [Option.bind_some, check_eq_none, Bool.and_eq_false_iff, decide_eq_false_iff_not, Bool.not_eq_false',
            Bool.and_eq_true, beq_iff_eq, enumAt_role_stage1 hr, hself]
          omega

/-! ### The line that an entry is written to -/

/-- The entry is written, and nothing else done. -/
def State.entered (s : State) (l : LineId) (e : LineEntry) : State := s.updLine l (fun x => { x with entry := e })

/-- The entry is written, and the activation stands so. -/
def State.written (s : State) (l : LineId) (e : LineEntry) (act : Activation) : State :=
  s.updLine l (fun x => { x with entry := e, act := act })

theorem entered_line (s : State) (l : LineId) (e : LineEntry) : (s.entered l e).line l = { s.line l with entry := e } :=
  line_updLine_self ..

theorem entered_act (s : State) (l : LineId) (e : LineEntry) (act : Activation) :
    (s.entered l e).updLine l (fun x => { x with act := act }) = s.written l e act := updLine_updLine ..

theorem written_line (s : State) (l : LineId) (e : LineEntry) (act : Activation) :
    (s.written l e act).line l = { s.line l with entry := e, act := act } := line_updLine_self ..

/-! ### What a trigger leaves of the lines -/

theorem roleTrigger_deep (s : State) (l : LineId) (e : Edge) : (s.roleTrigger l e).deep = s.deep := by
  unfold State.roleTrigger
  dsimp only
  split
  · exact decideRequest_deep ..
  · exact record_deep ..
  · unfold State.stage1Trigger
    dsimp only
    split
    · rfl
    · exact decideRequest_deep ..
  · unfold State.stage2Trigger
    exact foldl_keeps State.deep _ (fun u x => by
      split
      · exact upgrade_deep ..
      · rfl) _ s

theorem roleTrigger_line (s : State) (l k : LineId) (e : Edge) : (s.roleTrigger l e).line k = s.line k := by
  have hwlu : (s.roleTrigger l e).wlu = s.wlu := congrArg (fun d => d.2.1) (roleTrigger_deep s l e)
  unfold State.line
  rw [hwlu]

/-- What a trigger does not change of its own line. -/
def Line.counts (x : Line) : LineEntry × Nat × Option Nat := (x.entry, x.nuisance, x.mute)

theorem updLine_counts (s : State) (l : LineId) (f : Line → Line) (hf : ∀ x, (f x).counts = x.counts) :
    ((s.updLine l f).line l).counts = (s.line l).counts := by
  rw [line_updLine_self]
  exact hf _

theorem acted_counts (s : State) (l : LineId) : ((s.acted l).line l).counts = (s.line l).counts := by
  unfold State.acted
  split
  · exact updLine_counts s l (fun x => { x with act := .spent }) (fun _ => rfl)
  · rfl

theorem acted_line_ne (s : State) {l k : LineId} (h : k ≠ l) : (s.acted l).line k = s.line k := by
  unfold State.acted
  split
  · exact line_updLine_ne _ l k _ h
  · rfl

/-- A trigger by its three cases: ignored, muted, or handed to the line's role (R56, R62). -/
theorem trigger_cases (s : State) (l : LineId) (e : Edge) : s.trigger l e = s ∨
    s.trigger l e = (s.acted l).updLine l (fun x => { x with mutedTriggers := min 65535 (x.mutedTriggers + 1) }) ∨
    s.trigger l e = (s.acted l).roleTrigger l e := by
  by_cases h : triggerIgnored s.mdc.mode (s.line l).entry
  · exact Or.inl (trigger_of_ignored h)
  · refine Or.inr ?_
    cases hm : (s.line l).mute with
    | none => exact Or.inr (trigger_of_unmuted h hm)
    | some n => exact Or.inl (trigger_of_muted h (by rw [hm]; rfl))

theorem trigger_counts (s : State) (l : LineId) (e : Edge) : ((s.trigger l e).line l).counts = (s.line l).counts := by
  rcases trigger_cases s l e with h | h | h <;> rw [h]
  · exact (updLine_counts _ l (fun x => { x with mutedTriggers := min 65535 (x.mutedTriggers + 1) }) (fun _ => rfl)).trans (acted_counts s l)
  · rw [roleTrigger_line]
    exact acted_counts s l

theorem trigger_line_ne (s : State) {l k : LineId} (e : Edge) (hk : k ≠ l) : (s.trigger l e).line k = s.line k := by
  rcases trigger_cases s l e with h | h | h <;> rw [h]
  · rw [line_updLine_ne _ l k _ hk]
    exact acted_line_ne s hk
  · rw [roleTrigger_line]
    exact acted_line_ne s hk

/-! ### Arming (R55) -/

/-- The line stands at its entry's active level (R54). -/
def atActiveLevel (e : LineEntry) (level : Bool) : Prop :=
  (e.triggerMode = .levelHigh ∧ level = true) ∨ (e.triggerMode = .levelLow ∧ level = false)

theorem atActiveLevel_iff {e : LineEntry} {level : Bool} :
    (e.triggerMode.isLevel && level == e.triggerMode.activeLevel) = true ↔ atActiveLevel e level := by
  unfold atActiveLevel
  cases e.triggerMode <;> cases level <;> decide

section
variable (s : State) (l : LineId) (e : LineEntry)

theorem arm_of_inactive (h : ¬ atActiveLevel e (s.line l).debounced) : (s.entered l e).arm l = s.written l e .inactive := by
  have hnot : ¬ (e.triggerMode.isLevel && (s.line l).debounced == e.triggerMode.activeLevel) = true := fun hx => h (atActiveLevel_iff.1 hx)
  rw [State.arm, entered_line, entered_act, entered_act]
  exact if_neg hnot

theorem arm_of_active (h : atActiveLevel e (s.line l).debounced) :
    (s.entered l e).arm l = (s.written l e .pending).trigger l .level := by
  rw [State.arm, entered_line, entered_act, entered_act]
  exact if_pos (atActiveLevel_iff.2 h)

theorem arm_counts : (((s.entered l e).arm l).line l).counts = ((s.entered l e).line l).counts := by
  rw [entered_line]
  by_cases h : atActiveLevel e (s.line l).debounced
  · rw [arm_of_active s l e h, trigger_counts, written_line]
    rfl
  · rw [arm_of_inactive s l e h, written_line]
    rfl

theorem arm_line_ne {k : LineId} (hk : k ≠ l) : ((s.entered l e).arm l).line k = s.line k := by
  by_cases h : atActiveLevel e (s.line l).debounced
  · rw [arm_of_active s l e h, trigger_line_ne _ _ hk]
    exact line_updLine_ne _ l k _ hk
  · rw [arm_of_inactive s l e h]
    exact line_updLine_ne _ l k _ hk

end

/-! ### The nuisance limit (R50, R60) -/

theorem muteIfReached_of_below {s : State} {l : LineId} (h : (s.line l).entry.nuisanceLimit = 0 ∨
    (s.line l).nuisance < (s.line l).entry.nuisanceLimit) : s.muteIfReached l = s := by
  refine if_neg ?_
  simp only [Bool.and_eq_true, bne_iff_ne, decide_eq_true_eq]
  omega

theorem muteIfReached_of_reached {s : State} {l : LineId} (h : (s.line l).entry.nuisanceLimit ≠ 0)
    (hn : (s.line l).entry.nuisanceLimit ≤ (s.line l).nuisance) : s.muteIfReached l = s.muteLine l :=
  if_pos (by simp [h, hn])

/-- The write finds no limit reached by a line that is not muted. -/
def State.limitKeeps (s : State) (l : LineId) (e : LineEntry) : Prop :=
  (s.line l).mute.isSome = true ∨ e.nuisanceLimit = 0 ∨ (s.line l).nuisance < e.nuisanceLimit

theorem mutes_none {s t : State} {l : LineId} {e : LineEntry} (h : s.limitKeeps l e) (hc : (t.line l).counts = ((s.entered l e).line l).counts) :
    (if (t.line l).mute.isNone then t.muteIfReached l else t) = t := by
  rw [entered_line] at hc
  have hentry : (t.line l).entry = e := congrArg Prod.fst hc
  have hnuisance : (t.line l).nuisance = (s.line l).nuisance := congrArg (fun c => c.2.1) hc
  have hmute : (t.line l).mute = (s.line l).mute := congrArg (fun c => c.2.2) hc
  rw [hmute]
  split
  · next hnone =>
    refine muteIfReached_of_below ?_
    rw [hentry, hnuisance]
    rcases h with hsome | hlimit
    · rw [Option.isNone_iff_eq_none] at hnone
      rw [hnone] at hsome
      cases hsome
    · exact hlimit
  · rfl

/-! ### The write of an entry (R50) -/

section
variable (s : State) (l : LineId) (e : LineEntry)

theorem writeLine_off (ho : (s.line l).entry.enabled = false) (hn : e.enabled = false) : s.writeLine l e = s.entered l e := by
  unfold State.writeLine
  simp only [ho, hn]
  rfl

theorem writeLine_disables (ho : (s.line l).entry.enabled = true) (hn : e.enabled = false) :
    s.writeLine l e = (s.entered l e).disableLine l := by
  unfold State.writeLine
  simp only [ho, hn]
  rfl

/-- The line with its new entry, armed where its trigger mode changes (R50). -/
def State.rearmed : State := if (s.line l).entry.triggerMode != e.triggerMode then (s.entered l e).arm l else s.entered l e

theorem rearmed_same (h : (s.line l).entry.triggerMode = e.triggerMode) : s.rearmed l e = s.entered l e :=
  if_neg (by simp [h])

theorem rearmed_changed (h : (s.line l).entry.triggerMode ≠ e.triggerMode) : s.rearmed l e = (s.entered l e).arm l :=
  if_pos (by simp [h])

theorem writeLine_on (ho : (s.line l).entry.enabled = true) (hn : e.enabled = true) : s.writeLine l e =
    if ((s.rearmed l e).line l).mute.isNone then (s.rearmed l e).muteIfReached l else s.rearmed l e := by
  unfold State.writeLine
  simp only [ho, hn]
  rfl

theorem writeLine_keeps (ho : (s.line l).entry.enabled = true) (hn : e.enabled = true)
    (hm : (s.line l).entry.triggerMode = e.triggerMode) (hl : s.limitKeeps l e) : s.writeLine l e = s.entered l e := by
  rw [writeLine_on s l e ho hn, rearmed_same s l e hm]
  exact mutes_none hl rfl

theorem writeLine_mutes (ho : (s.line l).entry.enabled = true) (hn : e.enabled = true)
    (hm : (s.line l).entry.triggerMode = e.triggerMode) (hfree : (s.line l).mute = none) (hlimit : e.nuisanceLimit ≠ 0)
    (hreached : e.nuisanceLimit ≤ (s.line l).nuisance) : s.writeLine l e = (s.entered l e).muteLine l := by
  have hline := entered_line s l e
  rw [writeLine_on s l e ho hn, rearmed_same s l e hm, if_pos (by rw [hline, hfree]; rfl)]
  exact muteIfReached_of_reached (by rw [hline]; exact hlimit) (by rw [hline]; exact hreached)

theorem writeLine_arms (hn : e.enabled = true)
    (h : (s.line l).entry.enabled = false ∨ ((s.line l).entry.triggerMode ≠ e.triggerMode ∧ s.limitKeeps l e)) :
    s.writeLine l e = (s.entered l e).arm l := by
  cases ho : (s.line l).entry.enabled
  · unfold State.writeLine
    simp only [ho, hn]
    rfl
  · obtain ⟨hm, hl⟩ := h.resolve_left (by rw [ho]; decide)
    rw [writeLine_on s l e ho hn, rearmed_changed s l e hm]
    exact mutes_none hl (arm_counts s l e)

/-- Every write is one of these. -/
theorem writeLine_cases : s.writeLine l e = s.entered l e ∨ s.writeLine l e = (s.entered l e).disableLine l ∨
    s.writeLine l e = (s.entered l e).arm l ∨ s.writeLine l e = (s.entered l e).muteIfReached l ∨
    s.writeLine l e = ((s.entered l e).arm l).muteIfReached l := by
  cases ho : (s.line l).entry.enabled <;> cases hn : e.enabled
  · exact Or.inl (writeLine_off s l e ho hn)
  · exact Or.inr (Or.inr (Or.inl (writeLine_arms s l e hn (Or.inl ho))))
  · exact Or.inr (Or.inl (writeLine_disables s l e ho hn))
  · rw [writeLine_on s l e ho hn]
    by_cases hm : (s.line l).entry.triggerMode = e.triggerMode
    · rw [rearmed_same s l e hm]
      split <;> simp
    · rw [rearmed_changed s l e hm]
      split <;> simp

theorem muteIfReached_line_ne (t : State) {k : LineId} (hk : k ≠ l) : (t.muteIfReached l).line k = t.line k := by
  unfold State.muteIfReached State.muteLine
  dsimp only
  split
  · rw [record_line, line_updLine_ne _ l k _ hk]
  · rfl

theorem disableLine_line_ne (t : State) {k : LineId} (hk : k ≠ l) : (t.disableLine l).line k = t.line k := by
  unfold State.disableLine
  dsimp only
  refine (line_updLine_ne _ l k _ hk).trans ?_
  split
  · exact (line_updLine_ne _ l k _ hk).trans (record_line ..)
  · rfl

theorem writeLine_line_ne {k : LineId} (hk : k ≠ l) : (s.writeLine l e).line k = s.line k := by
  have hentered : (s.entered l e).line k = s.line k := line_updLine_ne _ l k _ hk
  have harm := arm_line_ne s l e hk
  rcases writeLine_cases s l e with h | h | h | h | h <;> rw [h]
  · exact hentered
  · exact (disableLine_line_ne l _ hk).trans hentered
  · exact harm
  · exact (muteIfReached_line_ne l _ hk).trans hentered
  · exact (muteIfReached_line_ne l _ hk).trans harm

theorem writeLine_base : (s.writeLine l e).base = (s.entered l e).base := by
  rcases writeLine_cases s l e with h | h | h | h | h <;> rw [h] <;> simp

end

end Sys2Proof.Machine
end

section
/-! LINE_SET as it is taken: each change that the write can make, and its reply (R49, R50, R55, R180). Settles O39. -/

namespace Sys2Proof.Machine

theorem finish_line (s : State) (k : LineId) : s.finish.line k = s.line k := by
  have hdeep := finish_deep s
  generalize s.finish = t at hdeep ⊢
  have hwlu : t.wlu = s.wlu := congrArg (fun d => d.2.1) hdeep
  unfold State.line
  rw [hwlu]

/-! ### Disabling a line (R50) -/

/-- A line that is disabled: no mute, no window, no count, no activation. -/
def Line.disabled (x : Line) : Line := { x with mute := none, window := none, nuisance := 0, act := .inactive }

section
variable (s : State) (l : LineId)

theorem disableLine_of_free (h : (s.line l).mute = none) : s.disableLine l = s.updLine l (fun x => { x with window := none, nuisance := 0, act := .inactive }) := by
  unfold State.disableLine
  dsimp only
  rw [if_neg (by rw [h]; decide)]

theorem disableLine_of_muted (h : (s.line l).mute.isSome = true) : s.disableLine l =
    (s.endMute l .disabled).updLine l (fun x => { x with window := none, nuisance := 0, act := .inactive }) := by
  unfold State.disableLine
  dsimp only
  rw [if_pos h]

theorem disableLine_line : ((s.disableLine l).line l).mute = none ∧ ((s.disableLine l).line l).window = none ∧
    ((s.disableLine l).line l).nuisance = 0 ∧ ((s.disableLine l).line l).act = .inactive := by
  cases hm : (s.line l).mute with
  | none =>
    rw [disableLine_of_free s l hm, line_updLine_self]
    exact ⟨hm, rfl, rfl, rfl⟩
  | some n =>
    rw [disableLine_of_muted s l (by rw [hm]; rfl), line_updLine_self, State.endMute, line_updLine_self]
    exact ⟨rfl, rfl, rfl, rfl⟩

theorem disableLine_resume : (s.disableLine l).work.resume = s.work.resume := by
  cases hm : (s.line l).mute with
  | none => rw [disableLine_of_free s l hm]; rfl
  | some n =>
    rw [disableLine_of_muted s l (by rw [hm]; rfl)]
    exact endMute_resume s l .disabled

theorem disableLine_table : (s.disableLine l).table = s.table ∧ (s.disableLine l).apq = s.apq := by
  cases hm : (s.line l).mute with
  | none => rw [disableLine_of_free s l hm]; exact ⟨rfl, rfl⟩
  | some n =>
    rw [disableLine_of_muted s l (by rw [hm]; rfl)]
    exact ⟨table_of_ssc (record_ssc s .lineUnmuted l.val 3 _), record_apq s .lineUnmuted l.val 3 _⟩

theorem Holds.disableLine {s : State} {es : List Event} (h : Holds es s) (hlen : es.length < 24) {l : LineId}
    (hm : (s.line l).mute.isSome = true) :
    Holds (es ++ [s.recordOf .lineUnmuted l.val 3 (some (s.line l).mutedTriggers)]) (s.disableLine l) := by
  rw [disableLine_of_muted s l hm]
  exact (h.endMute hlen l .disabled).same rfl rfl

end

/-! ### Muting a line at its limit (R62) -/

/-- The line is muted for its mute time, its window stopped. -/
def Line.muted (x : Line) : Line := { x with window := none, mute := some (x.entry.muteTime * 60000) }

section
variable (s : State) (l : LineId)

theorem muteLine_eq : s.muteLine l =
    (s.updLine l Line.muted).record .lineMuted l.val (s.line l).nuisance (some (s.line l).entry.muteTime) := rfl

theorem muteLine_frame : (s.muteLine l).frame = (s.updLine l Line.muted).frame := record_frame ..

theorem muteLine_resume : (s.muteLine l).work.resume = s.work.resume :=
  record_resume (s.updLine l Line.muted) .lineMuted l.val (s.line l).nuisance (some (s.line l).entry.muteTime)

theorem Holds.muteLine {s : State} {es : List Event} (h : Holds es s) (hlen : es.length < 24) (l : LineId) :
    Holds (es ++ [s.recordOf .lineMuted l.val (s.line l).nuisance (some (s.line l).entry.muteTime)]) (s.muteLine l) :=
  (h.same (t := s.updLine l Line.muted) rfl rfl).record hlen .lineMuted l.val (s.line l).nuisance (some (s.line l).entry.muteTime)

end

/-! ### The request -/

section
variable (s : State) (p : List Byte) {l : LineId}

theorem reqLineSet_noLine {i : Byte} (h : readLine i = none) : reqLineSet s (i :: p) = refusal s .badField := by
  rw [reqLineSet, h]

theorem reqLineSet_badField (h : readLineEntry l p = none) : reqLineSet s (byte l.val :: p) = refusal s .badField := by
  rw [reqLineSet, readLine_byte]
  dsimp only
  rw [h]

/-- The entry as taken, its debounce clamped (R49). -/
def LineEntry.clamped (e : LineEntry) : LineEntry := { e with debounce := if 250 < e.debounce then 250 else e.debounce }

theorem reqLineSet_written {e : LineEntry} (h : readLineEntry l p = some e) : reqLineSet s (byte l.val :: p) =
    ((s.writeLine l e.clamped).finish, { result := if 250 < e.debounce then .clamped else .ok, payload := [] }) := by
  have hmin : min 250 e.debounce = if 250 < e.debounce then 250 else e.debounce := by
    split <;> omega
  have hresult : okOrClamped (decide (250 < e.debounce)) = if 250 < e.debounce then Result.clamped else .ok := okOrClamped_lt ..
  rw [reqLineSet, readLine_byte]
  dsimp only
  rw [h]
  dsimp only
  rw [hmin, hresult]
  rfl

end

/-- What the write of an entry does, in the terms of the claim about LINE_SET: u is the state as the request takes it, t the state after
the reply has been formed. -/
structure WritesLine (s t : State) (l : LineId) (e : LineEntry) : Prop where
  base : t.base = (s.updLine l (fun x => { x with entry := e })).base
  others : ∀ k, k ≠ l → t.line k = s.line k
  off : (s.line l).entry.enabled = false → e.enabled = false → t.frame = (s.entered l e).frame
  disables : (s.line l).entry.enabled = true → e.enabled = false → (t.line l).mute = none ∧ (t.line l).window = none ∧
    (t.line l).nuisance = 0 ∧ (t.line l).act = .inactive ∧ t.table = s.table ∧ t.apq = s.apq ∧
    ((s.line l).mute.isSome = true → s.roomFor 1 → t.recorded s [s.recordOf .lineUnmuted l.val 3 (some (s.line l).mutedTriggers)])
  keeps : (s.line l).entry.enabled = true → e.enabled = true → (s.line l).entry.triggerMode = e.triggerMode → s.limitKeeps l e →
    t.frame = (s.entered l e).frame
  mutes : (s.line l).entry.enabled = true → e.enabled = true → (s.line l).entry.triggerMode = e.triggerMode → (s.line l).mute = none →
    e.nuisanceLimit ≠ 0 → e.nuisanceLimit ≤ (s.line l).nuisance →
    t.frame = (s.updLine l (fun x => { x with entry := e, window := none, mute := some (e.muteTime * 60000) })).frame ∧
    (s.roomFor 1 → t.recorded s [s.recordOf .lineMuted l.val (s.line l).nuisance (some e.muteTime)])
  arms : e.enabled = true →
    ((s.line l).entry.enabled = false ∨ ((s.line l).entry.triggerMode ≠ e.triggerMode ∧ s.limitKeeps l e)) →
    (¬ atActiveLevel e (s.line l).debounced → t.frame = (s.written l e .inactive).frame) ∧
    (atActiveLevel e (s.line l).debounced → triggerIgnored s.mdc.mode e → t.frame = (s.written l e .pending).frame) ∧
    (atActiveLevel e (s.line l).debounced → ¬ triggerIgnored s.mdc.mode e → (s.line l).mute.isSome = true → t.frame =
      ((s.written l e .spent).updLine l (fun x => { x with mutedTriggers := min 65535 (x.mutedTriggers + 1) })).frame) ∧
    (atActiveLevel e (s.line l).debounced → ¬ triggerIgnored s.mdc.mode e → (s.line l).mute = none → e.role = .record →
      t.frame = (s.written l e .spent).frame ∧ (s.roomFor 1 → t.recorded s [s.recordOf .lineRecord l.val 2 none]))

theorem written_acted (s : State) (l : LineId) (e : LineEntry) (h : atActiveLevel e (s.line l).debounced) :
    (s.written l e .pending).acted l = s.written l e .spent := by
  have hlevel : e.triggerMode.isLevel = true := by
    rw [isLevel_iff]
    rcases h with ⟨h, -⟩ | ⟨h, -⟩
    · exact Or.inl h
    · exact Or.inr h
  rw [State.acted, written_line]
  exact (if_pos hlevel).trans (updLine_updLine ..)

/-- The write of an entry, from a state in which no resumption waits, to the end of its event. -/
theorem writeLine_writes {s : State} (hresume : s.work.resume = none) (l : LineId) (e : LineEntry) :
    WritesLine s (s.writeLine l e).finish l e := by
  have ends : ∀ {v : State}, s.writeLine l e = v → v.work.resume = none → (s.writeLine l e).finish.frame = v.frame :=
    fun he hv => by rw [he]; exact finish_frame hv
  refine ⟨(finish_base _).trans (writeLine_base s l e), fun k hk => (finish_line ..).trans (writeLine_line_ne s l e hk),
    fun ho hn => ends (writeLine_off s l e ho hn) hresume, fun ho hn => ?disables,
    fun ho hn hm hl => ends (writeLine_keeps s l e ho hn hm hl) hresume, fun ho hn hm hfree hlimit hreached => ?mutes,
    fun hn harm => ?arms⟩
  case disables =>
    have hwrite := writeLine_disables s l e ho hn
    have hquiet : ((s.entered l e).disableLine l).work.resume = none := (disableLine_resume ..).trans hresume
    obtain ⟨hmute, hwindow, hnuisance, hact⟩ := disableLine_line (s.entered l e) l
    obtain ⟨htable, hapq⟩ := disableLine_table (s.entered l e) l
    have hframe := ends hwrite hquiet
    have hline : (s.writeLine l e).finish.line l = ((s.entered l e).disableLine l).line l := by rw [hwrite, finish_line]
    refine ⟨by rw [hline]; exact hmute, by rw [hline]; exact hwindow, by rw [hline]; exact hnuisance, by rw [hline]; exact hact,
      (frame_table hframe).trans htable, (frame_apq hframe).trans hapq, fun hm hroom => ?_⟩
    have hstart : Holds s.evq.events (s.entered l e) := Holds.start hroom
    have hkeeps := (hstart.disableLine hroom.2 (l := l) (by rw [entered_line]; exact hm)).keeps
    rw [hwrite]
    rw [entered_line] at hkeeps
    exact Keeps.finish_recorded (s := s) hkeeps
  case mutes =>
    have hwrite := writeLine_mutes s l e ho hn hm hfree hlimit hreached
    refine ⟨(ends hwrite ((muteLine_resume ..).trans hresume)).trans ((muteLine_frame ..).trans ?_), fun hroom => ?_⟩
    · rw [State.entered, updLine_updLine]
      rfl
    · have hstart : Holds s.evq.events (s.entered l e) := Holds.start hroom
      have hkeeps := (hstart.muteLine hroom.2 l).keeps
      rw [hwrite]
      rw [entered_line] at hkeeps
      exact Keeps.finish_recorded (s := s) hkeeps
  case arms =>
    have hwrite := writeLine_arms s l e hn harm
    have hline := written_line s l e .pending
    have active : atActiveLevel e (s.line l).debounced → s.writeLine l e = (s.written l e .pending).trigger l .level :=
      fun h => hwrite.trans (arm_of_active s l e h)
    have hign : ∀ {b : Prop}, (triggerIgnored s.mdc.mode e → b) →
        triggerIgnored (s.written l e .pending).mdc.mode ((s.written l e .pending).line l).entry → b := by
      intro b hb hx
      rw [hline] at hx
      exact hb hx
    refine ⟨fun h => ends (hwrite.trans (arm_of_inactive s l e h)) hresume, fun h hi => ?_, fun h hi hm => ?_, fun h hi hm hrole => ?_⟩
    · exact ends ((active h).trans (trigger_of_ignored (by rw [hline]; exact hi))) hresume
    · have heq := trigger_of_muted (s := s.written l e .pending) (e := .level) (hign hi) (by rw [hline]; exact hm)
      rw [written_acted s l e h] at heq
      exact ends (v := (s.written l e .spent).updLine l (fun x => { x with mutedTriggers := min 65535 (x.mutedTriggers + 1) }))
        ((active h).trans heq) hresume
    · have heq := trigger_of_unmuted (s := s.written l e .pending) (e := .level) (hign hi) (by rw [hline]; exact hm)
      rw [written_acted s l e h, roleTrigger_of_record (by rw [written_line]; exact hrole)] at heq
      have hfinal := (active h).trans heq
      refine ⟨(ends hfinal ((record_resume ..).trans hresume)).trans (record_frame ..), fun hroom => ?_⟩
      have hstart : Holds s.evq.events (s.written l e .spent) := Holds.start hroom
      have hkeeps := (hstart.record hroom.2 .lineRecord l.val Edge.level.code none).keeps
      rw [hfinal]
      exact Keeps.finish_recorded (s := s) hkeeps

/-- The claim looks at nothing that the taking of a frame or a reply changes. -/
theorem WritesLine.replied {s v : State} {l : LineId} {e : LineEntry} (h : WritesLine s.taken v l e) (type : Byte) (a : Answer) :
    WritesLine s (v.sendReply type a) l e :=
  ⟨h.base, h.others, h.off, h.disables, h.keeps, h.mutes, h.arms⟩

/-- Settles O39. -/
theorem lineSetIsTaken : Obligations.LineSetIsTaken := by
  intro l p s h hp
  have hlength : ∀ i : Byte, requestLength 0x18 = some (i :: p).length := fun i => by
    rw [List.length_cons, hp]
    rfl
  have hfits : ∀ i : Byte, (Instr.lineSet (i :: p)).wellFormed = true := fun i => by
    simp [Instr.wellFormed, payloadFits, hp]
  refine ⟨?fields, fun i hf hi => ?noLine, fun hw => ?writable⟩
  case fields =>
    rintro f m d r c q n w t rfl
    exact readLineEntry_eq_none l f m d r c q n w t
  case noLine =>
    exact exec_of_owner_changed (t := s) rfl (hfits i) h (by decide) (hlength i) (not_linkFault hf _)
      (lockRefuses_noLine s p (readLine_eq_none hi)) (reqLineSet_noLine s.taken p (readLine_eq_none hi))
  case writable =>
    have hk : s.lockRefuses 0x18 (byte l.val :: p) = false :=
      (lockRefuses_line s p (readLine_byte l)).trans (unlocked_of_entryWritable hw)
    have does : ∀ {t : State} {a : Answer}, reqLineSet s.taken (byte l.val :: p) = (t, a) →
        exec (.lineSet (byte l.val :: p)) s = .next (t.sendReply (0x18 + 0x80) a) :=
      fun ha => exec_of_owner rfl (hfits _) h (by decide) (hlength _) (not_linkFault hw.1 _) hk ha
    refine ⟨fun hread => does (reqLineSet_badField s.taken p hread), fun e hread => ?_⟩
    have hexec := does (reqLineSet_written s.taken p hread)
    have hwrites := writeLine_writes (s := s.taken) h.resume l e.clamped
    generalize (s.taken.writeLine l e.clamped).finish = v at hexec hwrites
    obtain ⟨hbase, hothers, hoff, hdisables, hkeeps, hmutes, harms⟩ :=
      hwrites.replied (0x18 + 0x80) { result := if 250 < e.debounce then .clamped else .ok, payload := [] }
    exact ⟨_, hexec, sendReply_replies .., hbase, hothers, hoff, hdisables, hkeeps, hmutes, fun ha => (harms ha.1 ha.2).1,
      fun ha => (harms ha.1 ha.2).2.1, fun ha => (harms ha.1 ha.2).2.2.1, fun ha => (harms ha.1 ha.2).2.2.2⟩

end Sys2Proof.Machine
end

section
/-! Mode changes: what an entry into a mode leaves of the frame and records (R4, R6, R8), and the level lines that trigger at PARKED entry
(R8 step 5, R55). Settles O30. -/

namespace Sys2Proof.Machine

/-! ### MDC's part of the frame -/

/-- The change of MDC looks at the sub-state for nothing but the sub-state. -/
def IgnoresSub (g : Mdc → Mdc) : Prop := ∀ m x, { g { m with sub := x } with sub := none } = { g m with sub := none }

theorem base_mdc {s t : State} (h : s.base = t.base) : { s.mdc with sub := none } = { t.mdc with sub := none } := congrArg Base.mdc h

theorem frame_mdc {s t : State} (h : t.frame = s.frame) : t.mdc = { s.mdc with sub := t.mdc.sub } := by
  have hbase : { t.mdc with sub := none } = { s.mdc with sub := none } := congrArg Base.mdc (frame_base h)
  have hrest := Mdc.mk.inj hbase
  obtain ⟨hmode, -, hdrive, hhandover, halways, htimer, htimeout, hparked, hign, hservice⟩ := hrest
  cases ht : t.mdc
  rw [ht] at hmode hdrive hhandover halways htimer htimeout hparked hign hservice
  simp_all

/-- A change of MDC's own state changes the frame by the frame alone. -/
theorem mdc_frame {s t : State} (h : t.frame = s.frame) (g : Mdc → Mdc) (hg : IgnoresSub g) :
    { t with mdc := g t.mdc }.frame = { s with mdc := g s.mdc }.frame := by
  have hmdc : { g t.mdc with sub := none } = { g s.mdc with sub := none } := by
    rw [frame_mdc h]
    exact hg ..
  have hbase := frame_base h
  have htable := frame_table h
  have hapq := frame_apq h
  have hdeep : { t with mdc := g t.mdc }.deep = { s with mdc := g s.mdc }.deep := by
    refine Prod.ext ?_ (Prod.ext (frame_wlu h) (frame_wsc h))
    simp only [State.base, Base.mk.injEq] at hbase
    simp only [State.deep, State.base, Base.mk.injEq, hmdc]
    tauto
  exact frame_of hdeep htable hapq

theorem setMode_frame (s : State) (m : Mode) (c : ModeCause) : (s.setMode m c).frame = { s with mdc.mode := m }.frame := record_frame ..

theorem setHolds_frame (s : State) (a b c : Bool) :
    (s.setHolds a b c).frame = { s with mdc.driveHold := a, mdc.handoverHold := b, mdc.alwaysHold := c }.frame := demandChanged_frame _

theorem setMode_resume (s : State) (m : Mode) (c : ModeCause) : (s.setMode m c).work.resume = s.work.resume :=
  record_resume { s with mdc.mode := m } .modeChanged m.code c.code none

theorem setHolds_noted (s : State) (a b c : Bool) : (s.setHolds a b c).noted = s.noted := demandChanged_noted _

theorem Holds.setMode {s : State} {es : List Event} (h : Holds es s) (hlen : es.length < 24) (m : Mode) (c : ModeCause) :
    Holds (es ++ [s.recordOf .modeChanged m.code c.code none]) (s.setMode m c) :=
  (h.same (t := { s with mdc.mode := m }) rfl rfl).record hlen .modeChanged m.code c.code none

/-! ### Level lines that wait for a mode (R55) -/

/-- The line's level activation waits to trigger (R8 step 5). -/
def Line.waits (x : Line) : Prop := x.entry.enabled = true ∧ x.entry.triggerMode.isLevel = true ∧ x.act = .pending

theorem waits_iff {x : Line} : (x.entry.enabled && x.entry.triggerMode.isLevel && x.act == .pending) = true ↔ x.waits := by
  simp [Line.waits, and_assoc]

/-- One line's part of `State.triggerPending`. -/
def State.triggerWaiting (s : State) (l : LineId) : State :=
  if (s.line l).entry.enabled && (s.line l).entry.triggerMode.isLevel && (s.line l).act == .pending then s.trigger l .level else s

theorem triggerPending_eq (s : State) : s.triggerPending = lineIds.foldl State.triggerWaiting s := rfl

theorem triggerWaiting_of_waits {s : State} {l : LineId} (h : (s.line l).waits) : s.triggerWaiting l = s.trigger l .level :=
  if_pos (waits_iff.2 h)

theorem triggerWaiting_of_not {s : State} {l : LineId} (h : ¬ (s.line l).waits) : s.triggerWaiting l = s :=
  if_neg (fun hx => h (waits_iff.1 hx))

theorem triggerWaiting_none {ls : List LineId} {s : State} (h : ∀ l ∈ ls, ¬ (s.line l).waits) : ls.foldl State.triggerWaiting s = s := by
  induction ls with
  | nil => rfl
  | cons l ls ih =>
    rw [List.foldl_cons, triggerWaiting_of_not (h l List.mem_cons_self)]
    exact ih fun k hk => h k (List.mem_cons_of_mem _ hk)

theorem triggerPending_none {s : State} (h : ∀ l, ¬ (s.line l).waits) : s.triggerPending = s :=
  triggerWaiting_none fun l _ => h l

theorem mem_lineIds (l : LineId) : l ∈ lineIds := List.mem_finRange l

theorem nodup_lineIds : lineIds.Nodup := List.nodup_finRange 16

/-- A line that alone waits is the one that triggers. -/
theorem triggerPending_one {s : State} {l : LineId} (h : ∀ k, (s.line k).waits ↔ k = l) : s.triggerPending = s.trigger l .level := by
  obtain ⟨before, after, hsplit⟩ := List.append_of_mem (mem_lineIds l)
  have hnodup := nodup_lineIds
  rw [hsplit, List.nodup_append] at hnodup
  obtain ⟨-, hafter, hdisjoint⟩ := hnodup
  have hne : ∀ k ∈ after, k ≠ l := fun k hk he => (List.nodup_cons.1 hafter).1 (he ▸ hk)
  have hbefore : ∀ k ∈ before, k ≠ l := fun k hk => hdisjoint k hk l List.mem_cons_self
  rw [triggerPending_eq, hsplit, List.foldl_append, triggerWaiting_none (fun k hk hw => hbefore k hk ((h k).1 hw)), List.foldl_cons,
    triggerWaiting_of_waits ((h l).2 rfl)]
  refine triggerWaiting_none fun k hk hw => hne k hk ((h k).1 ?_)
  rwa [trigger_line_ne s .level (hne k hk)] at hw

/-- A RECORD line that triggers where its mode acts and no mute stands: its activation is SPENT and the trigger recorded (R54, R58). -/
theorem trigger_of_record {s : State} {l : LineId} {e : Edge} (hi : ¬ triggerIgnored s.mdc.mode (s.line l).entry)
    (hm : (s.line l).mute = none) (hl : (s.line l).entry.triggerMode.isLevel = true) (hrole : (s.line l).entry.role = .record) :
    s.trigger l e = (s.updLine l (fun x => { x with act := .spent })).record .lineRecord l.val e.code none := by
  have hacted : s.acted l = s.updLine l (fun x => { x with act := .spent }) := if_pos hl
  rw [trigger_of_unmuted hi hm, hacted]
  exact roleTrigger_of_record (by rw [line_updLine_self]; exact hrole)

/-! ### PARKED entry (R8) -/

/-- PARKED entry before the waiting lines trigger. -/
def State.parkedEntry (s : State) (c : ModeCause) : State :=
  (((s.setMode .parked c).stopHandover).setHolds false false true).refreshSub

theorem enterParked_eq (s : State) (c : ModeCause) : s.enterParked c = (s.parkedEntry c).triggerPending := rfl

/-- MDC in PARKED, as the entry leaves it (R8). -/
def Mdc.parkedNow (m : Mdc) : Mdc :=
  { m with mode := .parked, handoverTimer := none, driveHold := false, handoverHold := false, alwaysHold := true }

theorem parkedEntry_frame (s : State) (c : ModeCause) : (s.parkedEntry c).frame = { s with mdc := s.mdc.parkedNow }.frame := by
  have hmode := setMode_frame s .parked c
  have hrest : ({ s.setMode .parked c with mdc := { (s.setMode .parked c).mdc with
      handoverTimer := none, driveHold := false, handoverHold := false, alwaysHold := true } } : State).frame = _ :=
    mdc_frame hmode (fun m => { m with handoverTimer := none, driveHold := false, handoverHold := false, alwaysHold := true })
      (fun _ _ => rfl)
  exact (refreshSub_frame _).trans ((setHolds_frame ..).trans hrest)

theorem parkedEntry_resume (s : State) (c : ModeCause) : (s.parkedEntry c).work.resume = s.work.resume := by
  unfold State.parkedEntry
  rw [noted_resume (refreshSub_noted _), noted_resume (setHolds_noted ..)]
  exact setMode_resume s .parked c

theorem Holds.parkedEntry {s : State} {es : List Event} (h : Holds es s) (hlen : es.length < 24) (c : ModeCause) :
    Holds (es ++ [s.recordOf .modeChanged 2 c.code none]) (s.parkedEntry c) :=
  (((h.setMode hlen .parked c).same (t := (s.setMode .parked c).stopHandover) rfl rfl).noted (setHolds_noted ..)).refreshSub

theorem lapse_mute {s : State} (h : s.held = false) (n : Nat) {l : LineId} (hm : (s.line l).mute = none) :
    ((s.lapse n).line l).mute = none := by
  rw [lapse_line h n l, Line.lapse, hm]
  rfl

/-- What a PARKED entry's single waiting RECORD line does (R8 step 5, R55, R58). -/
theorem parkedEntry_triggers {s : State} {l : LineId} (h : ∀ k, (s.line k).waits ↔ k = l) (hm : (s.line l).mute = none)
    (hrole : (s.line l).entry.role = .record) (hmode : s.mdc.mode = .parked) :
    s.triggerPending = (s.updLine l (fun x => { x with act := .spent })).record .lineRecord l.val 2 none := by
  have hlevel := ((h l).2 rfl).2.1
  have hacts : ¬ triggerIgnored s.mdc.mode (s.line l).entry := by
    rw [hmode]
    simp [triggerIgnored]
  rw [triggerPending_one h, trigger_of_record hacts hm hlevel hrole]
  rfl

theorem frame_line {s t : State} (h : t.frame = s.frame) (l : LineId) : t.line l = s.line l := by
  have hwlu := frame_wlu h
  unfold State.line
  rw [hwlu]

theorem frame_seconds {s t : State} (h : t.frame = s.frame) : t.wsc.seconds = s.wsc.seconds := congrArg Wsc.seconds (frame_wsc h)

/-- What a lapse leaves of ADM, BTM and CHM. -/
theorem lapse_tables (s : State) (n : Nat) : (s.lapse n).adm = s.adm ∧ (s.lapse n).btm = s.btm ∧
    (s.lapse n).chm.reserve = s.chm.reserve ∧ (s.lapse n).chm.reserveRem = s.chm.reserveRem := by
  unfold State.lapse
  (repeat' split) <;> exact ⟨rfl, rfl, rfl, rfl⟩

/-- Settles O30: PARKED entry, and the single line that waits. -/
theorem handoverTimeoutParks : Obligations.HandoverTimeoutParks := by
  intro s n h hn
  have hexec : exec .handoverTimeout s = .next ((s.lapse n).enterParked .handoverTimeout).finish :=
    timed_of_some h.awake hn (fun s => s.enterParked .handoverTimeout)
  have hbase := (finish_base ((s.lapse n).enterParked .handoverTimeout)).trans (enterParked_base (s.lapse n) .handoverTimeout)
  obtain ⟨hderived, -⟩ := finish_settled ((s.lapse n).enterParked .handoverTimeout)
  have hentry := parkedEntry_frame (s.lapse n) .handoverTimeout
  have hresume : ((s.lapse n).parkedEntry .handoverTimeout).work.resume = none := (parkedEntry_resume ..).trans (h.lapse_resume n)
  have holds : s.roomFor 1 → Holds (s.evq.events ++ [(s.lapse n).recordOf .modeChanged 2 2 none]) ((s.lapse n).parkedEntry .handoverTimeout) :=
    fun hroom => (lapse_holds n (Holds.start hroom)).parkedEntry hroom.2 .handoverTimeout
  have hkeeps : s.roomFor 1 → Keeps (s.evq.events ++ [(s.lapse n).recordOf .modeChanged 2 2 none])
      ((s.lapse n).enterParked .handoverTimeout) := fun hroom => (Closed.records _).triggerPending (holds hroom).keeps
  have hline : ∀ k, ((s.lapse n).parkedEntry .handoverTimeout).line k = (s.line k).lapse n :=
    fun k => (frame_line hentry k).trans (lapse_line h.awake n k)
  rw [enterParked_eq] at hexec hbase hderived hkeeps
  generalize (s.lapse n).parkedEntry .handoverTimeout = v at *
  obtain ⟨hadm, hbtm, hreserve, -⟩ := lapse_tables s n
  have hmode : v.triggerPending.finish.mdc.mode = .parked := base_mode hbase
  refine ⟨_, hexec, base_mdc hbase, hderived.sub, ?_, (base_reserve hbase).trans hreserve, (base_adm hbase).trans hadm,
    (base_btm hbase).trans hbtm, fun hroom => Keeps.finish_recorded (hkeeps hroom), fun hnone => ?none, fun l honly hen hrole hm hlevel => ?one⟩
  · rw [hderived.period, hmode]
  case none =>
    have hquiet : v.triggerPending = v := triggerPending_none fun l hw => hnone l (by
      rw [hline] at hw
      exact hw.2.2)
    rw [hquiet]
    exact (finish_frame hresume).trans hentry
  case one =>
    have hwaits : ∀ k, (v.line k).waits ↔ k = l := by
      intro k
      rw [hline]
      refine ⟨fun hw => (honly k).1 hw.2.2, ?_⟩
      rintro rfl
      exact ⟨hen, isLevel_iff.2 hlevel, (honly k).2 rfl⟩
    have hmute : (v.line l).mute = none := by
      rw [hline, Line.lapse, hm]
      rfl
    have htrigger := parkedEntry_triggers hwaits hmute (by rw [hline]; exact hrole) ((base_mode (frame_base hentry)).trans rfl)
    have hspent : s.roomFor 2 → Holds (s.evq.events ++ [(s.lapse n).recordOf .modeChanged 2 2 none])
        (v.updLine l (fun x => { x with act := .spent })) := fun hroom => (holds ⟨hroom.1, by have := hroom.2; omega⟩).same rfl rfl
    have hspentResume : (v.updLine l (fun x => { x with act := .spent })).work.resume = none := hresume
    have hseconds : (v.updLine l (fun x => { x with act := .spent })).wsc.seconds = s.wsc.seconds :=
      (frame_seconds hentry).trans (lapse_seconds s n)
    rw [htrigger]
    refine ⟨Eq.trans ?_ (updLine_frame hentry l (fun x => { x with act := .spent })), fun hroom => ?_⟩
    all_goals generalize v.updLine l (fun x => { x with act := .spent }) = z at *
    · exact (finish_frame ((record_resume ..).trans hspentResume)).trans (record_frame ..)
    · have hlen : (s.evq.events ++ [(s.lapse n).recordOf .modeChanged 2 2 none]).length < 24 := by
        have hlen := hroom.2
        rw [List.length_append]
        simp only [List.length_cons, List.length_nil]
        omega
      have hkept := ((hspent hroom).record hlen .lineRecord l.val 2 none).keeps
      rw [recordOf_congr hseconds, List.append_assoc] at hkept
      exact Keeps.finish_recorded hkept

end Sys2Proof.Machine
end

section
/-! DRIVE entry (R4): every session closed with IGNITION, in table order, every approach record IDLE. Settles O27. -/

namespace Sys2Proof.Machine

/-! ### Approach records -/

/-- An approach record that no session listens by; the repeat count stays (R66). -/
def Approach.idle (a : Approach) : Approach := { a with listen := none }

theorem approach_idleLine_self (s : State) (l : LineId) : (s.idleLine l).approach l = (s.approach l).idle := by
  unfold State.idleLine
  rw [approach_updApproach_self]
  rfl

theorem approach_idleLine_ne (s : State) {l k : LineId} (h : k ≠ l) : (s.idleLine l).approach k = s.approach k :=
  approach_updApproach_ne s l k _ h

theorem approach_idleLine_idle (s : State) (l k : LineId) : ((s.idleLine l).approach k).idle = (s.approach k).idle := by
  by_cases h : k = l
  · rw [h, approach_idleLine_self]
    rfl
  · rw [approach_idleLine_ne s h]

theorem approach_idleLines_idle (ls : List LineId) (s : State) (k : LineId) :
    ((s.idleLines ls).approach k).idle = (s.approach k).idle := by
  unfold State.idleLines
  induction ls generalizing s with
  | nil => rfl
  | cons l ls ih => exact (ih (s.idleLine l)).trans (approach_idleLine_idle s l k)

/-- A line among those returned to IDLE is IDLE after it, its repeat count kept. -/
theorem approach_idleLines_of_mem {ls : List LineId} {k : LineId} (h : k ∈ ls) (s : State) :
    (s.idleLines ls).approach k = (s.approach k).idle := by
  unfold State.idleLines
  induction ls generalizing s with
  | nil => cases h
  | cons l ls ih =>
    rw [List.foldl_cons]
    by_cases hk : k ∈ ls
    · rw [ih hk, approach_idleLine_idle]
    · obtain rfl := (List.mem_cons.1 h).resolve_right hk
      clear ih h
      have hstays : ∀ u : State, u.approach k = (s.approach k).idle → (ls.foldl State.idleLine u).approach k = (s.approach k).idle := by
        induction ls with
        | nil => exact fun u hu => hu
        | cons j ls ih =>
          rw [List.mem_cons, not_or] at hk
          exact fun u hu => ih hk.2 (u.idleLine j) ((approach_idleLine_ne u hk.1).trans hu)
      exact hstays _ (approach_idleLine_self s k)

theorem approach_of_apq {s t : State} (h : t.apq = s.apq) (l : LineId) : t.approach l = s.approach l := by
  unfold State.approach
  rw [h]

theorem approach_closeSession_idle (s : State) (id : Nat) (why : CloseReason) (l : LineId) :
    ((s.closeSession id why).approach l).idle = (s.approach l).idle := by
  cases hx : s.session? id with
  | none =>
    unfold State.closeSession
    rw [hx]
  | some x =>
    obtain ⟨-, rfl⟩ := session_some hx
    rw [approach_of_apq (frame_apq (closeSession_frame hx why)) l]
    exact approach_idleLines_idle x.listening _ l

theorem approach_closeWhere_idle (s : State) (p : Session → Bool) (why : CloseReason) (l : LineId) :
    ((s.closeWhere p why).approach l).idle = (s.approach l).idle :=
  foldl_keeps (fun t : State => (t.approach l).idle) (fun t (x : Session) => t.closeSession x.id why)
    (fun t x => approach_closeSession_idle t x.id why l) _ s

/-! ### The Session Table emptied -/

theorem closeSession_nextId (s : State) (id : Nat) (why : CloseReason) : (s.closeSession id why).ssc.nextId = s.ssc.nextId := by
  cases hx : s.session? id with
  | none =>
    unfold State.closeSession
    rw [hx]
  | some x =>
    obtain ⟨-, rfl⟩ := session_some hx
    have hleft := congrArg Ssc.nextId
      (idleLines_ssc { s with ssc.sessions := s.ssc.sessions.filter (fun y => y.id != x.id) } x.listening)
    exact (congrArg Prod.snd (frame_table (closeSession_frame hx why))).trans hleft

/-- Every session closed leaves the table empty, and the next id as it is. -/
theorem closeWhere_all (s : State) (why : CloseReason) :
    (s.closeWhere (fun _ => true) why).ssc = { s.ssc with sessions := [] } := by
  have hempty : (s.closeWhere (fun _ => true) why).ssc.sessions = [] :=
    List.eq_nil_iff_forall_not_mem.2 fun y hy => absurd (not_of_mem_closeWhere hy).2 (by simp)
  have hnext : (s.closeWhere (fun _ => true) why).ssc.nextId = s.ssc.nextId :=
    foldl_keeps (fun t : State => t.ssc.nextId) (fun t (x : Session) => t.closeSession x.id why)
      (fun t x => closeSession_nextId t x.id why) _ s
  cases hssc : (s.closeWhere (fun _ => true) why).ssc with
  | mk sessions nextId =>
    rw [hssc] at hempty hnext
    rw [show sessions = [] from hempty, show nextId = s.ssc.nextId from hnext]

/-- With no session left a resumption that the event has put off comes to nothing. -/
theorem resumeNow_of_empty {s : State} (h : s.ssc.sessions = []) : s.resumeNow = { s with work.resume := none } := by
  unfold State.resumeNow
  split
  · unfold State.resume State.session?
    rw [h]
    rfl
  · next hnone => rw [← hnone]

theorem finish_of_empty {s : State} (h : s.ssc.sessions = []) : s.finish = State.finish { s with work.resume := none } := by
  have hnone := resumeNow_none (s := { s with work.resume := none }) rfl
  unfold State.finish
  rw [resumeNow_of_empty h, hnone]

theorem finish_frame_of_empty {s : State} (h : s.ssc.sessions = []) : s.finish.frame = s.frame := by
  rw [finish_of_empty h]
  exact finish_frame rfl

theorem finish_ssc_of_empty {s : State} (h : s.ssc.sessions = []) : s.finish.ssc = s.ssc := by
  have htable := frame_table (finish_frame_of_empty h)
  unfold State.table at htable
  rw [h, List.map_nil, Prod.mk.injEq, List.map_eq_nil_iff] at htable
  cases hf : s.finish.ssc with
  | mk sessions nextId =>
    rw [hf] at htable
    obtain ⟨rfl, rfl⟩ := htable
    rw [← h]

/-! ### The entry -/

section
variable {s : State}

/-- DRIVE entry before the sessions close. -/
def State.driven (s : State) : State := (s.setMode .drive .ignitionOn).stopHandover

theorem enterDrive_eq (s : State) : s.enterDrive = ((s.driven.closeWhere (fun _ => true) .ignition).idleAll).setHolds true false true := rfl

theorem setHolds_apq (s : State) (a b c : Bool) : (s.setHolds a b c).apq = s.apq :=
  (frame_apq (setHolds_frame s a b c)).trans rfl

theorem setHolds_ssc (s : State) (a b c : Bool) : (s.setHolds a b c).ssc = s.ssc := demandChanged_ssc _

theorem driven_frame (s : State) : s.driven.frame = { s with mdc.mode := .drive, mdc.handoverTimer := none }.frame :=
  mdc_frame (setMode_frame s .drive .ignitionOn) (fun m => { m with handoverTimer := none }) (fun _ _ => rfl)

theorem driven_apq (s : State) : s.driven.apq = s.apq := (frame_apq (driven_frame s)).trans rfl

theorem driven_ssc (s : State) : s.driven.ssc = s.ssc := record_ssc { s with mdc.mode := .drive } ..

theorem driven_seconds (s : State) : s.driven.wsc.seconds = s.wsc.seconds := (frame_seconds (driven_frame s)).trans rfl

theorem enterDrive_ssc (s : State) : s.enterDrive.ssc = { s.ssc with sessions := [] } := by
  rw [enterDrive_eq, setHolds_ssc, ← driven_ssc s, ← closeWhere_all s.driven .ignition]
  exact idleLines_ssc _ lineIds

theorem enterDrive_approach (s : State) (l : LineId) : s.enterDrive.approach l = { s.approach l with listen := none } := by
  rw [enterDrive_eq, approach_of_apq (setHolds_apq ..)]
  calc ((s.driven.closeWhere (fun _ => true) .ignition).idleAll).approach l
      = ((s.driven.closeWhere (fun _ => true) .ignition).approach l).idle := approach_idleLines_of_mem (mem_lineIds l) _
    _ = (s.driven.approach l).idle := approach_closeWhere_idle ..
    _ = (s.approach l).idle := by rw [approach_of_apq (driven_apq s)]

theorem enterDrive_deep (s : State) : s.enterDrive.wlu = s.wlu ∧ s.enterDrive.wsc = s.wsc := by
  have hclosed : ((s.driven.closeWhere (fun _ => true) .ignition).idleAll).deep = s.driven.deep :=
    (idleLines_deep _ lineIds).trans (closeWhere_deep ..)
  have hdriven := driven_frame s
  rw [enterDrive_eq]
  generalize (s.driven.closeWhere (fun _ => true) .ignition).idleAll = v at *
  have hholds := setHolds_frame v true false true
  have hwlu := frame_wlu hholds
  have hwsc := frame_wsc hholds
  have hwluAt := frame_wlu hdriven
  have hwscAt := frame_wsc hdriven
  exact ⟨hwlu.trans ((deep_wlu hclosed).trans hwluAt), hwsc.trans ((deep_wsc hclosed).trans hwscAt)⟩

theorem Holds.driven {es : List Event} (h : Holds es s) (hlen : es.length < 24) :
    Holds (es ++ [s.recordOf .modeChanged 0 0 none]) s.driven := (h.setMode hlen .drive .ignitionOn).same rfl rfl

theorem Keeps.enterDrive {es : List Event} (h : Keeps es s.driven) : Keeps es s.enterDrive := by
  have k := Closed.records es
  exact k.setHolds _ _ _ (k.idleAll (k.closeWhere _ _ h))

/-- The records of DRIVE entry: the mode's, and then each session's in table order (R118). -/
theorem Holds.enterDrive {es : List Event} (h : Holds es s) (hs : SessionsSound s) (hroom : es.length + (1 + s.ssc.sessions.length) ≤ 24) :
    Holds (es ++ s.recordOf .modeChanged 0 0 none :: s.ssc.sessions.map (s.closing 7)) s.enterDrive := by
  have hdriven := h.driven (by omega)
  have hsessions := driven_ssc s
  have hsound : SessionsSound s.driven := hs.congr hsessions
  have hclosed := hdriven.closeWhere hsound (fun _ => true) .ignition (by
    rw [List.filter_eq_self.2 (fun _ _ => rfl), driven_ssc, List.length_append]
    simp only [List.length_cons, List.length_nil]
    omega)
  have hclosing : s.driven.closing 7 = s.closing 7 := funext fun _ => recordOf_congr (driven_seconds s) ..
  rw [List.filter_eq_self.2 (fun _ _ => rfl), driven_ssc, show CloseReason.ignition.code = 7 from rfl, hclosing, List.append_assoc] at hclosed
  have hidle := hclosed.noted (idleLines_noted (s.driven.closeWhere (fun _ => true) .ignition) lineIds)
  exact hidle.noted (setHolds_noted ..)

end

/-! ### What a lapse leaves of the sessions and the approach records -/

theorem lapse_nextId (s : State) (n : Nat) : (s.lapse n).ssc.nextId = s.ssc.nextId := by
  unfold State.lapse
  (repeat' split) <;> rfl

theorem lapse_emptied (s : State) (n : Nat) : { (s.lapse n).ssc with sessions := [] } = { s.ssc with sessions := [] } :=
  congrArg (Ssc.mk []) (lapse_nextId s n)

theorem Session.lapse_zero (x : Session) : x.lapse 0 = x := by
  unfold Session.lapse
  split
  · rfl
  · simp only [Nat.add_zero, Option.map_id']

theorem lapse_sessions {s : State} (h : s.held = false) (n : Nat) : (s.lapse n).ssc.sessions = s.ssc.sessions.map (Session.lapse n) := by
  unfold State.lapse
  split
  · next hzero =>
    rw [hzero, List.map_congr_left (fun x _ => x.lapse_zero), List.map_id']
  · rw [if_neg (by rw [h]; decide)]

theorem approach_lapse {s : State} (h : s.held = false) (n : Nat) (l : LineId) :
    (s.lapse n).approach l = s.approachLapse n (s.approach l) := by
  unfold State.lapse
  split
  · next hzero =>
    subst hzero
    have hlisten : ∀ r, (if s.windowCounts r = true then { r with window := r.window - 0 } else r) = r := fun r => by split <;> rfl
    unfold State.approachLapse
    simp only [hlisten, Option.map_id']
  · rw [if_neg (by rw [h]; decide)]
    simp [State.approach]

theorem approach_lapse_idle {s : State} (h : s.held = false) (n : Nat) (l : LineId) :
    ({ (s.lapse n).approach l with listen := none } : Approach) = { s.approach l with listen := none } := by
  rw [approach_lapse h]
  rfl

theorem Session.lapse_closing (s : State) (n reason : Nat) (x : Session) : s.closing reason (x.lapse n) = s.closing reason x := by
  unfold Session.lapse
  split <;> rfl

/-- The records of the closings are those of the sessions as they stood before a lapse. -/
theorem closing_lapse {s u : State} (h : u.wsc.seconds = s.wsc.seconds) (n reason : Nat) :
    (u.closing reason ∘ Session.lapse n) = s.closing reason :=
  funext fun x => (Session.lapse_closing u n reason x).trans (recordOf_congr h ..)

/-- The IGN interval's end at the level held (R1). -/
def State.ignTaken (s : State) : State := { s with mdc.ign := s.mdc.ign.settled }

theorem ignSettles_rise {s : State} (hpin : s.mdc.ign.pin = true) (hd : s.mdc.ign.debounced = false) (hm : s.mdc.mode ≠ .drive) :
    s.ignSettles = s.ignTaken.enterDrive := by
  have hlevel : s.mdc.ign.settled.debounced ≠ s.mdc.ign.debounced := by
    rw [show s.mdc.ign.settled.debounced = s.mdc.ign.pin from rfl, hpin, hd]
    decide
  have hchange : s.ignSettles = s.ignTaken.ignChanged s.mdc.ign.settled.debounced := if_neg hlevel
  rw [hchange, show s.mdc.ign.settled.debounced = s.mdc.ign.pin from rfl, hpin]
  exact if_neg hm

/-- Settles O27: DRIVE entry, with the records in their order. -/
theorem ignitionOnEntersDrive : Obligations.IgnitionOnEntersDrive := by
  intro s n h hn hpin hdebounced hmode
  obtain ⟨-, hpinAt, hdebouncedAt⟩ := lapse_inputs h.awake n
  have hexec : exec .ignDebounceEnd s = .next (s.lapse n).ignSettles.finish := timed_of_some h.awake hn State.ignSettles
  have hrises := ignSettles_rise (s := s.lapse n) (hpinAt.trans hpin) (hdebouncedAt.trans hdebounced) (by rwa [lapse_mode h.awake])
  obtain ⟨hadm, hbtm, hreserve, hrem⟩ := lapse_tables s n
  obtain ⟨u, hu⟩ : ∃ u, u = (s.lapse n).ignTaken := ⟨_, rfl⟩
  rw [hrises, ← hu] at hexec
  have hbase := (finish_base u.enterDrive).trans (enterDrive_base u)
  obtain ⟨hderived, -⟩ := finish_settled u.enterDrive
  have hempty : u.enterDrive.ssc.sessions = [] := congrArg Ssc.sessions (enterDrive_ssc u)
  have hframe := finish_frame_of_empty hempty
  obtain ⟨hwlu, hwsc⟩ := enterDrive_deep u
  have hmodeAt : u.enterDrive.finish.mdc.mode = .drive := base_mode hbase
  have hsub : u.enterDrive.finish.mdc.sub = none := by
    rw [hderived.sub, State.subNow, hmodeAt]
    rfl
  refine ⟨_, hexec, hmodeAt, ?ign, base_handoverTimer hbase, base_driveHold hbase, base_handoverHold hbase, base_alwaysHold hbase, hsub,
    ?ssc, fun l => ?approach, ?period, ?reserve, ?rem, (frame_wlu hframe).trans (hwlu.trans ?wlu), (frame_wsc hframe).trans (hwsc.trans ?wsc),
    (base_adm hbase).trans ?adm, (base_btm hbase).trans ?btm, fun d => ?entry, fun hroom => ?changed, fun hsound hroom => ?closed⟩
  case ign =>
    rw [base_ign hbase, hu]
    exact hpinAt.trans hpin
  case ssc =>
    rw [finish_ssc_of_empty hempty, enterDrive_ssc, hu]
    exact lapse_emptied s n
  case approach =>
    rw [approach_of_apq (frame_apq hframe) l, enterDrive_approach, hu]
    exact approach_lapse_idle h.awake n l
  case period => rw [hderived.period, hmodeAt, samplePeriod]
  case reserve => rw [base_reserve hbase, hu]; exact hreserve
  case rem => rw [base_reserveRem hbase, hu]; exact hrem
  case wlu => rw [hu]; rfl
  case wsc => rw [hu]; rfl
  case adm => rw [hu]; exact hadm
  case btm => rw [hu]; exact hbtm
  case entry =>
    rw [base_entry hbase d, hu]
    exact lapse_entry s n d
  case changed =>
    have hstart : Holds s.evq.events u := by
      rw [hu]
      exact (lapse_holds n (Holds.start hroom)).same rfl rfl
    have hkept := (hstart.driven hroom.2).keeps.enterDrive
    rw [hu] at hkept ⊢
    exact Keeps.finish_recorded (s := s) hkept
  case closed =>
    have hstart : Holds s.evq.events u := by
      rw [hu]
      exact (lapse_holds n (Holds.start hroom)).same rfl rfl
    have hsoundAt : SessionsSound u := by
      rw [hu]
      exact (lapse_sessionsSound n hsound).congr rfl
    have hsessions : u.ssc.sessions = s.ssc.sessions.map (Session.lapse n) := by
      rw [hu]
      exact lapse_sessions h.awake n
    have hkept := (hstart.enterDrive hsoundAt (by rw [hsessions, List.length_map]; exact hroom.2)).keeps
    have hseconds : u.wsc.seconds = s.wsc.seconds := by
      rw [hu]
      exact lapse_seconds s n
    rw [recordOf_congr hseconds, hsessions, List.map_map, closing_lapse hseconds] at hkept
    exact Keeps.finish_recorded (s := s) hkept

end Sys2Proof.Machine
end

section
/-! Records and the attention line (R166, R167, R171 to R173): what one record does to the queue and to the note of the attention condition,
and what an event's end makes of ATTN from them. Settles O60. -/

namespace Sys2Proof.Machine

/-! ### One record -/

theorem noteAppend_condFirst (s : State) : s.noteAppend.work.condFirst = some (s.work.condFirst.getD s.attention) := by
  unfold State.noteAppend
  split
  · next c hc => rw [hc]; rfl
  · next hc => rw [hc]; rfl

/-- KEEP_OLDEST drops a record for which there is no room (R167). -/
theorem record_of_dropped {s : State} (h : 24 ≤ s.evq.events.length) (hp : s.evq.policy = .keepOldest) (k : RecordKind) (a b : Nat)
    (v : Option Nat) : s.record k a b v = { s with evq.lost := min 255 (s.evq.lost + 1) } := by
  unfold State.record
  dsimp only
  rw [if_neg (by omega), hp]

/-- KEEP_NEWEST drops the oldest record for it (R167). -/
theorem record_of_replaced {s : State} (h : 24 ≤ s.evq.events.length) (hp : s.evq.policy = .keepNewest) (k : RecordKind) (a b : Nat)
    (v : Option Nat) : s.record k a b v = { s with
      evq := { s.evq with events := s.evq.events.drop 1 ++ [s.recordOf k a b v], lost := min 255 (s.evq.lost + 1) },
      work := s.noteAppend.work } := by
  obtain ⟨w, heq⟩ := noteAppend_eq s
  unfold State.record
  dsimp only
  rw [if_neg (by omega)]
  split
  · next hold => cases hold.symm.trans hp
  · rw [heq]
    rfl

/-- The queue keeps the next record: it has room for it, or the policy makes room. -/
def State.keepsNext (s : State) : Prop := s.evq.events.length < 24 ∨ s.evq.policy = .keepNewest

theorem not_keepsNext {s : State} (h : ¬ s.keepsNext) : 24 ≤ s.evq.events.length ∧ s.evq.policy = .keepOldest := by
  rw [State.keepsNext, not_or, Nat.not_lt] at h
  refine ⟨h.1, ?_⟩
  cases hp : s.evq.policy with
  | keepOldest => rfl
  | keepNewest => exact absurd hp h.2

/-- A record that is kept notes the attention condition, unless the event has noted it before (R172). -/
theorem record_condFirst_kept {s : State} (h : s.keepsNext) (k : RecordKind) (a b : Nat) (v : Option Nat) :
    (s.record k a b v).work.condFirst = some (s.work.condFirst.getD s.attention) := by
  by_cases hroom : s.evq.events.length < 24
  · rw [record_of_room hroom]
    exact noteAppend_condFirst s
  · rw [record_of_replaced (by omega) (h.resolve_left hroom)]
    exact noteAppend_condFirst s

theorem record_condFirst_some {s : State} {c : Bool} (h : s.work.condFirst = some c) (k : RecordKind) (a b : Nat) (v : Option Nat) :
    (s.record k a b v).work.condFirst = some c := by
  by_cases hk : s.keepsNext
  · rw [record_condFirst_kept hk, h]
    rfl
  · obtain ⟨hlen, hp⟩ := not_keepsNext hk
    rw [record_of_dropped hlen hp]
    exact h

theorem record_events_ne_nil (s : State) (k : RecordKind) (a b : Nat) (v : Option Nat) : (s.record k a b v).evq.events ≠ [] := by
  by_cases hk : s.keepsNext
  · by_cases hroom : s.evq.events.length < 24
    · rw [record_of_room hroom]
      exact List.append_ne_nil_of_right_ne_nil _ (List.cons_ne_nil _ _)
    · rw [record_of_replaced (by omega) (hk.resolve_left hroom)]
      exact List.append_ne_nil_of_right_ne_nil _ (List.cons_ne_nil _ _)
  · obtain ⟨hlen, hp⟩ := not_keepsNext hk
    rw [record_of_dropped hlen hp]
    intro hnil
    have : s.evq.events = [] := hnil
    rw [this] at hlen
    exact absurd hlen (by decide)

/-- What no record changes of the queue's settings and of the pulse. -/
theorem record_settings (s : State) (k : RecordKind) (a b : Nat) (v : Option Nat) :
    (s.record k a b v).evq.pulse = s.evq.pulse ∧ (s.record k a b v).evq.attnMode = s.evq.attnMode ∧
      (s.record k a b v).evq.policy = s.evq.policy := by
  by_cases hk : s.keepsNext
  · by_cases hroom : s.evq.events.length < 24
    · rw [record_of_room hroom]
      exact ⟨rfl, rfl, rfl⟩
    · rw [record_of_replaced (by omega) (hk.resolve_left hroom)]
      exact ⟨rfl, rfl, rfl⟩
  · obtain ⟨hlen, hp⟩ := not_keepsNext hk
    rw [record_of_dropped hlen hp]
    exact ⟨rfl, rfl, rfl⟩

/-- The queue grows by a record that is kept, and never shrinks below the records it had when it had room. -/
theorem record_length (s : State) (k : RecordKind) (a b : Nat) (v : Option Nat) :
    min 24 (s.evq.events.length + 1) ≤ (s.record k a b v).evq.events.length := by
  by_cases hk : s.keepsNext
  · by_cases hroom : s.evq.events.length < 24
    · rw [record_of_room hroom]
      simp only [List.length_append, List.length_cons, List.length_nil]
      omega
    · rw [record_of_replaced (by omega) (hk.resolve_left hroom)]
      simp only [List.length_append, List.length_drop, List.length_cons, List.length_nil]
      omega
  · obtain ⟨hlen, hp⟩ := not_keepsNext hk
    rw [record_of_dropped hlen hp]
    show _ ≤ s.evq.events.length
    omega

/-! ### The event's end up to ATTN -/

/-- The state whose DEPENDENCY_BLOCKED records an event's end makes. -/
def State.ramped (s : State) : State := State.grants 12 s.resumeNow.settle.enqueueArrivals

/-- The state from which an event's end drives ATTN. -/
def State.beforeAttn (s : State) : State := s.ramped.recordBlocked.refreshSessions.refreshOwners.refreshSub

theorem finish_eq (s : State) : s.finish = s.beforeAttn.refreshAttn.endEvent := by
  rw [State.finish, State.beforeAttn, State.ramped]

theorem enqueueArrivals_noted (s : State) : s.enqueueArrivals.noted = s.noted := rfl

theorem refreshSessions_noted (s : State) : s.refreshSessions.noted = s.noted := rfl

theorem ramped_noted {s : State} (h : s.work.resume = none) : s.ramped.noted = s.noted := by
  rw [State.ramped, grants_noted, resumeNow_none h, enqueueArrivals_noted, settle_noted]

theorem recordBlocked_closed {P : State → Prop} (record : ∀ s k a b v, P s → P (State.record s k a b v))
    (marks : ∀ s, P s → P { s with work.blocked := [] }) {s : State} (h : P s) : P s.recordBlocked := by
  unfold State.recordBlocked
  refine foldl_closed _ (fun t d ht => ?_) _ (marks s h)
  split
  · exact record _ _ _ _ _ ht
  · exact ht

theorem refreshOwners_noted (s : State) : s.refreshOwners.noted = s.noted :=
  foldl_keeps State.noted (fun (t : State) d => t.updDom d (fun x => { x with owner := s.ownerOf d })) (fun _ _ => rfl) domIds s

theorem beforeAttn_noted (s : State) : s.beforeAttn.noted = s.ramped.recordBlocked.noted := by
  rw [State.beforeAttn, refreshSub_noted, refreshOwners_noted, refreshSessions_noted]

/-- What records keep, and what only looks at the queue and the notes, an event's end keeps up to ATTN. -/
theorem beforeAttn_keeps {P : State → Prop} (same : ∀ s t : State, t.noted = s.noted → P s → P t)
    (record : ∀ s k a b v, P s → P (State.record s k a b v)) {s : State} (hw : s.work.resume = none) (h : P s) : P s.beforeAttn :=
  same _ _ (beforeAttn_noted s) (recordBlocked_closed record (fun t ht => same t _ rfl ht) (same _ _ (ramped_noted hw) h))

theorem finish_dom0 (s : State) : (s.finish.dom 0).state = (s.beforeAttn.dom 0).state := by
  rw [finish_eq]
  generalize s.beforeAttn = u
  obtain ⟨attn, pulse, heq⟩ := refreshAttn_eq u
  rw [heq]
  rfl

theorem recorded_state (s : State) (d : DomId) :
    (s.recordBlocked.refreshSessions.refreshOwners.refreshSub.dom d).state = (s.dom d).state := by
  rw [power_dom (refreshSub_power _), refreshOwners_state, refreshSessions_dom, power_dom (recordBlocked_power s)]

theorem beforeAttn_state (s : State) (d : DomId) : (s.beforeAttn.dom d).state = (s.ramped.dom d).state := recorded_state s.ramped d

theorem ramped_dom0 (s : State) : (s.ramped.dom 0).state = (s.finish.dom 0).state := ((finish_dom0 s).trans (beforeAttn_state s 0)).symm

theorem finish_evq (s : State) : s.finish.evq = s.beforeAttn.refreshAttn.evq := by
  rw [finish_eq]
  rfl

theorem finish_events (s : State) : s.finish.evq.events = s.beforeAttn.evq.events := by
  rw [finish_evq]
  exact refreshAttn_evq_events _

theorem beforeAttn_settings {s : State} (hw : s.work.resume = none) :
    s.beforeAttn.evq.pulse = s.evq.pulse ∧ s.beforeAttn.evq.attnMode = s.evq.attnMode :=
  beforeAttn_keeps (P := fun t => t.evq.pulse = s.evq.pulse ∧ t.evq.attnMode = s.evq.attnMode)
    (fun _ _ hn h => ⟨(congrArg (fun n => n.1.pulse) hn).trans h.1, (congrArg (fun n => n.1.attnMode) hn).trans h.2⟩)
    (fun t k a b v h => ⟨(record_settings t k a b v).1.trans h.1, (record_settings t k a b v).2.1.trans h.2⟩) hw ⟨rfl, rfl⟩

theorem beforeAttn_condFirst {s : State} {c : Bool} (hw : s.work.resume = none) (h : s.work.condFirst = some c) :
    s.beforeAttn.work.condFirst = some c :=
  beforeAttn_keeps (P := fun t => t.work.condFirst = some c) (fun _ _ hn h => (noted_condFirst hn).trans h)
    (fun _ k a b v h => record_condFirst_some h k a b v) hw h

/-- Where KEEP_OLDEST drops every further record, none notes the condition. -/
theorem beforeAttn_condFirst_of_dropped {s : State} (hw : s.work.resume = none) (h : s.work.condFirst = none)
    (hlen : 24 ≤ s.evq.events.length) (hp : s.evq.policy = .keepOldest) : s.beforeAttn.work.condFirst = none := by
  refine (beforeAttn_keeps (P := fun t => t.work.condFirst = none ∧ 24 ≤ t.evq.events.length ∧ t.evq.policy = .keepOldest) ?_ ?_ hw
    ⟨h, hlen, hp⟩).1
  · rintro t u hn ⟨hc, hl, hq⟩
    exact ⟨(noted_condFirst hn).trans hc, (congrArg List.length (noted_events hn)).symm ▸ hl, (noted_policy hn).trans hq⟩
  · rintro t k a b v ⟨hc, hl, hq⟩
    rw [record_of_dropped hl hq]
    exact ⟨hc, hl, hq⟩

theorem finish_events_ne_nil {s : State} (hw : s.work.resume = none) (h : s.evq.events ≠ []) : s.finish.evq.events ≠ [] := by
  rw [finish_events]
  exact beforeAttn_keeps (P := fun t => t.evq.events ≠ []) (fun _ _ hn h => (noted_events hn).symm ▸ h)
    (fun t k a b v _ => record_events_ne_nil t k a b v) hw h

/-- The queue and the note of the condition agree: nothing kept and nothing noted, or the condition c noted at the first of the records
kept. -/
def Noting (old : List Event) (c : Bool) (s : State) : Prop :=
  (s.evq.events = old ∧ s.work.condFirst = none ∧ s.attention = c) ∨ (old.length < s.evq.events.length ∧ s.work.condFirst = some c)

theorem Noting.record {old : List Event} {c : Bool} {s : State} (hroom : old.length < 24) (h : Noting old c s) (k : RecordKind) (a b : Nat)
    (v : Option Nat) : Noting old c (s.record k a b v) := by
  have hlength := record_length s k a b v
  right
  rcases h with ⟨hevents, hnone, hc⟩ | ⟨hlen, hsome⟩
  · refine ⟨by rw [hevents] at hlength; omega, ?_⟩
    rw [record_condFirst_kept (.inl (by rw [hevents]; exact hroom)), hnone, hc]
    rfl
  · exact ⟨by omega, record_condFirst_some hsome k a b v⟩

/-- An event whose work made no record: nothing is noted while the queue stays as it was, and otherwise the condition as it stood when the
grants had been made. -/
theorem beforeAttn_noting {s : State} (hw : s.work.resume = none) (h : s.work.condFirst = none) (hroom : s.evq.events.length < 24) :
    (s.finish.evq.events = s.evq.events ∧ s.beforeAttn.work.condFirst = none) ∨
      (s.finish.evq.events ≠ s.evq.events ∧ s.beforeAttn.work.condFirst = some s.ramped.attention) := by
  have hgranted := ramped_noted hw
  have hnoting : Noting s.evq.events s.ramped.attention s.ramped.recordBlocked :=
    recordBlocked_closed (fun _ k a b v ht => ht.record hroom k a b v) (fun _ ht => ht)
      (.inl ⟨noted_events hgranted, (noted_condFirst hgranted).trans h, rfl⟩)
  have hnoted := beforeAttn_noted s
  rw [finish_events, noted_events hnoted, noted_condFirst hnoted]
  rcases hnoting with ⟨hevents, hnone, -⟩ | ⟨hlen, hsome⟩
  · exact .inl ⟨hevents, hnone⟩
  · exact .inr ⟨fun he => absurd (congrArg List.length he) (by omega), hsome⟩

/-! ### ATTN and its pulse (R171 to R173) -/

section
variable {s : State}

theorem refreshAttn_pulse_started (hon : (s.dom 0).state = .on) (hm : s.evq.attnMode = .pulse) (hc : s.work.condFirst = some true) :
    s.refreshAttn.evq.pulse = some 1 := by
  simp [State.refreshAttn, State.startPulse, State.dom, hm, hc] at hon ⊢
  simp [hon]

theorem refreshAttn_pulse_kept (hon : (s.dom 0).state = .on) (hm : s.evq.attnMode = .pulse) (hc : s.work.condFirst ≠ some true) :
    s.refreshAttn.evq.pulse = s.evq.pulse := by
  simp [State.refreshAttn, hm, hc, hon]

theorem refreshAttn_pulse_level (hm : s.evq.attnMode = .level) : s.refreshAttn.evq.pulse = none := by
  simp [State.refreshAttn, hm]

variable (hw : s.work.resume = none)
include hw

theorem finish_pulse_started (hon : (s.finish.dom 0).state = .on) (hm : s.evq.attnMode = .pulse)
    (hc : s.beforeAttn.work.condFirst = some true) : s.finish.evq.pulse = some 1 := by
  rw [finish_evq]
  exact refreshAttn_pulse_started ((finish_dom0 s).symm.trans hon) ((beforeAttn_settings hw).2.trans hm) hc

theorem finish_pulse_kept (hon : (s.finish.dom 0).state = .on) (hm : s.evq.attnMode = .pulse)
    (hc : s.beforeAttn.work.condFirst ≠ some true) : s.finish.evq.pulse = s.evq.pulse := by
  rw [finish_evq]
  exact (refreshAttn_pulse_kept ((finish_dom0 s).symm.trans hon) ((beforeAttn_settings hw).2.trans hm) hc).trans (beforeAttn_settings hw).1

theorem finish_pulse_level (hm : s.evq.attnMode = .level) : s.finish.evq.pulse = none := by
  rw [finish_evq]
  exact refreshAttn_pulse_level ((beforeAttn_settings hw).2.trans hm)

omit hw

theorem finish_attn_of_pulse (h : s.finish.evq.pulse = some 1) : s.finish.evq.attn = false := by
  rw [(finish_settled s).1.attn, h]
  exact Bool.and_false _

theorem finish_attn_of_none (h : s.finish.evq.pulse = none) : s.finish.evq.attn = s.finish.attention := by
  rw [(finish_settled s).1.attn, h]
  exact Bool.and_true _

theorem attention_of_records (hon : (s.dom 0).state = .on) (h : s.evq.events ≠ []) : s.attention = true := by
  simp [State.attention, hon, h]

theorem attention_iff (hon : (s.dom 0).state = .on) : s.attention = true ↔ s.evq.events ≠ [] ∨ s.lnk.linkFault = true := by
  simp [State.attention, hon]

end

theorem ramped_linkFault (s : State) : s.ramped.lnk.linkFault = s.lnk.linkFault := by
  have hdeep : s.resumeNow.settle.enqueueArrivals.deep = s.deep := (enqueueArrivals_deep _).trans ((settle_deep _).trans (resumeNow_deep s))
  exact base_linkFault (deep_base ((grants_deep 12 _).trans hdeep))

theorem readPulse_of_setState {s : State} (d : DomId) (n : DomState) (t : Nat) (h : s.evq.readPulse = false) :
    (s.setState d n t).evq.readPulse = false :=
  setState_keeps (P := fun t => t.evq.readPulse = false) (fun _ _ _ h => h) (fun _ _ h => h) (fun _ _ => rfl) (fun _ h => h) s d n t h

theorem record_readPulse (s : State) (k : RecordKind) (a b : Nat) (v : Option Nat) : (s.record k a b v).evq.readPulse = s.evq.readPulse := by
  obtain ⟨w, hw⟩ := noteAppend_eq s
  unfold State.record
  dsimp only
  split
  · rw [hw]
  · split
    · rfl
    · rw [hw]

theorem Domestic.readPulse : Domestic (fun t => t.evq.readPulse = false) where
  setState _ d n t h := readPulse_of_setState d n t h
  dom _ _ _ _ h := h
  rmp _ _ h := h
  d0Held _ _ h := h
  work _ _ h := h
  record s k a b v _ h := (record_readPulse s k a b v).trans h
  sub _ _ h := h
  chm _ _ h := h

/-- No event's end notes a read. -/
theorem finish_readPulse {s : State} (hw : s.work.resume = none) (h : s.evq.readPulse = false) : s.finish.evq.readPulse = false :=
  Domestic.readPulse.finish (by rw [resumeNow_none hw]; exact h) (fun _ h => h) fun s h => by
    obtain ⟨a, p, heq⟩ := refreshAttn_eq s
    rw [heq]
    exact h

/-! ### The clauses -/

/-- One record by the room and the policy (R166, R167). -/
theorem record_evq (k : RecordKind) (a b : Nat) (v : Option Nat) (s : State) :
    (s.evq.events.length < 24 → (s.record k a b v).evq = { s.evq with events := s.evq.events ++ [s.recordOf k a b v] }) ∧
    (24 ≤ s.evq.events.length → s.evq.policy = .keepOldest →
      (s.record k a b v).evq = { s.evq with lost := min 255 (s.evq.lost + 1) }) ∧
    (24 ≤ s.evq.events.length → s.evq.policy = .keepNewest →
      (s.record k a b v).evq = { s.evq with events := s.evq.events.drop 1 ++ [s.recordOf k a b v], lost := min 255 (s.evq.lost + 1) }) := by
  refine ⟨fun h => ?_, fun h hp => ?_, fun h hp => ?_⟩
  · rw [record_of_room h]
  · rw [record_of_dropped h hp]
  · rw [record_of_replaced h hp]

theorem lapse_linkFault (s : State) (n : Nat) : (s.lapse n).lnk.linkFault = s.lnk.linkFault := by
  unfold State.lapse
  (repeat' split) <;> rfl

theorem lapse_pulse_of_none {s : State} (n : Nat) (h : s.evq.pulse = none) : (s.lapse n).evq.pulse = none := by
  unfold State.lapse
  split
  · exact h
  · split
    · exact h
    · show countDown n s.evq.pulse = none
      rw [h]
      rfl

/-- The pulse that the record of a mute's expiry starts, and where it starts none. -/
theorem muteExpiry_pulses {s : State} {l : LineId} {n : Nat} (h : Ready s) (hn : (s.line l).mute = some n) (hon : (s.dom 0).state = .on) :
    let condition := s.evq.events ≠ [] ∨ s.lnk.linkFault = true
    let kept := s.evq.events.length < 24 ∨ s.evq.policy = .keepNewest
    ∃ t, exec (.muteExpiry l) s = .next t ∧ ((t.dom 0).state = .on →
      (s.evq.attnMode = .pulse → condition → kept → t.evq.pulse = some 1 ∧ t.evq.attn = false) ∧
      (s.evq.attnMode = .pulse → ¬ (condition ∧ kept) →
        t.evq.pulse = (s.lapse n).evq.pulse ∧ (s.evq.pulse = none → t.evq.attn = true)) ∧
      (s.evq.attnMode = .level → t.evq.pulse = none ∧ t.evq.attn = true)) := by
  intro condition kept
  have hexec : exec (.muteExpiry l) s = .next ((s.lapse n).endMute l .expired).finish :=
    timed_of_some h.awake hn (fun s => s.endMute l .expired)
  obtain ⟨hevents, hpolicy, hattnMode, -⟩ := lapse_evq s n
  have hresume : ((s.lapse n).endMute l .expired).work.resume = none := (endMute_resume ..).trans (h.lapse_resume n)
  have honAt : ((s.lapse n).dom 0).state = .on := (lapse_dom_state s n 0).trans hon
  have hcondition : (s.lapse n).attention = true ↔ condition := by
    rw [attention_iff honAt, hevents, lapse_linkFault]
  have hkept : (s.lapse n).keepsNext ↔ kept := by
    rw [State.keepsNext, hevents, hpolicy]
  have hnone : (s.lapse n).work.condFirst = none := by
    rw [lapse_work, h.between]
    rfl
  have hlasting : ((s.lapse n).endMute l .expired).evq.events ≠ [] :=
    record_events_ne_nil (s.lapse n) .lineUnmuted l.val 0 (some ((s.lapse n).line l).mutedTriggers)
  obtain ⟨hpulse, hmode, -⟩ := record_settings (s.lapse n) .lineUnmuted l.val 0 (some ((s.lapse n).line l).mutedTriggers)
  have hpulse' : ((s.lapse n).endMute l .expired).evq.pulse = (s.lapse n).evq.pulse := hpulse
  have hmode' : ((s.lapse n).endMute l .expired).evq.attnMode = s.evq.attnMode := hmode.trans hattnMode
  have hnoted : kept → ((s.lapse n).endMute l .expired).work.condFirst = some (s.lapse n).attention := fun hk =>
    (record_condFirst_kept (hkept.2 hk) .lineUnmuted l.val 0 (some ((s.lapse n).line l).mutedTriggers)).trans (by rw [hnone]; rfl)
  have hdropped : ¬ kept → ((s.lapse n).endMute l .expired).work.condFirst = none ∧
      24 ≤ ((s.lapse n).endMute l .expired).evq.events.length ∧ ((s.lapse n).endMute l .expired).evq.policy = .keepOldest := by
    intro hk
    obtain ⟨hlen, hp⟩ := not_keepsNext (mt hkept.1 hk)
    have hrecord := record_of_dropped hlen hp .lineUnmuted l.val 0 (some ((s.lapse n).line l).mutedTriggers)
    have hmute : (s.lapse n).endMute l .expired =
        State.updLine ((s.lapse n).record .lineUnmuted l.val 0 (some ((s.lapse n).line l).mutedTriggers)) l Line.unmuted := rfl
    rw [hmute, hrecord]
    exact ⟨hnone, hlen, hp⟩
  generalize (s.lapse n).endMute l .expired = u at *
  refine ⟨_, hexec, fun honT => ⟨fun hm hc hk => ?_, fun hm hno => ?_, fun hm => ?_⟩⟩
  · have hstarted := finish_pulse_started hresume honT (hmode'.trans hm)
      (beforeAttn_condFirst hresume ((hnoted hk).trans (congrArg some (hcondition.2 hc))))
    exact ⟨hstarted, finish_attn_of_pulse hstarted⟩
  · have hquiet : u.beforeAttn.work.condFirst ≠ some true := by
      by_cases hk : kept
      · have hfalse : (s.lapse n).attention = false := by
          rw [← Bool.not_eq_true, hcondition]
          exact fun hc => hno ⟨hc, hk⟩
        rw [beforeAttn_condFirst hresume (hnoted hk), hfalse]
        decide
      · obtain ⟨hc, hlen, hp⟩ := hdropped hk
        rw [beforeAttn_condFirst_of_dropped hresume hc hlen hp]
        exact fun he => nomatch he
    have hpulseT := (finish_pulse_kept hresume honT (hmode'.trans hm) hquiet).trans hpulse'
    exact ⟨hpulseT, fun hp => (finish_attn_of_none (hpulseT.trans (lapse_pulse_of_none n hp))).trans
      (attention_of_records honT (finish_events_ne_nil hresume hlasting))⟩
  · have hpulseT := finish_pulse_level hresume (hmode'.trans hm)
    exact ⟨hpulseT, (finish_attn_of_none hpulseT).trans (attention_of_records honT (finish_events_ne_nil hresume hlasting))⟩

/-- The end of the reply of an EVENTS_READ that left records starts a pulse (R172). -/
theorem replyEnd_pulses {s : State} (h : Ready s) (hr : s.lnk.reply.isSome = true) (hreset : s.lnk.resetDue = false)
    (hheld : s.dmc.d0Held = none) (hempty : s.lnk.inbound = []) (hon : (s.dom 0).state = .on) (hevents : s.evq.events ≠ [])
    (hm : s.evq.attnMode = .pulse) (hread : s.evq.readPulse = true) :
    ∃ t, exec .replyEnd s = .next t ∧ t.evq.readPulse = false ∧ ((t.dom 0).state = .on → t.evq.pulse = some 1 ∧ t.evq.attn = false) := by
  have hexec := exec_replyEnd h.awake hr
  obtain ⟨hinbound, hreset', -, -, hheld', hwork⟩ := lapse_link s s.lnk.replyLeft
  obtain ⟨heventsAt, -, hmodeAt, hreadAt⟩ := lapse_evq s s.lnk.replyLeft
  have honAt : ((s.lapse s.lnk.replyLeft).dom 0).state = .on := (lapse_dom_state ..).trans hon
  have hresume := h.lapse_resume s.lnk.replyLeft
  rw [replySent_of_plain (hreset'.trans hreset) (hheld'.trans hheld)] at hexec
  generalize s.lapse s.lnk.replyLeft = u at *
  have hidle : LinkIdle u.replied.finish :=
    finish_linkIdle (by rw [replied_work]; exact hresume) (by rw [LinkIdle, replied_lnk]; exact ⟨rfl, hinbound.trans hempty⟩)
  have hnext : u.replied.finish.takeNext = u.replied.finish := by
    rw [State.takeNext, if_neg (by rw [hidle.1]; decide), hidle.2]
  have hevq : u.replied.evq = { u.evq with readPulse := false, pulse := some 1 } := by
    have hattention : State.attention { u.clearReply with dmc.d0Held := none } = true :=
      attention_of_records (s := { u.clearReply with dmc.d0Held := none }) honAt (by rw [← heventsAt] at hevents; exact hevents)
    have hmode : ({ u.clearReply with dmc.d0Held := none } : State).evq.attnMode = .pulse := hmodeAt.trans hm
    have hcause : ({ u.clearReply with dmc.d0Held := none } : State).evq.readPulse = true := hreadAt.trans hread
    have hstarts : (State.evq { u.clearReply with dmc.d0Held := none }).readPulse &&
        (State.evq { u.clearReply with dmc.d0Held := none }).attnMode = .pulse && State.attention { u.clearReply with dmc.d0Held := none } := by
      rw [hattention, hmode, hcause]
      rfl
    exact congrArg State.evq (if_pos hstarts)
  have hresumeAt : u.replied.work.resume = none := by rw [replied_work]; exact hresume
  rw [hnext] at hexec
  have hmodeNow : u.replied.evq.attnMode = .pulse := by
    rw [hevq]
    exact hmodeAt.trans hm
  refine ⟨_, hexec, ?_, fun honT => ?_⟩
  · rw [finish_readPulse hresumeAt (by rw [hevq])]
  · have hpulse : u.replied.finish.evq.pulse = some 1 := by
      by_cases hc : u.replied.beforeAttn.work.condFirst = some true
      · exact finish_pulse_started hresumeAt honT hmodeNow hc
      · rw [finish_pulse_kept hresumeAt honT hmodeNow hc, hevq]
    exact ⟨hpulse, finish_attn_of_pulse hpulse⟩

/-- The end of a pulse, with what the event's own records make of it (R171, R172). -/
theorem pulseEnd_levels {s : State} {n : Nat} (h : Ready s) (hn : s.evq.pulse = some n) (hroom : s.evq.events.length < 24) :
    ∃ t, exec .attnPulseEnd s = .next t ∧ t.frame = (s.lapse n).frame ∧ t.evq.attn = (t.attention && t.evq.pulse.isNone) ∧
      (t.evq.events = s.evq.events → t.evq.pulse = none ∧ t.evq.attn = t.attention) ∧
      (t.evq.events ≠ s.evq.events → s.evq.attnMode = .pulse → (t.dom 0).state = .on → s.evq.events ≠ [] ∨ s.lnk.linkFault = true →
        t.evq.pulse = some 1 ∧ t.evq.attn = false) := by
  have hexec : exec .attnPulseEnd s = .next (State.finish { s.lapse n with evq.pulse := none }) :=
    timed_of_some h.awake hn (fun s => { s with evq.pulse := none })
  obtain ⟨hevents, -, hmode, -⟩ := lapse_evq s n
  have hfault := lapse_linkFault s n
  have hresume : ({ s.lapse n with evq.pulse := none } : State).work.resume = none := h.lapse_resume n
  have hnone : ({ s.lapse n with evq.pulse := none } : State).work.condFirst = none := by
    show (s.lapse n).work.condFirst = none
    rw [lapse_work, h.between]
    rfl
  have hframe : ({ s.lapse n with evq.pulse := none } : State).frame = (s.lapse n).frame := rfl
  obtain ⟨u, hu⟩ : ∃ u, u = ({ s.lapse n with evq.pulse := none } : State) := ⟨_, rfl⟩
  have hpulse : u.evq.pulse = none := by rw [hu]
  replace hevents : u.evq.events = s.evq.events := by rw [hu]; exact hevents
  replace hmode : u.evq.attnMode = s.evq.attnMode := by rw [hu]; exact hmode
  replace hfault : u.lnk.linkFault = s.lnk.linkFault := by rw [hu]; exact hfault
  rw [← hu] at hexec hresume hnone hframe
  have hnoting := beforeAttn_noting hresume hnone (by rw [hevents]; exact hroom)
  rw [hevents] at hnoting
  refine ⟨_, hexec, (finish_frame hresume).trans hframe, (finish_settled u).1.attn, fun hsame => ?_, fun hmore hm honT hcondition => ?_⟩
  · obtain ⟨-, hquiet⟩ := hnoting.resolve_right (fun hmore => hmore.1 hsame)
    have hpulseT : u.finish.evq.pulse = none := by
      rw [finish_evq]
      exact refreshAttn_pulse_of_none ((beforeAttn_settings hresume).1.trans hpulse) (by rw [hquiet]; exact fun he => nomatch he)
    exact ⟨hpulseT, finish_attn_of_none hpulseT⟩
  · obtain ⟨-, hnoted⟩ := hnoting.resolve_left (fun hsame => hmore hsame.1)
    have hfaultAt : u.ramped.lnk.linkFault = s.lnk.linkFault := by
      rw [ramped_linkFault]
      exact hfault
    have hattention : u.ramped.attention = true := by
      rw [attention_iff ((ramped_dom0 u).trans honT), noted_events (ramped_noted hresume), hevents, hfaultAt]
      exact hcondition
    have hpulseT := finish_pulse_started hresume honT (hmode.trans hm) (hnoted.trans (congrArg some hattention))
    exact ⟨hpulseT, finish_attn_of_pulse hpulseT⟩

/-- Settles O60: the condition is noted at the first record that the event keeps, whether its work makes it or its end. -/
theorem recordsAndPulsesKeepTheirRules : Obligations.RecordsAndPulsesKeepTheirRules := by
  refine ⟨record_evq, fun s l n h hn hon => muteExpiry_pulses h hn hon, fun s m h h1 h8 => ?_,
    fun s h hr hreset hheld hempty hon hevents hm hread => replyEnd_pulses h hr hreset hheld hempty hon hevents hm hread,
    fun s n h hn hroom => pulseEnd_levels h hn hroom⟩
  obtain ⟨attn, pulse, hexec⟩ := exec_eventsRead_of_taken h h1 h8
  refine ⟨_, hexec, ?_⟩
  show (!(s.evq.events.drop _).isEmpty) = true ↔ s.evq.events.drop _ ≠ []
  simp

end Sys2Proof.Machine
end

section
/-! The admission of a new session (R83 to R98): the refusals, the id it is given, and what its record and its demands leave of the frame.
Settles O46. -/

namespace Sys2Proof.Machine

/-! ### The id given (R103) -/

/-- From a counter outside 1 to 255 the ids are tried in succession. -/
theorem freeId_succession (taken : List Nat) (k : Nat) : ∀ n, 255 < n ∨ n + k ≤ 255 → ∃ j ≤ k, freeId taken k n = n + j ∧
    (∀ i < j, n + i ∈ taken) ∧ (j < k → n + j ∉ taken) := by
  induction k with
  | zero => exact fun n _ => ⟨0, le_rfl, rfl, fun i hi => absurd hi i.not_lt_zero, fun h => absurd h (lt_irrefl _)⟩
  | succ k ih =>
    intro n hn
    unfold freeId
    split
    · next hc =>
      rw [if_neg (by omega)]
      obtain ⟨j, hj, heq, hall, hfree⟩ := ih (n + 1) (by omega)
      refine ⟨j + 1, by omega, by omega, fun i hi => ?_, fun h => ?_⟩
      · cases i with
        | zero => exact List.contains_iff_mem.1 hc
        | succ i =>
          rw [← Nat.add_assoc, Nat.add_right_comm]
          exact hall i (by omega)
      · rw [← Nat.add_assoc, Nat.add_right_comm]
        exact hfree (by omega)
    · next hc => exact ⟨0, Nat.zero_le _, rfl, fun i hi => absurd hi i.not_lt_zero, fun _ h => hc (List.contains_iff_mem.2 h)⟩

/-- Whatever the counter, an id that no session holds is found while fewer than seven are taken. -/
theorem freeId_not_taken {taken : List Nat} (n : Nat) (h : taken.length < 7) : freeId taken 7 n ∉ taken := by
  by_cases hn : 1 ≤ n ∧ n ≤ 255
  · exact freeId_free hn h
  · obtain ⟨j, hj, heq, hall, hfree⟩ := freeId_succession taken 7 n (by omega)
    rw [heq]
    rcases hj.lt_or_eq with hj | rfl
    · exact hfree hj
    · have hnodup : ((List.range 7).map (n + ·)).Nodup := List.nodup_range.map_on fun a _ b _ hab => by omega
      have hsub : (List.range 7).map (n + ·) ⊆ taken := by
        intro x hx
        obtain ⟨i, hi, rfl⟩ := List.mem_map.1 hx
        exact hall i (List.mem_range.1 hi)
      have hlen := (hnodup.subperm hsub).length_le
      rw [List.length_map, List.length_range] at hlen
      omega

theorem takeId_givesId {s : State} (h : s.ssc.sessions.length ≤ 6) : s.givesId s.takeId.2 := by
  refine ⟨fun x hx he => ?_, fun hs => ?_⟩
  · refine freeId_not_taken (taken := s.ssc.sessions.map Session.id) s.ssc.nextId (by rw [List.length_map]; omega) ?_
    exact List.mem_map.2 ⟨x, hx, he⟩
  · obtain ⟨j, -, heq, hall, -⟩ := freeId_eq (s.ssc.sessions.map Session.id) 7 s.ssc.nextId hs.next
    refine ⟨j, heq, fun i hi => ?_⟩
    obtain ⟨x, hx, he⟩ := List.mem_map.1 (hall i hi)
    exact ⟨x, hx, he⟩

/-! ### Refusals (R98) -/

section
variable {s : State} {r : Request}

theorem refuse_eq (s : State) (r : Request) (why : Result) (id : Nat) :
    s.refuse r why id = (s.record .wakeRefused r.cls.val why.code (some r.origin.word), .refused why id) := rfl

theorem decideRequest_disabled (h : (s.cls r.cls).enabled = false) : s.decideRequest r = s.refuse r .classDisabled 0 := by
  unfold State.decideRequest
  simp [h]

theorem tierPasses_iff {a b : Tier} : tierPasses a b = true ↔ a.code ≤ b.code := decide_eq_true_iff

theorem tierPasses_false {a b : Tier} (h : b.code < a.code) : tierPasses a b = false := decide_eq_false (by omega)

theorem decideRequest_tier (h : (s.cls r.cls).enabled = true) (ht : (s.cls r.cls).minTier.code < s.btm.tier.code) :
    s.decideRequest r = s.refuse r .tier 0 := by
  unfold State.decideRequest
  simp [h, tierPasses_false ht]

theorem decideRequest_new (h : (s.cls r.cls).enabled = true) (ht : tierPasses s.btm.tier (s.cls r.cls).minTier = true)
    (hn : s.sessionOf? r.cls = none) : s.decideRequest r = s.decideNew r := by
  simp only [State.decideRequest, h, ht, hn, Bool.not_true, Bool.false_eq_true, if_false]

theorem decideRequest_present {x : Session} (h : (s.cls r.cls).enabled = true)
    (ht : tierPasses s.btm.tier (s.cls r.cls).minTier = true) (hx : s.sessionOf? r.cls = some x) :
    s.decideRequest r = s.coalesce r x := by
  simp only [State.decideRequest, h, ht, hx, Bool.not_true, Bool.false_eq_true, if_false]

/-! ### The place, the profile and the candidates (R88, R92 to R96) -/

theorem lowest_nil (s : State) : s.lowest [] = none := rfl

theorem lowest_eq_none {xs : List Session} (h : s.lowest xs = none) : xs = [] := by
  have hsome : ∀ (ys : List Session) (b : Session), ∃ z, ys.foldl (fun best x => match best with
      | none => some x
      | some b => if s.priorityOf x < s.priorityOf b then some x else some b) (some b) = some z := by
    intro ys
    induction ys with
    | nil => exact fun b => ⟨b, rfl⟩
    | cons y ys ih =>
      intro b
      rw [List.foldl_cons]
      dsimp only
      split
      · exact ih y
      · exact ih b
  cases xs with
  | nil => rfl
  | cons x xs =>
    obtain ⟨z, hz⟩ := hsome xs x
    exact absurd (hz.symm.trans h) (by simp)

theorem makePlace_room' {c : ClassEntry} (h : s.ssc.sessions.length < 6) : s.makePlace c = some s := if_pos h

theorem makePlace_full {c : ClassEntry} (h : 6 ≤ s.ssc.sessions.length)
    (hc : c.essential = false ∨ ∀ x ∈ s.ssc.sessions, (s.cls x.cls).essential = true) : s.makePlace c = none := by
  unfold State.makePlace
  rw [if_neg (by omega)]
  split
  · next he =>
    have hnone : s.evictee = none := by
      have hall := hc.resolve_left (by rw [he]; decide)
      have hfilter : s.ssc.sessions.filter (fun x => !(s.cls x.cls).essential) = [] :=
        List.filter_eq_nil_iff.2 fun x hx => by rw [hall x hx]; decide
      rw [State.evictee, hfilter, lowest_nil]
    rw [hnone]
  · rfl

theorem firstFit_wanted {c : ClassEntry} {w : Profile} {n : Nat} (h : s.profileCost c w ≤ n) : s.firstFit c w n = some w := by
  have hfits : decide (s.profileCost c w ≤ n) = true := decide_eq_true h
  unfold State.firstFit profilesTried
  cases w with
  | full =>
    dsimp only
    split <;> exact List.find?_cons_of_pos hfits
  | reduced => exact List.find?_cons_of_pos hfits
  | listen => exact List.find?_cons_of_pos hfits

theorem firstFit_reduced {c : ClassEntry} {n : Nat} (hr : c.reduced.isSome = true) (h : n < s.profileCost c .full)
    (hf : s.profileCost c .reduced ≤ n) : s.firstFit c .full n = some .reduced := by
  unfold State.firstFit profilesTried
  rw [if_pos hr, List.find?_cons_of_neg (by simpa using h)]
  exact List.find?_cons_of_pos (decide_eq_true hf)

theorem firstFit_none {c : ClassEntry} {w : Profile} {n : Nat} (h : ∀ p ∈ profilesTried c w, n < s.profileCost c p) :
    s.firstFit c w n = none :=
  List.find?_eq_none.2 fun p hp => by simpa using h p hp

theorem chooseProfile_fits {c : ClassEntry} {w : Profile} (h : s.fits c (s.profileCost c w) = true) :
    s.chooseProfile c w [] = some (w, none) := by
  unfold State.chooseProfile
  split
  · rfl
  · next hx =>
    unfold State.fits at h
    rw [Bool.or_eq_true, decide_eq_true_eq] at h
    rw [firstFit_wanted (h.resolve_left hx)]

theorem exempt_eq_false {c : ClassEntry} (hm : s.mdc.mode ≠ .handover) (hc : c.essential = false) : s.exempt c = false := by
  simp [State.exempt, hm, hc]

theorem chooseProfile_of_fit {c : ClassEntry} {w p : Profile} {skip : List Nat} (hx : s.exempt c = false)
    (hf : s.firstFit c w (s.headroom skip) = some p) : s.chooseProfile c w skip = some (p, none) := by
  unfold State.chooseProfile
  rw [if_neg (by rw [hx]; decide), hf]

theorem chooseProfile_of_none {c : ClassEntry} {w : Profile} {skip : List Nat} (hx : s.exempt c = false)
    (hf : s.firstFit c w (s.headroom skip) = none) :
    s.chooseProfile c w skip = (s.chargeSuspension c w skip).map (fun q => (q.2, some q.1)) := by
  unfold State.chooseProfile
  rw [if_neg (by rw [hx]; decide), hf]

theorem slotTaken_iff : s.slotTaken = true ↔ ∃ x ∈ s.ssc.sessions, x.active = false := by
  unfold State.slotTaken
  rw [List.any_eq_true]
  simp only [Bool.not_eq_true']

theorem chargeSuspension_none {c : ClassEntry} {w : Profile} {skip : List Nat}
    (h : (∃ x ∈ s.ssc.sessions, x.active = false) ∨ s.yielding c.priority = []) : s.chargeSuspension c w skip = none := by
  unfold State.chargeSuspension
  split
  · rfl
  · next hfree =>
    have hnone : s.lowest (s.suspendable c.priority) = none := by
      have hempty : s.suspendable c.priority = [] := h.resolve_left (mt slotTaken_iff.2 hfree)
      rw [hempty, lowest_nil]
    rw [hnone]

theorem exclude_of_none {p id : Nat} (h : s.yielding p = []) : s.exclude p id = s := by
  have hnone : s.exclusiveCandidates p = [] := by
    have hempty : s.suspendable p = [] := h
    rw [State.exclusiveCandidates, hempty]
    rfl
  unfold State.exclude
  rw [hnone]

/-! ### The new session -/

/-- The admission in the profile p by the decision in s: the session `suspendee` suspended for it, and what an exclusive class clears away
suspended or closed (R94, R96, R97). -/
def State.admission (s : State) (r : Request) (c : ClassEntry) (p : Profile) (suspendee : Option Nat) : State :=
  let t := match suspendee with | some x => s.takeId.1.suspend x s.takeId.2 | none => s.takeId.1
  let t := if c.exclusive then t.exclude c.priority s.takeId.2 else t
  t.createSession r s.takeId.2 p (s.profileCost c p)

theorem decideNew_eq {v : State} {p : Profile} {suspendee : Option Nat} (hw : s.work.resume = none)
    (hplace : s.makePlace (s.cls r.cls) = some v) (hp : v.chooseProfile (s.cls r.cls) r.wanted [] = some (p, suspendee)) :
    s.decideNew r = ((v.admission r (s.cls r.cls) p suspendee).resumeNow, .admitted v.takeId.2) := by
  unfold State.decideNew
  dsimp only
  rw [hplace, hw]
  dsimp only
  rw [hp]
  rfl

theorem decideNew_tableFull (h : s.makePlace (s.cls r.cls) = none) : s.decideNew r = s.refuse r .tableFull 0 := by
  unfold State.decideNew
  dsimp only
  rw [h]

theorem decideNew_noCharge {v : State} (h : s.makePlace (s.cls r.cls) = some v)
    (hp : v.chooseProfile (s.cls r.cls) r.wanted [] = none) : s.decideNew r = v.refuse r .noCharge 0 := by
  unfold State.decideNew
  dsimp only
  rw [h]
  dsimp only
  rw [hp]

theorem admission_plain {c : ClassEntry} {p : Profile} (hnone : s.yieldsNone c) :
    s.admission r c p none = s.takeId.1.createSession r s.takeId.2 p (s.profileCost c p) := by
  have hexclude : (if c.exclusive = true then s.takeId.1.exclude c.priority s.takeId.2 else s.takeId.1) = s.takeId.1 := by
    split
    · next he => exact exclude_of_none (hnone.resolve_left (by rw [he]; decide))
    · rfl
  unfold State.admission
  dsimp only
  rw [hexclude]

section
variable {z : State} {id cost : Nat} {p : Profile}

/-- The state with the new session in the table, before its demands are placed. -/
def State.withNew (s : State) (r : Request) (id : Nat) (p : Profile) (cost : Nat) : State :=
  { s with ssc.sessions := s.ssc.sessions ++ [s.newSession r id p cost] }

theorem createSession_eq (hp : p ≠ .listen) : z.createSession r id p cost =
    (z.withNew r id p cost).demandChanged.record .wakeAdmitted id p.code (some (tenths16 cost)) := by
  unfold State.createSession
  cases p with
  | full => rfl
  | reduced => rfl
  | listen => exact absurd rfl hp

theorem createSession_frame (hp : p ≠ .listen) : (z.createSession r id p cost).frame = (z.withNew r id p cost).frame := by
  rw [createSession_eq hp, record_frame, demandChanged_frame]

theorem createSession_ssc (hp : p ≠ .listen) : (z.createSession r id p cost).ssc = (z.withNew r id p cost).ssc := by
  rw [createSession_eq hp, record_ssc, demandChanged_ssc]

theorem createSession_resume (hp : p ≠ .listen) : (z.createSession r id p cost).work.resume = z.work.resume := by
  rw [createSession_eq hp, record_resume]
  exact noted_resume (demandChanged_noted (z.withNew r id p cost))

theorem Holds.createSession {es : List Event} (h : Holds es z) (hlen : es.length < 24) (hp : p ≠ .listen) :
    Holds (es ++ [z.recordOf .wakeAdmitted id p.code (some (tenths16 cost))]) (z.createSession r id p cost) := by
  rw [createSession_eq hp]
  have hplaced : Holds es (z.withNew r id p cost).demandChanged := (h.same (t := z.withNew r id p cost) rfl rfl).demandChanged
  have hrecord := hplaced.record hlen .wakeAdmitted id p.code (some (tenths16 cost))
  rwa [recordOf_congr (frame_seconds (demandChanged_frame (z.withNew r id p cost)))] at hrecord

/-- The new session is found under its id. -/
theorem session_createSession (hp : p ≠ .listen) (hnew : ∀ x ∈ z.ssc.sessions, x.id ≠ id) :
    (z.createSession r id p cost).session? id = some (z.newSession r id p cost) := by
  have hnone : z.ssc.sessions.find? (fun x => x.id == id) = none := List.find?_eq_none.2 fun x hx => by simpa using hnew x hx
  have hself : ((z.newSession r id p cost).id == id) = true := beq_self_eq_true id
  unfold State.session?
  rw [createSession_ssc hp]
  show (z.ssc.sessions ++ [z.newSession r id p cost]).find? _ = _
  rw [List.find?_append, hnone, Option.none_or]
  exact List.find?_cons_of_pos hself

end

/-! ### What a record's session is made of -/

theorem cls_congr {s t : State} (h : t.base = s.base) (c : ClassId) : t.cls c = s.cls c := by
  unfold State.cls
  rw [base_adm h]

theorem newSession_congr {s t : State} (h : t.deep = s.deep) {p : Profile} (hp : p ≠ .listen) (r : Request) (id cost : Nat) :
    t.newSession r id p cost = s.newSession r id p cost := by
  have hbase := deep_base h
  have hwsc := deep_wsc h
  have hentry : ∀ d, (t.dom d).entry = (s.dom d).entry := base_entry hbase
  unfold State.newSession State.partMs
  simp only [if_neg hp, cls_congr hbase, hwsc, enabledOf_congr hentry]

/-- A session as the frame shows it: STARTING and RUNNING are one (R105). -/
def Session.shown (x : Session) : Session := { x with state := if x.active then .starting else .suspended }

theorem table_eq (s : State) : s.table = (s.ssc.sessions.map Session.shown, s.ssc.nextId) := rfl

theorem withNew_table (s : State) (r : Request) (id : Nat) (p : Profile) (cost : Nat) :
    (s.withNew r id p cost).table = (s.table.1 ++ [s.newSession r id p cost], s.table.2) := by
  have hshown : (s.newSession r id p cost).shown = s.newSession r id p cost := rfl
  rw [table_eq, table_eq]
  show ((s.ssc.sessions ++ [s.newSession r id p cost]).map Session.shown, s.ssc.nextId) = _
  rw [List.map_append, List.map_singleton, hshown]

/-- What leaves the frame as the new session's record on z, which agrees with u, is u's admission at the cost that u gives. -/
theorem admitted_of_frame {t z u v : State} {id cost : Nat} {p : Profile} {apq : Apq} (hp : p ≠ .listen) (hid : v.givesId id)
    (hframe : t.frame = (z.withNew r id p cost).frame) (hdeep : z.deep = u.deep) (hapq : z.apq = apq)
    (htable : z.table = (u.table.1, if id = 255 then 1 else id + 1)) (hcost : cost = u.profileCost (u.cls r.cls) p) :
    t.admitted u v r id p apq := by
  have htable' := (frame_table hframe).trans (withNew_table z r id p cost)
  rw [newSession_congr hdeep hp, htable, hcost] at htable'
  refine ⟨hid, (frame_deep hframe).trans hdeep, (frame_apq hframe).trans hapq, ?_⟩
  rw [htable']
  have hnew := withNew_table u r id p (u.profileCost (u.cls r.cls) p)
  exact (congrArg (fun q => (q, if id = 255 then 1 else id + 1)) (congrArg Prod.fst hnew)).symm

theorem createSession_finish_frame {z : State} {id cost : Nat} {p : Profile} (hp : p ≠ .listen) (hw : z.work.resume = none) :
    (z.createSession r id p cost).finish.frame = (z.withNew r id p cost).frame :=
  (finish_frame ((createSession_resume hp).trans hw)).trans (createSession_frame hp)

end

end Sys2Proof.Machine
end

section
/-! SESSION_OPEN of a class that has no session (R84 to R98): what it answers and records, refused or admitted. Settles O46. -/

namespace Sys2Proof.Machine

section
variable {s : State} {c : ClassId} {w : Profile}

/-! ### The request -/

theorem enumAt_profile (w : Profile) : enumAt [Profile.listen, .full, .reduced] (byte w.code) = some w := by
  cases w <;> rfl

theorem enumAt_profile_none {b : Byte} (h : 2 < b.toNat) : enumAt [Profile.listen, .full, .reduced] b = none :=
  List.getElem?_eq_none_iff.2 h

theorem reqSessionOpen_out (s : State) {i b : Byte} (h : 7 < i.toNat ∨ b.toNat = 0 ∨ 2 < b.toNat) :
    reqSessionOpen s [i, b] = openRefusal s .badField := by
  unfold reqSessionOpen
  dsimp only
  split
  · next d wanted hd hw =>
    have hlisten : wanted = .listen := by
      rcases h with hi | hb | hb
      · rw [readClass_eq_none hi] at hd
        cases hd
      · rw [show b = 0 from BitVec.eq_of_toNat_eq hb] at hw
        exact (Option.some.inj hw).symm
      · rw [enumAt_profile_none hb] at hw
        cases hw
    rw [if_pos hlisten]
  · rfl

theorem reqSessionOpen_absent (s : State) (h : (s.cls c).reduced = none) : reqSessionOpen s [byte c.val, 2] = openRefusal s .badField := by
  have hw : enumAt [Profile.listen, .full, .reduced] (2 : Byte) = some .reduced := rfl
  unfold reqSessionOpen
  dsimp only
  rw [readClass_byte, hw]
  dsimp only
  rw [if_neg (by decide), h]
  rfl

section
variable (hw : w ≠ .listen) (hr : w = .reduced → (s.cls c).reduced.isSome = true)
include hw hr

theorem reqSessionOpen_drive (hm : s.mdc.mode = .drive) : reqSessionOpen s [byte c.val, byte w.code] = openRefusal s .wrongMode := by
  have hpresent : ¬ ((w = .reduced) && (s.cls c).reduced.isNone) = true := by
    by_cases hred : w = .reduced
    · simp [Option.isNone_eq_false_iff.2 (hr hred)]
    · simp [hred]
  unfold reqSessionOpen
  dsimp only
  rw [readClass_byte, enumAt_profile]
  dsimp only
  rw [if_neg hw, if_neg hpresent, if_pos hm]

/-- Outside DRIVE the request is decided (R84, R85). -/
theorem reqSessionOpen_decided (hm : s.mdc.mode ≠ .drive) : reqSessionOpen s [byte c.val, byte w.code] =
    ((s.decideRequest (openRequest c w)).1.finish,
      (s.decideRequest (openRequest c w)).1.openAnswer (s.decideRequest (openRequest c w)).2) := by
  have hpresent : ¬ ((w = .reduced) && (s.cls c).reduced.isNone) = true := by
    by_cases hred : w = .reduced
    · simp [Option.isNone_eq_false_iff.2 (hr hred)]
    · simp [hred]
  unfold reqSessionOpen
  dsimp only
  rw [readClass_byte, enumAt_profile]
  dsimp only
  rw [if_neg hw, if_neg hpresent, if_neg hm]
  rfl

end

theorem exec_sessionOpen (h : Listening s) {i b : Byte} {t : State} {a : Answer} (ha : reqSessionOpen s.taken [i, b] = (t, a)) :
    exec (.sessionOpen [i, b]) s = .next (t.sendReply (0x40 + 0x80) a) :=
  exec_of_free rfl rfl h (by decide) rfl rfl ha

theorem exec_sessionOpen_refused (h : Listening s) {i b : Byte} {why : Result} (ha : reqSessionOpen s.taken [i, b] = openRefusal s.taken why) :
    exec (.sessionOpen [i, b]) s = .next (s.answered 0x40 why (openPayload 0 0 0 0)) :=
  exec_sessionOpen h ha

/-! ### Its answers -/

theorem openAnswer_refused (s : State) (why : Result) :
    s.openAnswer (.refused why 0) = { result := why, payload := openPayload 0 0 0 0 } := by
  show ({ result := why, payload := openPayload (if why = .noCharge then 0 else 0) 0 0 0 } : Answer) = _
  rw [ite_self]

theorem openAnswer_admitted {id : Nat} {x : Session} (h : s.session? id = some x) :
    s.openAnswer (.admitted id) = { result := .accepted, payload := openPayload id x.profile.code (tenths16 x.estimate) 0 } := by
  unfold State.openAnswer
  dsimp only
  rw [h]

/-- The decision's state and answer as the next state shows them. -/
theorem exec_sessionOpen_decided (h : Listening s) (hw : w ≠ .listen) (hr : w = .reduced → (s.cls c).reduced.isSome = true)
    (hm : s.mdc.mode ≠ .drive) {t : State} {d : Decision} (hd : s.taken.decideRequest (openRequest c w) = (t, d)) :
    exec (.sessionOpen [byte c.val, byte w.code]) s = .next (t.finish.sendReply (0x40 + 0x80) (t.openAnswer d)) := by
  refine exec_sessionOpen h ((reqSessionOpen_decided (s := s.taken) hw hr hm).trans ?_)
  rw [hd]

theorem admitted_sendReply {t u v : State} {r : Request} {id : Nat} {p : Profile} {apq : Apq} (h : t.admitted u v r id p apq) (type : Byte)
    (a : Answer) : (t.sendReply type a).admitted u v r id p apq := h

theorem taken_holds {n : Nat} (hroom : s.roomFor n) : Holds s.evq.events s.taken := ⟨rfl, hroom.1⟩

theorem roomFor_lt {n : Nat} (hroom : s.roomFor (n + 1)) : s.evq.events.length < 24 := by
  have := hroom.2
  omega

/-- A refused SESSION_OPEN changes nothing but what its record and its reply change (R98). -/
theorem sessionOpen_refused (h : Listening s) (hw : w ≠ .listen) (hr : w = .reduced → (s.cls c).reduced.isSome = true)
    (hm : s.mdc.mode ≠ .drive) {why : Result} (hd : s.taken.decideRequest (openRequest c w) = s.taken.refuse (openRequest c w) why 0) :
    ∃ t, exec (.sessionOpen [byte c.val, byte w.code]) s = .next t ∧ t.frame = s.frame ∧ t.replies 0x40 why (openPayload 0 0 0 0) ∧
      (s.roomFor 1 → t.recorded s [s.recordOf .wakeRefused c.val why.code (some 512)]) := by
  have hexec := exec_sessionOpen_decided h hw hr hm hd
  rw [openAnswer_refused] at hexec
  have hresume : (s.taken.record .wakeRefused c.val why.code (some 512)).work.resume = none := (record_resume ..).trans h.resume
  have hframe : (s.taken.record .wakeRefused c.val why.code (some 512)).frame = s.frame := record_frame ..
  have hkept : s.roomFor 1 → Keeps (s.evq.events ++ [s.recordOf .wakeRefused c.val why.code (some 512)])
      (s.taken.record .wakeRefused c.val why.code (some 512)) := fun hroom =>
    ((taken_holds hroom).record (roomFor_lt hroom) .wakeRefused c.val why.code (some 512)).keeps
  rw [show (openRequest c w).cls = c from rfl, show (openRequest c w).origin.word = 512 from rfl] at hexec
  generalize s.taken.record .wakeRefused c.val why.code (some 512) = v at *
  exact ⟨_, hexec, (sendReply_frame ..).trans ((finish_frame hresume).trans hframe), sendReply_replies .., fun hroom =>
    recorded_sendReply (Keeps.finish_recorded (s := s) (hkept hroom)) ..⟩

/-- A SESSION_OPEN for which the decision chooses the profile p and finds nothing to move admits its session (R97). -/
theorem sessionOpen_admitted (h : Listening s) (hw : w ≠ .listen) (hr : w = .reduced → (s.cls c).reduced.isSome = true)
    (hm : s.mdc.mode ≠ .drive) (had : Admissible s c) (hnone : s.yieldsNone (s.cls c)) {p : Profile} (hp : p ≠ .listen)
    (hchoice : s.taken.chooseProfile (s.cls c) w [] = some (p, none)) :
    ∃ t id, exec (.sessionOpen [byte c.val, byte w.code]) s = .next t ∧ t.admitted s s (openRequest c w) id p s.apq ∧
      t.replies 0x40 .accepted (openPayload id p.code (tenths16 (s.profileCost (s.cls c) p)) 0) ∧
      (s.roomFor 1 → t.recorded s [s.recordOf .wakeAdmitted id p.code (some (tenths16 (s.profileCost (s.cls c) p)))]) := by
  obtain ⟨henabled, htier, hfresh, hplace⟩ := had
  have hnew := (decideRequest_new (s := s.taken) (r := openRequest c w) henabled htier hfresh).trans
    (decideNew_eq (r := openRequest c w) (v := s.taken) h.resume (makePlace_room' hplace) hchoice)
  have hplain : s.taken.admission (openRequest c w) (s.taken.cls (openRequest c w).cls) p none = _ := admission_plain hnone
  rw [hplain] at hnew
  have hid : s.taken.givesId s.taken.takeId.2 := takeId_givesId (Nat.le_of_lt hplace)
  have hresume := (createSession_resume (z := s.taken.takeId.1) (r := openRequest c w) (id := s.taken.takeId.2)
    (cost := s.taken.profileCost (s.cls c) p) hp).trans h.resume
  rw [show s.taken.cls (openRequest c w).cls = s.cls c from rfl, resumeNow_none hresume] at hnew
  have hexec := exec_sessionOpen_decided h hw hr hm hnew
  rw [openAnswer_admitted (session_createSession (z := s.taken.takeId.1) hp hid.1)] at hexec
  have hframe := createSession_finish_frame (z := s.taken.takeId.1) (r := openRequest c w) (id := s.taken.takeId.2)
    (cost := s.taken.profileCost (s.cls c) p) hp h.resume
  have hadmitted := admitted_of_frame (z := s.taken.takeId.1) (u := s) (v := s) (apq := s.apq) hp
    ⟨hid.1, fun hs => hid.2 (hs.congr rfl)⟩ hframe rfl rfl rfl rfl
  have hkept : s.roomFor 1 → Keeps (s.evq.events ++ [s.recordOf .wakeAdmitted s.taken.takeId.2 p.code
      (some (tenths16 (s.profileCost (s.cls c) p)))])
      (s.taken.takeId.1.createSession (openRequest c w) s.taken.takeId.2 p (s.taken.profileCost (s.cls c) p)) := fun hroom =>
    (((taken_holds hroom).same (t := s.taken.takeId.1) rfl rfl).createSession (r := openRequest c w)
      (id := s.taken.takeId.2) (cost := s.taken.profileCost (s.cls c) p) (roomFor_lt hroom) hp).keeps
  generalize s.taken.takeId.1.createSession (openRequest c w) s.taken.takeId.2 p (s.taken.profileCost (s.cls c) p) = v at *
  exact ⟨_, s.taken.takeId.2, hexec, admitted_sendReply hadmitted .., sendReply_replies .., fun hroom =>
    recorded_sendReply (Keeps.finish_recorded (s := s) (hkept hroom)) ..⟩

end

theorem mem_profilesTried {k : ClassEntry} {w p : Profile} (hw : w ≠ .listen) (h : p ∈ profilesTried k w) : p ≠ .listen := by
  unfold profilesTried at h
  rintro rfl
  cases w with
  | full =>
    dsimp only at h
    split at h <;> simp at h
  | reduced => simp at h
  | listen => exact hw rfl

/-- Settles O46: each outcome is one branch of the decision. -/
theorem sessionIsOpened : Obligations.SessionIsOpened := by
  intro c w s h
  refine ⟨fun i b hout => exec_sessionOpen_refused h (reqSessionOpen_out s.taken hout),
    fun hnone => exec_sessionOpen_refused h (reqSessionOpen_absent s.taken hnone), fun hw hr => ?_⟩
  intro ask k refused admits
  refine ⟨fun hm => exec_sessionOpen_refused h (reqSessionOpen_drive (s := s.taken) hw hr hm),
    fun hm hdisabled => sessionOpen_refused h hw hr hm (decideRequest_disabled (s := s.taken) hdisabled),
    fun hm hen htier => sessionOpen_refused h hw hr hm (decideRequest_tier (s := s.taken) hen htier),
    fun hm hen htier hfresh => ⟨fun hfull hall => ?full, fun hplace hmode hess hcosts hnone => ?charge⟩,
    fun hm had hnone hfits => sessionOpen_admitted h hw hr hm had hnone hw (chooseProfile_fits (s := s.taken) hfits),
    fun hm had hnone hess hfull hred hover hfits => ?reduced⟩
  case full =>
    have hnew := decideRequest_new (s := s.taken) (r := openRequest c w) hen (tierPasses_iff.2 htier) hfresh
    exact sessionOpen_refused h hw hr hm (hnew.trans (decideNew_tableFull (makePlace_full (s := s.taken) hfull hall)))
  case charge =>
    have hnew := decideRequest_new (s := s.taken) (r := openRequest c w) hen (tierPasses_iff.2 htier) hfresh
    have hchoice : s.taken.chooseProfile k w [] = none := by
      rw [chooseProfile_of_none (s := s.taken) (exempt_eq_false (s := s.taken) hmode hess) (firstFit_none (s := s.taken) hcosts),
        chargeSuspension_none (s := s.taken) hnone]
      rfl
    exact sessionOpen_refused h hw hr hm (hnew.trans (decideNew_noCharge (makePlace_room' (s := s.taken) hplace) hchoice))
  case reduced =>
    have hdrive : s.mdc.mode ≠ .drive := by rcases hm with hm | hm <;> rw [hm] <;> decide
    have hhandover : s.mdc.mode ≠ .handover := by rcases hm with hm | hm <;> rw [hm] <;> decide
    refine sessionOpen_admitted h hw hr hdrive had hnone (by decide) ?_
    rw [hfull]
    exact chooseProfile_of_fit (s := s.taken) (exempt_eq_false (s := s.taken) hhandover hess)
      (firstFit_reduced (s := s.taken) hred hover hfits)

end Sys2Proof.Machine
end

section
/-! The evaluation of a schedule entry (R158 to R162, R164): what it makes of the Schedule, and the firing or the miss of an entry that is
evaluated outside DRIVE. -/

namespace Sys2Proof.Machine

/-! ### The Schedule after an evaluation (R160, R161) -/

/-- The Schedule once the entry has been evaluated: without it, or with it at its next due time (R160). -/
def advanced (l : List SchedEntry) (e : SchedEntry) (due : Nat) : List SchedEntry :=
  if e.period = 0 || decide (partWrap ≤ due) then l.filter (fun x => x.id != e.id)
  else placeEntry { e with due := due, pending := false } (l.filter (fun x => x.id != e.id))

theorem advance_eq (s : State) (e : SchedEntry) (due : Nat) : s.advance e due = { s with wsc.sched := advanced s.wsc.sched e due } := by
  unfold State.advance advanced State.removeEntry
  dsimp only
  split <;> rfl

theorem placeEntry_filter {p : SchedEntry → Bool} {e : SchedEntry} (h : p e = false) (l : List SchedEntry) :
    (placeEntry e l).filter p = l.filter p := by
  induction l with
  | nil => simp [placeEntry, h]
  | cons x l ih =>
    unfold placeEntry
    split
    · exact List.filter_cons_of_neg (by simp [h])
    · simp only [List.filter_cons, ih]

section
variable {l : List SchedEntry} {e x : SchedEntry} {due : Nat}

theorem advanced_others : (advanced l e due).filter (fun x => x.id != e.id) = l.filter (fun x => x.id != e.id) := by
  unfold advanced
  split
  · simp [List.filter_filter]
  · rw [placeEntry_filter (by simp)]
    simp [List.filter_filter]

theorem not_mem_advanced (h : e.period = 0 ∨ 4294967295 < due) : ∀ x ∈ advanced l e due, x.id ≠ e.id := by
  have hremoved : (e.period = 0 || decide (partWrap ≤ due)) = true := by
    rw [Bool.or_eq_true, decide_eq_true_eq, decide_eq_true_eq, partWrap]
    omega
  intro x hx
  rw [advanced, if_pos hremoved, List.mem_filter] at hx
  simpa using hx.2

theorem mem_advanced_next (hp : e.period ≠ 0) (h : due ≤ 4294967295) : { e with due := due, pending := false } ∈ advanced l e due := by
  have hkept : ¬ (e.period = 0 || decide (partWrap ≤ due)) = true := by
    rw [Bool.or_eq_true, decide_eq_true_eq, decide_eq_true_eq, partWrap]
    omega
  rw [advanced, if_neg hkept]
  exact mem_placeEntry.2 (.inl rfl)

theorem passed_eq (e : SchedEntry) (now : Nat) : e.passed now = (now - e.due) / e.period := by
  unfold SchedEntry.passed
  split
  · next h => rw [h, Nat.div_zero]
  · rfl

theorem latest_eq (e : SchedEntry) (now : Nat) : e.latest now = e.due + (now - e.due) / e.period * e.period := by
  rw [SchedEntry.latest, passed_eq]

end

theorem entry_some {s : State} {id : Nat} {e : SchedEntry} (h : s.entry? id = some e) : e ∈ s.wsc.sched ∧ e.id = id := by
  unfold State.entry? at h
  exact ⟨List.mem_of_find?_eq_some h, by simpa using List.find?_some h⟩

theorem entry_of_mem {s : State} (h : ScheduleSound s) {e : SchedEntry} (he : e ∈ s.wsc.sched) : s.entry? e.id = some e := by
  have hids : (s.wsc.sched.map SchedEntry.id).Nodup := h.ids
  cases hfound : s.entry? e.id with
  | none =>
    rw [State.entry?, List.find?_eq_none] at hfound
    exact absurd (beq_self_eq_true e.id) (hfound e he)
  | some x =>
    obtain ⟨hx, hid⟩ := entry_some hfound
    rw [List.inj_on_of_nodup_map hids hx he hid]

/-- A change of the Schedule changes the frame by the frame alone. -/
theorem sched_frame {s t : State} (h : t.frame = s.frame) (l : List SchedEntry) :
    { t with wsc.sched := l }.frame = { s with wsc.sched := l }.frame := by
  have hbase : ({ t with wsc.sched := l } : State).base = ({ s with wsc.sched := l } : State).base := frame_base (t := t) (s := s) h
  have hwsc : ({ t with wsc.sched := l } : State).wsc = ({ s with wsc.sched := l } : State).wsc := by
    show { t.wsc with sched := l } = { s.wsc with sched := l }
    rw [frame_wsc h]
  exact frame_of (Prod.ext hbase (Prod.ext (frame_wlu (t := t) (s := s) h) hwsc)) (frame_table (t := t) (s := s) h)
    (frame_apq (t := t) (s := s) h)

/-! ### Missed occurrences (R162) -/

/-- SCHED_MISSED where the count is above 0. -/
def State.missedRecord (s : State) (e : SchedEntry) (count : Nat) : List Event :=
  if count = 0 then [] else [s.recordOf .schedMissed e.id e.cls.val (some (min 65535 count))]

section
variable {s : State} {e : SchedEntry} {n : Nat}

theorem recordMissed_frame : (s.recordMissed e n).frame = s.frame := by
  unfold State.recordMissed
  split
  · rfl
  · exact record_frame ..

theorem recordMissed_resume : (s.recordMissed e n).work.resume = s.work.resume := by
  unfold State.recordMissed
  split
  · rfl
  · exact record_resume ..

theorem recordMissed_ssc : (s.recordMissed e n).ssc = s.ssc := by
  unfold State.recordMissed
  split
  · rfl
  · exact record_ssc ..

theorem record_dom (s : State) (k : RecordKind) (a b : Nat) (v : Option Nat) (d : DomId) : (s.record k a b v).dom d = s.dom d :=
  power_dom (record_power s k a b v) d

theorem recordMissed_dom (d : DomId) : (s.recordMissed e n).dom d = s.dom d := by
  unfold State.recordMissed
  split
  · rfl
  · exact record_dom ..

theorem Holds.recordMissed {es : List Event} (h : Holds es s) (hlen : es.length < 24) :
    Holds (es ++ s.missedRecord e n) (s.recordMissed e n) := by
  unfold State.recordMissed State.missedRecord
  split
  · rwa [List.append_nil]
  · exact h.record hlen ..

end

/-! ### The decision on a state that agrees with another -/

theorem pricedSet_congr {s t : State} (hentry : ∀ d, (t.dom d).entry = (s.dom d).entry)
    (hlatched : ∀ d, (t.dom d).state = .latched ↔ (s.dom d).state = .latched) (S : DomSet) : t.pricedSet S = s.pricedSet S := by
  have hkept : (fun d => (t.dom d).state != .latched) = fun d => (s.dom d).state != .latched := by
    funext d
    rw [Bool.eq_iff_iff, bne_iff_ne, bne_iff_ne]
    exact not_congr (hlatched d)
  unfold State.pricedSet
  rw [hkept, enabledOf_congr hentry, withAncestors_congr hentry]

theorem profileCost_congr {s t : State} (hentry : ∀ d, (t.dom d).entry = (s.dom d).entry)
    (hlatched : ∀ d, (t.dom d).state = .latched ↔ (s.dom d).state = .latched) (c : ClassEntry) (p : Profile) :
    t.profileCost c p = s.profileCost c p := by
  unfold State.profileCost State.sumCurrent State.currentOf
  rw [pricedSet_congr hentry hlatched]
  simp only [hentry]

/-- x stands before a decision as u does: the frame, the Session Table and the latches are u's, nothing is put off, and the records `before`
have been made ahead of it. -/
structure Poised (x u : State) (before : List Event) : Prop where
  frame : x.frame = u.frame
  ssc : x.ssc = u.ssc
  latched : ∀ d, (x.dom d).state = .latched ↔ (u.dom d).state = .latched
  resume : x.work.resume = none
  records : u.roomFor before.length → Holds (u.evq.events ++ before) x

section
variable {x u : State} {before : List Event}

theorem roomFor_mono {s : State} {m n : Nat} (h : s.roomFor n) (hmn : m ≤ n) : s.roomFor m := ⟨h.1, by have := h.2; omega⟩

theorem Poised.cost (h : Poised x u before) (c : ClassEntry) (p : Profile) : x.profileCost c p = u.profileCost c p :=
  profileCost_congr (base_entry (frame_base h.frame)) h.latched c p

theorem Poised.cls (h : Poised x u before) (c : ClassId) : x.cls c = u.cls c := cls_congr (frame_base h.frame) c

theorem Poised.fits (h : Poised x u before) (c : ClassEntry) (n : Nat) : x.fits c n = u.fits c n := by
  have hbase := frame_base h.frame
  unfold State.fits State.exempt State.headroom State.committed State.floorMas
  rw [base_mode hbase, base_reserve hbase, base_floor hbase, h.ssc]

theorem Poised.admissible (h : Poised x u before) {c : ClassId} (ha : Admissible u c) : Admissible x c := by
  obtain ⟨henabled, htier, hfresh, hplace⟩ := ha
  refine ⟨by rw [h.cls]; exact henabled, by rw [base_btm (frame_base h.frame), h.cls]; exact htier, ?_, by rw [h.ssc]; exact hplace⟩
  rw [State.sessionOf?, h.ssc]
  exact hfresh

theorem Poised.yieldsNone (h : Poised x u before) {c : ClassEntry} (hn : u.yieldsNone c) : x.yieldsNone c := by
  refine hn.imp id fun hn => ?_
  unfold State.yielding at hn ⊢
  rw [h.ssc]
  simpa only [h.cls] using hn

theorem Poised.missedRecord (h : Poised x u before) (e : SchedEntry) (n : Nat) : x.missedRecord e n = u.missedRecord e n := by
  unfold State.missedRecord
  rw [recordOf_congr (frame_seconds h.frame)]

/-- After SCHED_MISSED the decision stands as before it. -/
theorem Poised.recordMissed (h : Poised x u before) (e : SchedEntry) (n : Nat) :
    Poised (x.recordMissed e n) u (before ++ u.missedRecord e n) where
  frame := recordMissed_frame.trans h.frame
  ssc := recordMissed_ssc.trans h.ssc
  latched d := by rw [recordMissed_dom]; exact h.latched d
  resume := recordMissed_resume.trans h.resume
  records hroom := by
    rw [List.length_append] at hroom
    have hbefore := h.records (roomFor_mono hroom (Nat.le_add_right ..))
    rw [← h.missedRecord, ← List.append_assoc]
    by_cases hn : n = 0
    · rw [State.missedRecord, if_pos hn, List.append_nil, State.recordMissed, if_pos hn]
      exact hbefore
    · refine hbefore.recordMissed ?_
      have hlen := hroom.2
      rw [State.missedRecord, if_neg hn, List.length_singleton] at hlen
      rw [List.length_append]
      omega

/-! ### The firing (R164) -/

theorem evaluateLate_missed {e : SchedEntry} (h : e.lateness < x.wsc.seconds - e.latest x.wsc.seconds) :
    x.evaluateLate e = (x.recordMissed e (e.passed x.wsc.seconds + 1)).advance e (e.latest x.wsc.seconds + e.period) := by
  have hlate : ¬ x.wsc.seconds - e.latest x.wsc.seconds ≤ e.lateness := by omega
  simp only [State.evaluateLate, hlate, decide_false, Bool.false_eq_true, if_false]

theorem evaluateLate_fires {e : SchedEntry} (h : x.wsc.seconds - e.latest x.wsc.seconds ≤ e.lateness) :
    x.evaluateLate e = ((x.recordMissed e (e.passed x.wsc.seconds)).decideRequest (schedRequest e)).1.advance e
      (e.latest x.wsc.seconds + e.period) := by
  simp only [State.evaluateLate, h, decide_true, if_true]
  rfl

/-- The frame and the records at the end of an event whose work was y and then an advance. -/
theorem advance_finish_frame {y v : State} (hframe : y.frame = v.frame) (hw : y.work.resume = none) (e : SchedEntry) (due : Nat) :
    (y.advance e due).finish.frame = { v with wsc.sched := advanced v.wsc.sched e due }.frame := by
  have hsame : y.wsc.sched = v.wsc.sched := congrArg Wsc.sched (frame_wsc hframe)
  have hsched := sched_frame hframe (advanced v.wsc.sched e due)
  obtain ⟨z, hz⟩ : ∃ z, z = ({ y with wsc.sched := advanced v.wsc.sched e due } : State) := ⟨_, rfl⟩
  have hresume : z.work.resume = none := by rw [hz]; exact hw
  rw [advance_eq, hsame, ← hz, finish_frame hresume, hz]
  exact hsched

theorem advance_recorded {y u : State} {es : List Event} (h : Holds (u.evq.events ++ es) y) (e : SchedEntry) (due : Nat) :
    (y.advance e due).finish.recorded u es := by
  have hkept : Keeps (u.evq.events ++ es) (y.advance e due) := by
    rw [advance_eq]
    exact (h.same (t := { y with wsc.sched := advanced y.wsc.sched e due }) rfl rfl).keeps
  generalize y.advance e due = z at *
  exact Keeps.finish_recorded hkept

end

end Sys2Proof.Machine
end

section
/-! An entry that is evaluated outside DRIVE as it stands due: missed, refused or admitted (R159, R160, R162, R164). What the claims about the
Schedule and about the mode changes read of it. -/

namespace Sys2Proof.Machine

section
variable {x u : State} {before : List Event} {e : SchedEntry}

/-- Whatever the firing does, the Schedule advances by the entry alone. -/
theorem evaluateLate_sched (x : State) (e : SchedEntry) :
    (x.evaluateLate e).finish.wsc.sched = advanced x.wsc.sched e (e.latest x.wsc.seconds + e.period) := by
  have hfinish : (x.evaluateLate e).finish.wsc = (x.evaluateLate e).wsc := deep_wsc (finish_deep _)
  have hmissed : ∀ n, (x.recordMissed e n).wsc = x.wsc := fun n => deep_wsc (recordMissed_deep x e n)
  rw [hfinish]
  by_cases h : x.wsc.seconds - e.latest x.wsc.seconds ≤ e.lateness
  · rw [evaluateLate_fires h, advance_eq, deep_wsc (decideRequest_deep ..), hmissed]
  · rw [evaluateLate_missed (by omega), advance_eq, hmissed]

theorem evaluate_of_due (hm : x.mdc.mode ≠ .drive) (he : x.entry? e.id = some e) (hdue : e.due ≤ x.wsc.seconds) :
    x.evaluate e.id = x.evaluateLate e := by
  unfold State.evaluate
  rw [he]
  dsimp only
  rw [if_neg hm, if_neg (by omega)]

theorem Poised.entry (h : Poised x u before) (id : Nat) : x.entry? id = u.entry? id := by
  unfold State.entry?
  rw [frame_wsc h.frame]

theorem refuse_advance (h : Poised x u before) {why : Result}
    (hd : x.decideRequest (schedRequest e) = x.refuse (schedRequest e) why 0) (due : Nat) :
    ((x.decideRequest (schedRequest e)).1.advance e due).finish.frame = { u with wsc.sched := advanced u.wsc.sched e due }.frame ∧
    (u.roomFor (before.length + 1) → ((x.decideRequest (schedRequest e)).1.advance e due).finish.recorded u
      (before ++ [u.recordOf .wakeRefused e.cls.val why.code (some (256 + e.id))])) := by
  have hword : (schedRequest e).origin.word = 256 + e.id := rfl
  rw [hd, refuse_eq]
  refine ⟨advance_finish_frame ((record_frame ..).trans h.frame) ((record_resume ..).trans h.resume) e due, fun hroom => ?_⟩
  have hlen : (u.evq.events ++ before).length < 24 := by
    have := hroom.2
    rw [List.length_append]
    omega
  have hrecord := (h.records (roomFor_mono hroom (Nat.le_succ _))).record hlen .wakeRefused (schedRequest e).cls.val why.code
    (some (schedRequest e).origin.word)
  rw [recordOf_congr (frame_seconds h.frame), List.append_assoc, hword] at hrecord
  rw [hword]
  exact advance_recorded hrecord e due

theorem admit_advance (h : Poised x u before) (ha : Admissible u e.cls) (hn : u.yieldsNone (u.cls e.cls))
    (hf : u.fits (u.cls e.cls) (u.profileCost (u.cls e.cls) .full) = true) (due : Nat) :
    ∃ id, ((x.decideRequest (schedRequest e)).1.advance e due).finish.admitted { u with wsc.sched := advanced u.wsc.sched e due } u
        (schedRequest e) id .full u.apq ∧
      (u.roomFor (before.length + 1) → ((x.decideRequest (schedRequest e)).1.advance e due).finish.recorded u
        (before ++ [u.recordOf .wakeAdmitted id 1 (some (tenths16 (u.profileCost (u.cls e.cls) .full)))])) := by
  have hcls := h.cls e.cls
  have hcost := h.cost (u.cls e.cls) .full
  have hfits := h.fits (u.cls e.cls) (u.profileCost (u.cls e.cls) .full)
  obtain ⟨henabled, htier, hfresh, hplace⟩ := h.admissible ha
  have hchoice : x.chooseProfile (x.cls e.cls) .full [] = some (.full, none) := chooseProfile_fits (by rw [hcls, hcost, hfits]; exact hf)
  have hnew := (decideRequest_new (r := schedRequest e) henabled htier hfresh).trans
    (decideNew_eq (r := schedRequest e) h.resume (makePlace_room' hplace) hchoice)
  have hplain : x.admission (schedRequest e) (x.cls (schedRequest e).cls) .full none = _ := admission_plain (by
    rw [h.cls]
    exact h.yieldsNone hn)
  have hid : x.givesId x.takeId.2 := takeId_givesId (Nat.le_of_lt hplace)
  have hresume := (createSession_resume (z := x.takeId.1) (r := schedRequest e) (id := x.takeId.2)
    (cost := x.profileCost (x.cls (schedRequest e).cls) .full) (p := .full) (by decide)).trans h.resume
  rw [hplain, resumeNow_none hresume, show x.cls (schedRequest e).cls = u.cls e.cls from hcls, hcost] at hnew
  have hgives : u.givesId x.takeId.2 := by
    unfold State.givesId at hid ⊢
    rw [← h.ssc]
    exact ⟨hid.1, fun hs => hid.2 (hs.congr h.ssc)⟩
  rw [show x.cls (schedRequest e).cls = u.cls e.cls from hcls, hcost] at hresume
  refine ⟨x.takeId.2, ?_, fun hroom => ?_⟩
  · rw [hnew]
    have hframe := advance_finish_frame (createSession_frame (z := x.takeId.1) (r := schedRequest e) (id := x.takeId.2)
      (cost := u.profileCost (u.cls e.cls) .full) (by decide)) hresume e due
    have hsched : (x.takeId.1.withNew (schedRequest e) x.takeId.2 .full (u.profileCost (u.cls e.cls) .full)).wsc.sched = u.wsc.sched :=
      (congrArg Wsc.sched (frame_wsc h.frame) : x.wsc.sched = u.wsc.sched)
    rw [hsched] at hframe
    have hz := sched_frame h.frame (advanced u.wsc.sched e due)
    have hdeep := frame_deep hz
    have hapq := frame_apq hz
    have htable := congrArg (fun q : List Session × Nat => (q.1, if x.takeId.2 = 255 then 1 else x.takeId.2 + 1)) (frame_table h.frame)
    generalize (x.takeId.1.createSession (schedRequest e) x.takeId.2 .full (u.profileCost (u.cls e.cls) .full)).advance e due = y at *
    exact admitted_of_frame (z := { x.takeId.1 with wsc.sched := advanced u.wsc.sched e due }) (by decide) hgives hframe
      hdeep hapq htable (profileCost_congr (fun _ => rfl) (fun _ => Iff.rfl) ..)
  · rw [hnew]
    have hlen : (u.evq.events ++ before).length < 24 := by
      have := hroom.2
      rw [List.length_append]
      omega
    have hrecord := ((h.records (roomFor_mono hroom (Nat.le_succ _))).same (t := x.takeId.1) rfl rfl).createSession
      (r := schedRequest e) (id := x.takeId.2) (cost := u.profileCost (u.cls e.cls) .full) (p := .full) hlen (by decide)
    have hstamp : x.takeId.1.recordOf .wakeAdmitted x.takeId.2 Profile.full.code
        (some (tenths16 (u.profileCost (u.cls e.cls) .full))) = u.recordOf .wakeAdmitted x.takeId.2 1
        (some (tenths16 (u.profileCost (u.cls e.cls) .full))) := recordOf_congr (s := u) (t := x) (frame_seconds h.frame) ..
    rw [hstamp, List.append_assoc] at hrecord
    generalize x.takeId.1.createSession (schedRequest e) x.takeId.2 .full (u.profileCost (u.cls e.cls) .full) = y at *
    exact advance_recorded hrecord e due

/-- An entry that is due and is evaluated outside DRIVE. -/
theorem evaluate_evaluated (h : Poised x u before) (hm : u.mdc.mode ≠ .drive) (he : u.entry? e.id = some e)
    (hdue : e.due ≤ u.wsc.seconds) : (x.evaluate e.id).finish.evaluated u before e := by
  have hseconds : x.wsc.seconds = u.wsc.seconds := frame_seconds h.frame
  have hwork := evaluate_of_due (x := x) (by rw [base_mode (frame_base h.frame)]; exact hm) ((h.entry e.id).trans he)
    (by rw [hseconds]; exact hdue)
  have hsched := evaluateLate_sched x e
  rw [show x.wsc.sched = u.wsc.sched from congrArg Wsc.sched (frame_wsc h.frame), hseconds, latest_eq] at hsched
  rw [hwork]
  unfold State.evaluated
  dsimp only
  rw [hsched]
  refine ⟨advanced_others, not_mem_advanced, mem_advanced_next, fun hlate => ?missed, fun hfires => ?fires⟩
  case missed =>
    have hmissed := evaluateLate_missed (x := x) (e := e) (by rw [hseconds, latest_eq]; exact hlate)
    rw [hseconds, latest_eq, passed_eq] at hmissed
    have hposed := h.recordMissed e ((u.wsc.seconds - e.due) / e.period + 1)
    rw [hmissed]
    refine ⟨advance_finish_frame hposed.frame hposed.resume .., fun hroom => advance_recorded (hposed.records ?_) ..⟩
    rwa [List.length_append]
  case fires =>
    have hwork' := evaluateLate_fires (x := x) (e := e) (by rw [hseconds, latest_eq]; exact hfires)
    rw [hseconds, latest_eq, passed_eq] at hwork'
    have hposed := h.recordMissed e ((u.wsc.seconds - e.due) / e.period)
    have hroom : u.roomFor (before.length + 2) →
        u.roomFor ((before ++ u.missedRecord e ((u.wsc.seconds - e.due) / e.period)).length + 1) := by
      refine fun hroom => roomFor_mono hroom ?_
      rw [List.length_append, State.missedRecord]
      split <;> simp
    rw [hwork']
    refine ⟨fun hdisabled => ?_, fun henabled htier => ?_, fun hadmissible hnone hfits => ?_⟩
    · obtain ⟨hframe, hrecords⟩ := refuse_advance hposed (decideRequest_disabled (by rw [hposed.cls]; exact hdisabled)) _
      exact ⟨hframe, fun hr => hrecords (hroom hr)⟩
    · obtain ⟨hframe, hrecords⟩ := refuse_advance hposed (decideRequest_tier (by rw [hposed.cls]; exact henabled)
        (by rw [hposed.cls, base_btm (frame_base hposed.frame)]; exact htier)) _
      exact ⟨hframe, fun hr => hrecords (hroom hr)⟩
    · obtain ⟨id, hadmitted, hrecords⟩ := admit_advance hposed hadmissible hnone hfits _
      exact ⟨id, hadmitted, fun hr => hrecords (hroom hr)⟩

end

end Sys2Proof.Machine
end

section
/-! SCHED_ADD (R155): its checks, the entry's place, and the evaluation of one that is past due. Settles O57. -/

namespace Sys2Proof.Machine

/-! ### The entry as it is read -/

theorem readSchedEntry_eq_none (i u3 u2 u1 u0 p3 p2 p1 p0 c l1 l0 f : Byte) :
    readSchedEntry [i, u3, u2, u1, u0, p3, p2, p1, p0, c, l1, l0, f] = none ↔
      i.toNat = 0 ∨ (1 ≤ nat32 p3 p2 p1 p0 ∧ nat32 p3 p2 p1 p0 ≤ 59) ∨ 604800 < nat32 p3 p2 p1 p0 ∨ 7 < c.toNat ∨
        3600 < nat16 l1 l0 ∨ 1 < f.toNat := by
  have hclass := readClass_none_iff (b := c)
  unfold readSchedEntry
  dsimp only
  generalize nat32 p3 p2 p1 p0 = period
  generalize nat16 l1 l0 = lateness
  cases hc : readClass c with
  | none =>
    rw [hc] at hclass
    rw [Option.bind_none]
    exact ⟨fun _ => .inr (.inr (.inr (.inl (hclass.1 rfl)))), fun _ => rfl⟩
  | some d =>
    rw [hc] at hclass
    have hin : ¬ 7 < c.toNat := fun h => absurd (hclass.2 h) (by simp)
    rw [Option.bind_some, check_eq_none]
    simp only [Bool.and_eq_false_iff, Bool.or_eq_false_iff, decide_eq_false_iff_not, beq_eq_false_iff_ne]
    omega

/-! ### The entry in its place -/

section
variable {e : SchedEntry} {l : List SchedEntry} (h : ∀ x ∈ l, x.id ≠ e.id)
include h

theorem find_placeEntry : (placeEntry e l).find? (fun x => x.id == e.id) = some e := by
  induction l with
  | nil => simp [placeEntry]
  | cons x l ih =>
    have hx : (x.id == e.id) = false := by simpa using h x List.mem_cons_self
    have hl : ∀ y ∈ l, y.id ≠ e.id := fun y hy => h y (List.mem_cons_of_mem _ hy)
    unfold placeEntry
    split
    · exact List.find?_cons_of_pos (beq_self_eq_true e.id)
    · rw [List.find?_cons_of_neg (by rw [hx]; decide)]
      exact ih hl

theorem map_placeEntry (b : Bool) : (placeEntry e l).map (fun x => if x.id == e.id then { x with pending := b } else x) =
    placeEntry { e with pending := b } l := by
  have hself : ∀ m : List SchedEntry, (∀ x ∈ m, x.id ≠ e.id) → m.map (fun x => if x.id == e.id then { x with pending := b } else x) = m :=
    fun m hm => (List.map_congr_left fun x hx => if_neg (by simpa using hm x hx)).trans (List.map_id' m)
  induction l with
  | nil => simp [placeEntry]
  | cons x l ih =>
    have hl : ∀ y ∈ l, y.id ≠ e.id := fun y hy => h y (List.mem_cons_of_mem _ hy)
    have hx : ¬ (x.id == e.id) = true := by simpa using h x List.mem_cons_self
    have hbefore : ({ e with pending := b } : SchedEntry).before x = e.before x := rfl
    unfold placeEntry
    rw [hbefore]
    split
    · rw [List.map_cons, if_pos (beq_self_eq_true e.id), hself _ h]
    · rw [List.map_cons, if_neg hx, ih hl]

theorem filter_placeEntry : (placeEntry e l).filter (fun x => x.id != e.id) = l := by
  rw [placeEntry_filter (by simp), List.filter_eq_self.2]
  exact fun x hx => by simpa using h x hx

end

/-- The state with the entry placed in the Schedule. -/
def State.placed (s : State) (e : SchedEntry) : State := { s with wsc.sched := placeEntry e s.wsc.sched }

section
variable {s : State} {p : List Byte} {e : SchedEntry}

theorem placed_entry (h : ∀ x ∈ s.wsc.sched, x.id ≠ e.id) : (s.placed e).entry? e.id = some e := find_placeEntry h

theorem entry_isSome : (s.entry? e.id).isSome = true ↔ ∃ x ∈ s.wsc.sched, x.id = e.id := by
  unfold State.entry?
  rw [List.find?_isSome]
  simp only [beq_iff_eq]

/-! ### The request -/

theorem reqSchedAdd_badField (h : readSchedEntry p = none) : reqSchedAdd s p = refusal s .badField := by
  unfold reqSchedAdd
  rw [h]

theorem reqSchedAdd_duplicate (h : readSchedEntry p = some e) (hd : ∃ x ∈ s.wsc.sched, x.id = e.id) :
    reqSchedAdd s p = refusal s .duplicateId := by
  unfold reqSchedAdd
  rw [h]
  exact if_pos (entry_isSome.2 hd)

theorem reqSchedAdd_full (h : readSchedEntry p = some e) (hn : ∀ x ∈ s.wsc.sched, x.id ≠ e.id) (hf : 16 ≤ s.wsc.sched.length) :
    reqSchedAdd s p = refusal s .full := by
  have hnew : ¬ (s.entry? e.id).isSome = true := fun hx => by
    obtain ⟨x, hx, he⟩ := entry_isSome.1 hx
    exact hn x hx he
  unfold reqSchedAdd
  rw [h]
  dsimp only
  rw [if_neg hnew, if_pos hf]

section
variable (h : readSchedEntry p = some e) (hn : ∀ x ∈ s.wsc.sched, x.id ≠ e.id) (hf : s.wsc.sched.length < 16)
include h hn hf

theorem reqSchedAdd_ahead (hd : s.wsc.seconds < e.due) : reqSchedAdd s p = okay (s.placed e) := by
  have hnew : ¬ (s.entry? e.id).isSome = true := fun hx => by
    obtain ⟨x, hx, he⟩ := entry_isSome.1 hx
    exact hn x hx he
  unfold reqSchedAdd
  rw [h]
  dsimp only
  rw [if_neg hnew, if_neg (by omega), if_neg (by omega)]
  rfl

theorem reqSchedAdd_due (hd : e.due ≤ s.wsc.seconds) : reqSchedAdd s p = okay ((s.placed e).evaluate e.id).finish := by
  have hnew : ¬ (s.entry? e.id).isSome = true := fun hx => by
    obtain ⟨x, hx, he⟩ := entry_isSome.1 hx
    exact hn x hx he
  unfold reqSchedAdd
  rw [h]
  dsimp only
  rw [if_neg hnew, if_neg (by omega), if_pos hd]
  rfl

end

theorem exec_schedAdd (h : Listening s) (hf : s.lnk.linkFault = false) (hl : p.length = 13) {t : State} {a : Answer}
    (ha : reqSchedAdd s.taken p = (t, a)) : exec (.schedAdd p) s = .next (t.sendReply (0x30 + 0x80) a) := by
  refine exec_of_owner (c := .schedAdd p) rfl ?_ h (by decide) ?_ (not_linkFault hf _) ?_ ha
  · simp [Instr.wellFormed, payloadFits, hl]
  · rw [hl]
    rfl
  · simp [State.lockRefuses]

/-! ### The evaluation in DRIVE (R161) -/

theorem evaluate_held (hm : s.mdc.mode = .drive) (he : s.entry? e.id = some e) (hs : e.skipInDrive = false) :
    s.evaluate e.id = s.setPending e.id true := by
  unfold State.evaluate State.evaluateInDrive
  rw [he]
  dsimp only
  rw [if_pos hm, if_neg (by rw [hs]; decide)]

theorem evaluate_skipped (hm : s.mdc.mode = .drive) (he : s.entry? e.id = some e) (hs : e.skipInDrive = true) :
    s.evaluate e.id = ((s.recordMissed e (e.passed s.wsc.seconds)).record .schedSkipped e.id e.cls.val none).advance e
      (e.latest s.wsc.seconds + e.period) := by
  unfold State.evaluate State.evaluateInDrive
  rw [he]
  dsimp only
  rw [if_pos hm, if_pos hs]

theorem setPending_eq (s : State) (id : Nat) (b : Bool) : s.setPending id b =
    { s with wsc.sched := s.wsc.sched.map (fun x => if x.id == id then { x with pending := b } else x) } := rfl

end

/-- With nothing put off the decision's state stands as it is. -/
theorem Poised.start {x u : State} (hframe : x.frame = u.frame) (hssc : x.ssc = u.ssc) (hdmc : x.dmc = u.dmc) (hevq : x.evq = u.evq)
    (hw : x.work.resume = none) : Poised x u [] where
  frame := hframe
  ssc := hssc
  latched d := by rw [State.dom, State.dom, hdmc]
  resume := hw
  records hroom := by
    rw [List.append_nil]
    exact ⟨by rw [hevq], by rw [hevq]; exact hroom.1⟩

theorem evaluated_sendReply {t u : State} {before : List Event} {e : SchedEntry} (h : t.evaluated u before e) (type : Byte) (a : Answer) :
    (t.sendReply type a).evaluated u before e := h

/-- Settles O57. -/
theorem scheduleEntryIsAdded : Obligations.ScheduleEntryIsAdded := by
  intro p s h hfault hlen
  refine ⟨fun i u3 u2 u1 u0 p3 p2 p1 p0 c l1 l0 f hp => ?_, fun hnone => exec_schedAdd h hfault hlen (reqSchedAdd_badField hnone),
    fun e he => ⟨fun hdup => exec_schedAdd h hfault hlen (reqSchedAdd_duplicate (s := s.taken) he hdup), fun hn => ⟨fun hfull => ?_,
      fun hplace hahead => ?_, fun hplace hdue hm hskip => ?held, fun hplace hdue hm hskip hperiod => ?skipped,
      fun hplace hdue hm => ?late⟩⟩⟩
  · rw [hp]
    exact readSchedEntry_eq_none ..
  · exact exec_schedAdd h hfault hlen (reqSchedAdd_full (s := s.taken) he hn hfull)
  · exact exec_schedAdd h hfault hlen (reqSchedAdd_ahead (s := s.taken) he hn hplace hahead)
  case held =>
    have hexec := exec_schedAdd h hfault hlen (reqSchedAdd_due (s := s.taken) he hn hplace hdue)
    rw [evaluate_held (s := s.taken.placed e) hm (placed_entry (s := s.taken) hn) hskip] at hexec
    have hsched : ((s.taken.placed e).setPending e.id true).frame =
        ({ s with wsc.sched := placeEntry { e with pending := true } s.wsc.sched } : State).frame := by
      rw [← map_placeEntry hn]
      rfl
    have hresume : ((s.taken.placed e).setPending e.id true).work.resume = none := h.resume
    generalize (s.taken.placed e).setPending e.id true = v at *
    exact ⟨_, hexec, sendReply_replies .., (sendReply_frame ..).trans ((finish_frame hresume).trans hsched)⟩
  case skipped =>
    have hexec := exec_schedAdd h hfault hlen (reqSchedAdd_due (s := s.taken) he hn hplace hdue)
    have hpassed : e.passed (s.taken.placed e).wsc.seconds = 0 := if_pos hperiod
    rw [evaluate_skipped (s := s.taken.placed e) hm (placed_entry (s := s.taken) hn) hskip, hpassed] at hexec
    have hplain : (s.taken.placed e).recordMissed e 0 = s.taken.placed e := rfl
    rw [hplain] at hexec
    generalize e.latest (s.taken.placed e).wsc.seconds + e.period = due at hexec
    have hframe := advance_finish_frame (record_frame (s.taken.placed e) .schedSkipped e.id e.cls.val none)
      ((record_resume (s.taken.placed e) .schedSkipped e.id e.cls.val none).trans h.resume) e due
    have hsched : advanced (s.taken.placed e).wsc.sched e due = s.wsc.sched := by
      rw [advanced, if_pos (by rw [hperiod]; rfl)]
      exact filter_placeEntry hn
    rw [hsched] at hframe
    have hrecords : s.roomFor 1 → Holds (s.evq.events ++ [s.recordOf .schedSkipped e.id e.cls.val none])
        ((s.taken.placed e).record .schedSkipped e.id e.cls.val none) := fun hroom =>
      ((taken_holds hroom).same (t := s.taken.placed e) rfl rfl).record (roomFor_lt hroom) .schedSkipped e.id e.cls.val none
    generalize (s.taken.placed e).record .schedSkipped e.id e.cls.val none = y at *
    exact ⟨_, hexec, sendReply_replies .., (sendReply_frame ..).trans hframe, fun hroom =>
      recorded_sendReply (advance_recorded (hrecords hroom) e due) ..⟩
  case late =>
    have hexec := exec_schedAdd h hfault hlen (reqSchedAdd_due (s := s.taken) he hn hplace hdue)
    have hposed : Poised (s.taken.placed e) (s.placed e) [] := Poised.start rfl rfl rfl rfl h.resume
    have hevaluated := evaluate_evaluated hposed hm (placed_entry hn) hdue
    generalize (s.taken.placed e).evaluate e.id = v at *
    exact ⟨_, hexec, sendReply_replies .., evaluated_sendReply hevaluated ..⟩

end Sys2Proof.Machine
end

section
/-! The evaluation of every entry that is due (R153, R158 to R161), by CLOCK_SET and by a rise of the seconds. Settles O59. -/

namespace Sys2Proof.Machine

/-! ### One evaluation in the Schedule -/

theorem setPending_others (l : List SchedEntry) (id : Nat) (b : Bool) :
    (l.map (fun x => if x.id == id then { x with pending := b } else x)).filter (fun x => x.id != id) = l.filter (fun x => x.id != id) := by
  induction l with
  | nil => rfl
  | cons x l ih =>
    rw [List.map_cons]
    by_cases hx : x.id = id
    · rw [if_pos (by simpa using hx), List.filter_cons_of_neg (by simpa using hx), List.filter_cons_of_neg (by simpa using hx), ih]
    · rw [if_neg (by simpa using hx), List.filter_cons_of_pos (by simpa using hx), List.filter_cons_of_pos (by simpa using hx), ih]

theorem evaluateLate_wsc (s : State) (e : SchedEntry) :
    (s.evaluateLate e).wsc.sched = advanced s.wsc.sched e (e.latest s.wsc.seconds + e.period) :=
  (congrArg Wsc.sched (deep_wsc (finish_deep (s.evaluateLate e)))).symm.trans (evaluateLate_sched s e)

theorem evaluateInDrive_skipped_sched {s : State} {e : SchedEntry} (h : e.skipInDrive = true) :
    (s.evaluateInDrive e).wsc.sched = advanced s.wsc.sched e (e.latest s.wsc.seconds + e.period) := by
  have hrecords : ((s.recordMissed e (e.passed s.wsc.seconds)).record .schedSkipped e.id e.cls.val none).wsc = s.wsc :=
    (deep_wsc (record_deep ..)).trans (deep_wsc (recordMissed_deep ..))
  unfold State.evaluateInDrive
  dsimp only
  rw [if_pos h, advance_eq, hrecords]

/-- An evaluation leaves the other entries as they are. -/
theorem evaluate_others (s : State) (id : Nat) :
    (s.evaluate id).wsc.sched.filter (fun x => x.id != id) = s.wsc.sched.filter (fun x => x.id != id) := by
  unfold State.evaluate
  split
  · rfl
  · next e he =>
    obtain ⟨-, rfl⟩ := entry_some he
    split
    · by_cases hs : e.skipInDrive = true
      · rw [evaluateInDrive_skipped_sched hs]
        exact advanced_others
      · unfold State.evaluateInDrive
        rw [if_neg hs]
        exact setPending_others ..
    · split
      · exact setPending_others ..
      · rw [evaluateLate_wsc]
        exact advanced_others

theorem mem_evaluate_iff {s : State} {id : Nat} {x : SchedEntry} (h : x.id ≠ id) : x ∈ (s.evaluate id).wsc.sched ↔ x ∈ s.wsc.sched := by
  have hfilter : ∀ l : List SchedEntry, x ∈ l ↔ x ∈ l.filter (fun y => y.id != id) := fun l => by
    rw [List.mem_filter]
    simpa using fun _ => h
  rw [hfilter, evaluate_others, ← hfilter]

/-- Held PENDING in DRIVE (R161). -/
def State.holdsPending (s : State) (e : SchedEntry) : Prop := s.mdc.mode = .drive ∧ e.skipInDrive = false

section
variable {s : State} {e : SchedEntry} (he : s.entry? e.id = some e)
include he

theorem mem_evaluate_held (h : s.holdsPending e) : { e with pending := true } ∈ (s.evaluate e.id).wsc.sched := by
  rw [evaluate_held h.1 he h.2]
  refine List.mem_map.2 ⟨e, (entry_some he).1, ?_⟩
  exact if_pos (beq_self_eq_true e.id)

/-- A due entry that is not held PENDING advances (R160). -/
theorem evaluate_advances (hdue : e.due ≤ s.wsc.seconds) (h : ¬ s.holdsPending e) :
    (s.evaluate e.id).wsc.sched = advanced s.wsc.sched e (e.latest s.wsc.seconds + e.period) := by
  by_cases hm : s.mdc.mode = .drive
  · have hs : e.skipInDrive = true := by
      rw [← Bool.not_eq_false]
      exact fun hs => h ⟨hm, hs⟩
    have hdrive : s.evaluate e.id = s.evaluateInDrive e := by
      unfold State.evaluate
      rw [he]
      exact if_pos hm
    rw [hdrive, evaluateInDrive_skipped_sched hs]
  · rw [evaluate_of_due hm he hdue, evaluateLate_wsc]

end

/-! ### All evaluations of an event -/

/-- The entries of a list evaluated one after the other. -/
def State.evaluateAll (s : State) (es : List SchedEntry) : State := es.foldl (fun s e => s.evaluate e.id) s

theorem evaluateWhere_eq (s : State) (p : SchedEntry → Bool) : s.evaluateWhere p = s.evaluateAll (s.wsc.sched.filter p) := rfl

theorem evaluateAll_base (es : List SchedEntry) (s : State) : (s.evaluateAll es).base = s.base :=
  foldl_keeps State.base (fun t (e : SchedEntry) => t.evaluate e.id) (fun t e => evaluate_base t e.id) es s

theorem evaluateAll_sound {s : State} (h : ScheduleSound s) (es : List SchedEntry) : ScheduleSound (s.evaluateAll es) :=
  foldl_closed (fun t (e : SchedEntry) => t.evaluate e.id) (fun _ e ht => ScheduleSound.closed.evaluate e.id ht) es h

theorem mem_evaluateAll_iff {x : SchedEntry} (es : List SchedEntry) (s : State) (h : ∀ e ∈ es, x.id ≠ e.id) :
    x ∈ (s.evaluateAll es).wsc.sched ↔ x ∈ s.wsc.sched := by
  induction es generalizing s with
  | nil => rfl
  | cons e es ih =>
    exact (ih (s.evaluate e.id) fun y hy => h y (List.mem_cons_of_mem _ hy)).trans (mem_evaluate_iff (h e List.mem_cons_self))

/-- An entry of the list is evaluated as it stands, and nothing that is evaluated before or after it touches what becomes of it. -/
theorem evaluateAll_reaches {s : State} (h : ScheduleSound s) {es : List SchedEntry} (hes : (es.map SchedEntry.id).Nodup) {e : SchedEntry}
    (he : e ∈ es) (hmem : e ∈ s.wsc.sched) : ∃ z : State, z.base = s.base ∧ z.entry? e.id = some e ∧
      ∀ x : SchedEntry, x.id = e.id → (x ∈ (s.evaluateAll es).wsc.sched ↔ x ∈ (z.evaluate e.id).wsc.sched) := by
  obtain ⟨before, after, rfl⟩ := List.append_of_mem he
  rw [List.map_append, List.map_cons, List.nodup_append] at hes
  obtain ⟨-, hafter, hdisjoint⟩ := hes
  have hbeforeNe : ∀ y ∈ before, e.id ≠ y.id := fun y hy =>
    Ne.symm (hdisjoint y.id (List.mem_map_of_mem hy) e.id List.mem_cons_self)
  have hafterNe : ∀ y ∈ after, e.id ≠ y.id := fun y hy heq =>
    (List.nodup_cons.1 hafter).1 (heq ▸ List.mem_map_of_mem hy)
  refine ⟨s.evaluateAll before, evaluateAll_base .., ?_, fun x hx => ?_⟩
  · exact entry_of_mem (evaluateAll_sound h before) ((mem_evaluateAll_iff before s hbeforeNe).2 hmem)
  · have hsplit : s.evaluateAll (before ++ e :: after) = ((s.evaluateAll before).evaluate e.id).evaluateAll after := by
      unfold State.evaluateAll
      rw [List.foldl_append, List.foldl_cons]
    rw [hsplit]
    exact mem_evaluateAll_iff after _ fun y hy => hx ▸ hafterNe y hy

theorem eq_singleton {α : Type} {l : List α} {a : α} (hn : l.Nodup) (ha : a ∈ l) (hall : ∀ x ∈ l, x = a) : l = [a] := by
  cases l with
  | nil => cases ha
  | cons x l =>
    obtain rfl := hall x List.mem_cons_self
    cases l with
    | nil => rfl
    | cons y l =>
      obtain rfl := hall y (List.mem_cons_of_mem _ List.mem_cons_self)
      exact absurd List.mem_cons_self (List.nodup_cons.1 hn).1

/-- An entry that alone satisfies p is the one evaluated. -/
theorem evaluateWhere_one {s : State} (h : ScheduleSound s) {p : SchedEntry → Bool} {e : SchedEntry} (he : e ∈ s.wsc.sched)
    (hp : p e = true) (honly : ∀ x ∈ s.wsc.sched, p x = true → x = e) : s.evaluateWhere p = s.evaluate e.id := by
  have hnodup : s.wsc.sched.Nodup := h.ids.of_map _
  have hone : s.wsc.sched.filter p = [e] := eq_singleton (hnodup.filter _) (List.mem_filter.2 ⟨he, hp⟩) fun x hx =>
    honly x (List.mem_filter.1 hx).1 (List.mem_filter.1 hx).2
  rw [evaluateWhere_eq, hone]
  rfl

theorem evaluateWhere_none {s : State} {p : SchedEntry → Bool} (h : ∀ x ∈ s.wsc.sched, p x = false) : s.evaluateWhere p = s := by
  have hnone : s.wsc.sched.filter p = [] := List.filter_eq_nil_iff.2 fun x hx => by rw [h x hx]; decide
  rw [evaluateWhere_eq, hnone]
  rfl

/-! ### The clock moves -/

/-- t is u once the entries of s that are due have been evaluated there (R158 to R162, R164). -/
def Moves (s t u : State) (isDue : SchedEntry → Prop) : Prop :=
  let now := u.wsc.seconds
  t.wsc.seconds = now ∧ t.wsc.fraction = 0 ∧ t.wsc.riseDue = false ∧ ((∀ e ∈ s.wsc.sched, ¬ isDue e) → t.frame = u.frame) ∧
  (ScheduleSound s → ∀ e ∈ s.wsc.sched,
    let held := s.mdc.mode = .drive ∧ e.skipInDrive = false
    let passed := (now - e.due) / e.period
    let next := e.due + (passed + 1) * e.period
    (¬ isDue e → e ∈ t.wsc.sched) ∧
    (isDue e → held → { e with pending := true } ∈ t.wsc.sched) ∧
    (isDue e → ¬ held → e.period = 0 ∨ 4294967295 < next → ∀ x ∈ t.wsc.sched, x.id ≠ e.id) ∧
    (isDue e → ¬ held → e.period ≠ 0 → next ≤ 4294967295 → { e with due := next, pending := false } ∈ t.wsc.sched) ∧
    (isDue e → (∀ x ∈ s.wsc.sched, isDue x → x = e) → s.mdc.mode ≠ .drive → t.evaluated u [] e))

theorem Moves.sendReply {s t u : State} {isDue : SchedEntry → Prop} (h : Moves s t u isDue) (type : Byte) (a : Answer) :
    Moves s (t.sendReply type a) u isDue := h

section
variable {s x u : State} {isDue : SchedEntry → Prop} {p : SchedEntry → Bool}

theorem next_eq (e : SchedEntry) (now : Nat) : e.latest now + e.period = e.due + ((now - e.due) / e.period + 1) * e.period := by
  rw [latest_eq, Nat.add_mul, Nat.one_mul, Nat.add_assoc]

theorem evaluateWhere_moves (h : Poised x u []) (hsched : x.wsc.sched = s.wsc.sched) (hmode : u.mdc.mode = s.mdc.mode)
    (hfraction : u.wsc.fraction = 0) (hrise : u.wsc.riseDue = false) (hp : ∀ e, p e = true ↔ isDue e)
    (hdue : ∀ e, isDue e → e.due ≤ u.wsc.seconds) : Moves s (x.evaluateWhere p).finish u isDue := by
  have hbase := (finish_base (x.evaluateWhere p)).trans ((evaluateWhere_base x p).trans (frame_base h.frame))
  have hwsc : (x.evaluateWhere p).finish.wsc.sched = (x.evaluateAll (x.wsc.sched.filter p)).wsc.sched :=
    congrArg Wsc.sched (deep_wsc (finish_deep (x.evaluateWhere p)))
  have hseconds : x.wsc.seconds = u.wsc.seconds := frame_seconds h.frame
  refine ⟨base_seconds hbase, (base_fraction hbase).trans hfraction, (base_riseDue hbase).trans hrise, fun hnone => ?_, fun hsound e he => ?_⟩
  · rw [evaluateWhere_none (s := x) fun e he => by
      rw [← Bool.not_eq_true, hp]
      exact hnone e (hsched ▸ he)]
    exact (finish_frame h.resume).trans h.frame
  · have hsoundX : ScheduleSound x := hsound.of_sched hsched
    have heX : e ∈ x.wsc.sched := by rw [hsched]; exact he
    have hids : ((x.wsc.sched.filter p).map SchedEntry.id).Nodup := hsoundX.ids.sublist (List.filter_sublist.map _)
    have hreach : isDue e → ∃ z : State, z.base = x.base ∧ z.entry? e.id = some e ∧
        ∀ y : SchedEntry, y.id = e.id → (y ∈ (x.evaluateWhere p).finish.wsc.sched ↔ y ∈ (z.evaluate e.id).wsc.sched) := by
      intro hd
      rw [hwsc]
      exact evaluateAll_reaches hsoundX hids (List.mem_filter.2 ⟨heX, (hp e).2 hd⟩) heX
    have hholds : ∀ z : State, z.base = x.base → (z.holdsPending e ↔ s.mdc.mode = .drive ∧ e.skipInDrive = false) := fun z hz => by
      rw [State.holdsPending, base_mode hz, base_mode (frame_base h.frame), hmode]
    refine ⟨fun hd => ?_, fun hd hheld => ?_, fun hd hheld hlast => ?_, fun hd hheld hperiod hnext => ?_, fun hd honly hm => ?_⟩
    · rw [hwsc]
      refine (mem_evaluateAll_iff _ x fun y hy heq => hd ?_).2 heX
      obtain ⟨hy, hpy⟩ := List.mem_filter.1 hy
      rw [List.inj_on_of_nodup_map hsoundX.ids heX hy heq]
      exact (hp y).1 hpy
    · obtain ⟨z, hz, hentry, hmem⟩ := hreach hd
      exact (hmem { e with pending := true } rfl).2 (mem_evaluate_held hentry ((hholds z hz).2 hheld))
    · obtain ⟨z, hz, hentry, hmem⟩ := hreach hd
      have hsecondsZ : z.wsc.seconds = u.wsc.seconds := (base_seconds hz).trans hseconds
      have hadvances := evaluate_advances hentry (by rw [hsecondsZ]; exact hdue e hd) (mt (hholds z hz).1 hheld)
      rw [hsecondsZ, next_eq] at hadvances
      intro y hy heq
      rw [hmem y heq, hadvances] at hy
      exact not_mem_advanced hlast y hy heq
    · obtain ⟨z, hz, hentry, hmem⟩ := hreach hd
      have hsecondsZ : z.wsc.seconds = u.wsc.seconds := (base_seconds hz).trans hseconds
      have hadvances := evaluate_advances hentry (by rw [hsecondsZ]; exact hdue e hd) (mt (hholds z hz).1 hheld)
      rw [hsecondsZ, next_eq] at hadvances
      refine (hmem { e with due := _, pending := false } rfl).2 ?_
      rw [hadvances]
      exact mem_advanced_next hperiod hnext
    · rw [evaluateWhere_one hsoundX heX ((hp e).2 hd) fun y hy hpy => honly y (hsched ▸ hy) ((hp y).1 hpy)]
      exact evaluate_evaluated h (by rw [hmode]; exact hm) ((h.entry e.id).symm.trans (entry_of_mem hsoundX heX)) (hdue e hd)

end

/-! ### CLOCK_SET and the rise of the seconds -/

/-- The clock set to these seconds (R153). -/
def State.clockAt (s : State) (now : Nat) : State := { s with wsc.seconds := now, wsc.fraction := 0, wsc.riseDue := false }

theorem exec_clockSet {s : State} (h : Listening s) (hf : s.lnk.linkFault = false) (a b c d : Byte) :
    exec (.clockSet [a, b, c, d]) s =
      .next (((s.taken.clockAt (nat32 a b c d)).evaluatePastDue.finish).sendReply (0x33 + 0x80) { result := .ok, payload := [] }) :=
  exec_of_owner (c := .clockSet [a, b, c, d]) rfl rfl h (by decide) rfl (not_linkFault hf _) (by simp [State.lockRefuses]) rfl

theorem exec_partSecondRise {s : State} (h : Ready s) {n : Nat} (hn : n = (if s.wsc.riseDue then 0 else 1000 - s.wsc.fraction)) :
    exec .partSecondRise s = .next (((s.lapse n).clockAt ((s.wsc.seconds + 1) % 4294967296)).evaluateWhere
      (fun e => e.due == (s.wsc.seconds + 1) % 4294967296)).finish := by
  have hexec : exec .partSecondRise s = .next (s.lapse n).secondRises.finish :=
    timed_of_some (left := s.leftSecond) h.awake (by rw [hn]; rfl) State.secondRises
  have hwork : (s.lapse n).secondRises = ((s.lapse n).clockAt (((s.lapse n).wsc.seconds + 1) % 4294967296)).evaluateWhere
      (fun e => e.due == ((s.lapse n).wsc.seconds + 1) % 4294967296) := rfl
  rw [hexec, hwork, lapse_seconds]

/-- Settles O59: every due entry is reached as it stands, whatever the entries before it did. -/
theorem clockMovesTheSchedule : Obligations.ClockMovesTheSchedule := by
  intro s
  refine ⟨fun a b c d h hf => ?_, fun n h hn => ?_⟩
  · have hposed : Poised (s.taken.clockAt (nat32 a b c d)) (s.clockAt (nat32 a b c d)) [] := Poised.start rfl rfl rfl rfl h.resume
    have hmoves : Moves s (s.taken.clockAt (nat32 a b c d)).evaluatePastDue.finish (s.clockAt (nat32 a b c d))
        (fun e => e.due ≤ nat32 a b c d) :=
      evaluateWhere_moves hposed rfl rfl rfl rfl (fun e => decide_eq_true_iff) (fun e he => he)
    have hexec := exec_clockSet h hf a b c d
    generalize (s.taken.clockAt (nat32 a b c d)).evaluatePastDue.finish = t at *
    exact ⟨_, hexec, sendReply_replies .., hmoves.sendReply ..⟩
  · have hu : ({ s.lapse n with wsc := { s.wsc with seconds := (s.wsc.seconds + 1) % 4294967296, fraction := 0, riseDue := false } } :
        State) = (s.lapse n).clockAt ((s.wsc.seconds + 1) % 4294967296) := by
      unfold State.clockAt
      dsimp only
      rw [lapse_sched]
    have hposed : Poised ((s.lapse n).clockAt ((s.wsc.seconds + 1) % 4294967296))
        ((s.lapse n).clockAt ((s.wsc.seconds + 1) % 4294967296)) [] := Poised.start rfl rfl rfl rfl (h.lapse_resume n)
    have hmoves := evaluateWhere_moves (s := s) (isDue := fun e => e.due = (s.wsc.seconds + 1) % 4294967296) hposed (lapse_sched s n)
      (lapse_mode h.awake n) rfl rfl (fun e => beq_iff_eq) (fun e he => Nat.le_of_eq he)
    have hexec := exec_partSecondRise h hn
    intro now
    rw [hu]
    generalize (((s.lapse n).clockAt ((s.wsc.seconds + 1) % 4294967296)).evaluateWhere
      (fun e => e.due == (s.wsc.seconds + 1) % 4294967296)).finish = t at *
    exact ⟨t, hexec, hmoves⟩

end Sys2Proof.Machine
end

section
/-! HANDOVER entry (R6, R11): the holds swapped, the PENDING entries evaluated, CUTOFF entered through it. That a settling neither sets nor
clears a latch lets the evaluation price its sets as before the entry. Settles O28. -/

namespace Sys2Proof.Machine

/-! ### No settling sets or clears a latch (R25, R34) -/

/-- The same domains are LATCHED. -/
def SameLatches (t s : State) : Prop := ∀ d, (t.dom d).state = .latched ↔ (s.dom d).state = .latched

section
variable {s t u : State}

theorem SameLatches.refl (s : State) : SameLatches s s := fun _ => Iff.rfl

theorem SameLatches.trans (h : SameLatches u t) (h' : SameLatches t s) : SameLatches u s := fun d => (h d).trans (h' d)

/-- One domain that is not LATCHED takes a state that is not LATCHED. -/
theorem SameLatches.of_one {d : DomId} {n : DomState} (ho : (s.dom d).state ≠ .latched) (hn : n ≠ .latched)
    (h : ∀ e, (t.dom e).state = if e = d then n else (s.dom e).state) : SameLatches t s := by
  intro e
  rw [h e]
  split
  · next he =>
    rw [he]
    exact iff_of_false hn ho
  · exact Iff.rfl

variable {d : DomId}

theorem enterOff_latches (ho : (s.dom d).state ≠ .latched) : SameLatches (s.enterOff d) s :=
  .of_one ho (by decide) (enterOff_state s d)

theorem powerOff_latches (c : HeldCause) (ho : (s.dom d).state ≠ .latched) : SameLatches (s.powerOff d c) s := by
  unfold State.powerOff
  split
  · intro e
    show ((s.updDom 0 (fun x => { x with timer := 0 })).dom e).state = _ ↔ _
    rw [dom_updDom]
    split
    · next he => rw [he]
    · exact Iff.rfl
  · exact enterOff_latches ho

theorem forceOff_latches (s : State) (d : DomId) : SameLatches (s.forceOff d) s := by
  by_cases hl : (s.dom d).state = .latched
  · intro e
    rw [forceOff_state, hl]
    split
    · next he =>
      rw [he]
      exact iff_of_true rfl hl
    · exact Iff.rfl
  · unfold State.forceOff
    split
    · exact .refl s
    · exact .refl s
    · exact enterOff_latches hl
    · exact enterOff_latches hl
    · exact enterOff_latches hl
    · exact powerOff_latches _ hl
    · exact powerOff_latches _ hl

theorem foldl_latches {f : State → DomId → State} (h : ∀ t d, SameLatches (f t d) t) (l : List DomId) (s : State) :
    SameLatches (l.foldl f s) s := by
  induction l generalizing s with
  | nil => exact .refl s
  | cons d l ih => exact (ih (f s d)).trans (h s d)

theorem forceCutoff_latches (s : State) : SameLatches s.forceCutoff s :=
  foldl_latches (fun t d => by
    split
    · exact .refl t
    · exact forceOff_latches t d) _ s

theorem transition_latches (s : State) (d : DomId) : SameLatches (s.transition d) s := by
  unfold State.transition
  split
  · exact forceCutoff_latches s
  · split
    case h_1 hoff =>
      split
      · exact .of_one (by rw [hoff]; decide) (by decide) (enterQueued_state s d)
      · exact .refl s
    case h_2 hq =>
      split
      · exact enterOff_latches (by rw [hq]; decide)
      · exact .refl s
    case h_3 hq =>
      split
      · exact enterOff_latches (by rw [hq]; decide)
      · exact .refl s
    case h_4 => exact .refl s
    case h_5 => exact .refl s
    case h_6 hon =>
      split
      · exact .refl s
      · split
        · exact powerOff_latches _ (by rw [hon]; decide)
        · exact .of_one (by rw [hon]; decide) (by decide) (fun e => setState_state s d e .holdoff _)
    case h_7 hh =>
      split
      · exact .of_one (by rw [hh]; decide) (by decide) (fun e => setState_state s d e .on 0)
      · exact .refl s

theorem settle_latches (s : State) : SameLatches s.settle s :=
  foldl_latches (fun t d => by
    unfold State.transitionOf
    split
    · split
      · exact .refl t
      · exact transition_latches { t with dmc.d0Held := none } d
    · exact transition_latches t d) _ s

theorem refreshSub_latches (s : State) : SameLatches s.refreshSub s := fun d => by rw [refreshSub_dom]

theorem demandChanged_latches (s : State) : SameLatches s.demandChanged s := (refreshSub_latches _).trans (settle_latches s)

theorem record_latches (s : State) (k : RecordKind) (a b : Nat) (v : Option Nat) : SameLatches (s.record k a b v) s :=
  fun d => by rw [record_dom]

end

/-! ### What the entry leaves of the frame (R6, R11) -/

theorem forceCutoff_frame (s : State) : s.forceCutoff.frame = s.frame :=
  frame_of (forceCutoff_deep s) (table_of_ssc ((Domestic.sameSessions s.ssc).forceCutoff rfl)) ((Domestic.sameApproach s.apq).forceCutoff rfl)

/-- MDC in CUTOFF, as the entry leaves it (R11). -/
def Mdc.cutoffNow (m : Mdc) : Mdc :=
  { m with mode := .cutoff, handoverTimer := none, driveHold := false, handoverHold := false, alwaysHold := false }

/-- MDC in HANDOVER, as the entry leaves it (R6). -/
def Mdc.handoverNow (m : Mdc) : Mdc :=
  { m with mode := .handover, driveHold := false, handoverHold := true, alwaysHold := true,
           handoverTimer := if m.parkedFlag then some (m.handoverTimeout * 1000) else none }

theorem enterCutoff_frame (s : State) : s.enterCutoff.frame = { s with mdc := s.mdc.cutoffNow }.frame := by
  have hrest : ({ s.setMode .cutoff .tierCutoff with mdc := { (s.setMode .cutoff .tierCutoff).mdc with
      handoverTimer := none, driveHold := false, handoverHold := false, alwaysHold := false } } : State).frame = _ :=
    mdc_frame (setMode_frame s .cutoff .tierCutoff)
      (fun m => { m with handoverTimer := none, driveHold := false, handoverHold := false, alwaysHold := false }) (fun _ _ => rfl)
  exact (refreshSub_frame _).trans ((forceCutoff_frame _).trans ((setHolds_frame ..).trans hrest))

theorem enterCutoff_resume (s : State) : s.enterCutoff.work.resume = s.work.resume := by
  unfold State.enterCutoff
  dsimp only
  rw [noted_resume (refreshSub_noted _), noted_resume (forceCutoff_noted _), noted_resume (setHolds_noted ..)]
  exact setMode_resume s .cutoff .tierCutoff

/-- HANDOVER entry before the PENDING entries are evaluated. -/
def State.handoverEntry (s : State) : State := ((s.setMode .handover .ignitionOff).setHolds false true true).startHandover

theorem enterHandover_eq (s : State) : s.enterHandover =
    if (s.handoverEntry.evaluateWhere SchedEntry.pending).btm.tier = .cutoff
    then (s.handoverEntry.evaluateWhere SchedEntry.pending).enterCutoff else s.handoverEntry.evaluateWhere SchedEntry.pending := by
  rw [State.enterHandover, State.handoverEntry]

theorem startHandover_noted (s : State) : s.startHandover.noted = s.noted := rfl

theorem startHandover_latches (s : State) : SameLatches s.startHandover s := .refl s

theorem startHandover_frame {s t : State} (h : t.frame = s.frame) : t.startHandover.frame = s.startHandover.frame :=
  mdc_frame h (fun m => { m with handoverTimer := if m.parkedFlag then some (m.handoverTimeout * 1000) else none }) (fun _ _ => rfl)

theorem setHolds_latches (s : State) (a b c : Bool) : SameLatches (s.setHolds a b c) s := demandChanged_latches _

theorem setMode_latches (s : State) (m : Mode) (c : ModeCause) : SameLatches (s.setMode m c) s := 
  record_latches { s with mdc.mode := m } .modeChanged m.code c.code none

theorem setMode_ssc (s : State) (m : Mode) (c : ModeCause) : (s.setMode m c).ssc = s.ssc := record_ssc { s with mdc.mode := m } ..

theorem handoverEntry_frame (s : State) : s.handoverEntry.frame = { s with mdc := s.mdc.handoverNow }.frame := by
  have hholds := (setHolds_frame (s.setMode .handover .ignitionOff) false true true).trans
    (mdc_frame (setMode_frame s .handover .ignitionOff)
      (fun m => { m with driveHold := false, handoverHold := true, alwaysHold := true }) (fun _ _ => rfl))
  rw [State.handoverEntry, startHandover_frame hholds]
  rfl

theorem handoverEntry_resume (s : State) : s.handoverEntry.work.resume = s.work.resume := by
  rw [State.handoverEntry, noted_resume (startHandover_noted _), noted_resume (setHolds_noted ..), setMode_resume]

theorem handoverEntry_ssc (s : State) : s.handoverEntry.ssc = s.ssc := by
  rw [State.handoverEntry, startHandover_ssc, setHolds_ssc, setMode_ssc]

theorem handoverEntry_latches (s : State) : SameLatches s.handoverEntry s := by
  rw [State.handoverEntry]
  exact (startHandover_latches _).trans ((setHolds_latches _ false true true).trans (setMode_latches s .handover .ignitionOff))

theorem Holds.handoverEntry {s : State} {es : List Event} (h : Holds es s) (hlen : es.length < 24) :
    Holds (es ++ [s.recordOf .modeChanged 1 1 none]) s.handoverEntry := by
  rw [State.handoverEntry]
  exact ((h.setMode hlen .handover .ignitionOff).noted (setHolds_noted ..)).noted (startHandover_noted _)

theorem Keeps.enterHandover {s : State} {es : List Event} (h : Keeps es s.handoverEntry) : Keeps es s.enterHandover := by
  have k := Closed.records es
  rw [enterHandover_eq]
  generalize s.handoverEntry = v at *
  split
  · exact k.enterCutoff (k.evaluateWhere _ h)
  · exact k.evaluateWhere _ h

/-! ### A debounced fall of IGN -/

theorem ignSettles_fall {s : State} (hpin : s.mdc.ign.pin = false) (hd : s.mdc.ign.debounced = true) (hm : s.mdc.mode = .drive) :
    s.ignSettles = s.ignTaken.enterHandover := by
  have hlevel : s.mdc.ign.settled.debounced ≠ s.mdc.ign.debounced := by
    rw [show s.mdc.ign.settled.debounced = s.mdc.ign.pin from rfl, hpin, hd]
    decide
  have hchange : s.ignSettles = s.ignTaken.ignChanged s.mdc.ign.settled.debounced := if_neg hlevel
  rw [hchange, show s.mdc.ign.settled.debounced = s.mdc.ign.pin from rfl, hpin]
  exact if_pos hm

/-- MDC after a debounced fall of IGN in DRIVE, by whether the device stays in HANDOVER (R6, R11). -/
def Mdc.ignitionOff (m : Mdc) (stays : Prop) [Decidable stays] : Mdc :=
  { m with
    ign := { pin := false, debounced := false, interval := none }, mode := if stays then .handover else .cutoff,
    driveHold := false, handoverHold := decide stays, alwaysHold := decide stays,
    handoverTimer := if stays ∧ m.parkedFlag = true then some (m.handoverTimeout * 1000) else none }

theorem handover_ignitionOff {s : State} {stays : Prop} [Decidable stays] (h : stays) (hpin : s.mdc.ign.pin = false) :
    s.ignTaken.mdc.handoverNow = s.mdc.ignitionOff stays := by
  have hign : s.ignTaken.mdc.ign = { pin := false, debounced := false, interval := none } := by
    show s.mdc.ign.settled = _
    rw [Input.settled, hpin]
  unfold Mdc.handoverNow Mdc.ignitionOff
  simp only [hign, h, if_true, decide_true, true_and]
  rfl

theorem cutoff_ignitionOff {s : State} {stays : Prop} [Decidable stays] (h : ¬ stays) (hpin : s.mdc.ign.pin = false) :
    s.ignTaken.mdc.handoverNow.cutoffNow = s.mdc.ignitionOff stays := by
  have hign : s.ignTaken.mdc.ign = { pin := false, debounced := false, interval := none } := by
    show s.mdc.ign.settled = _
    rw [Input.settled, hpin]
  unfold Mdc.handoverNow Mdc.cutoffNow Mdc.ignitionOff
  simp only [hign, h, if_false, decide_false, false_and]
  rfl

theorem enterHandover_stays {s : State} (h : s.btm.tier ≠ .cutoff) : s.enterHandover = s.handoverEntry.evaluateWhere SchedEntry.pending := by
  have htier : (s.handoverEntry.evaluateWhere SchedEntry.pending).btm.tier ≠ .cutoff := by
    rw [base_btm (evaluateWhere_base ..), base_btm (frame_base (handoverEntry_frame s))]
    exact h
  rw [enterHandover_eq, if_neg htier]

theorem enterHandover_cutoff {s : State} (h : s.btm.tier = .cutoff) :
    s.enterHandover = (s.handoverEntry.evaluateWhere SchedEntry.pending).enterCutoff := by
  have htier : (s.handoverEntry.evaluateWhere SchedEntry.pending).btm.tier = .cutoff := by
    rw [base_btm (evaluateWhere_base ..), base_btm (frame_base (handoverEntry_frame s))]
    exact h
  rw [enterHandover_eq, if_pos htier]

/-- With no entry PENDING the entry leaves the frame as MDC leaves it. -/
theorem enterHandover_finish_frame {s : State} (hw : s.work.resume = none) (hpin : s.mdc.ign.pin = false)
    (hnone : ∀ e ∈ s.wsc.sched, e.pending = false) :
    s.ignTaken.enterHandover.finish.frame = { s with mdc := s.mdc.ignitionOff (s.btm.tier ≠ Tier.cutoff) }.frame := by
  have hentry := handoverEntry_frame s.ignTaken
  have hresume : s.ignTaken.handoverEntry.work.resume = none := (handoverEntry_resume _).trans hw
  have hwsc := frame_wsc hentry
  have hquiet : s.ignTaken.handoverEntry.evaluateWhere SchedEntry.pending = s.ignTaken.handoverEntry := evaluateWhere_none (by
    rw [hwsc]
    exact hnone)
  by_cases htier : s.btm.tier = .cutoff
  · rw [enterHandover_cutoff (s := s.ignTaken) htier, hquiet]
    have hcutoff := (enterCutoff_frame s.ignTaken.handoverEntry).trans (mdc_frame hentry Mdc.cutoffNow (fun _ _ => rfl))
    have hmdc : s.ignTaken.mdc.handoverNow.cutoffNow = s.mdc.ignitionOff (s.btm.tier ≠ Tier.cutoff) := cutoff_ignitionOff (by simpa using htier) hpin
    have hresumeAt := (enterCutoff_resume s.ignTaken.handoverEntry).trans hresume
    rw [← hmdc]
    generalize s.ignTaken.handoverEntry.enterCutoff = v at *
    exact (finish_frame hresumeAt).trans hcutoff
  · rw [enterHandover_stays (s := s.ignTaken) htier, hquiet]
    have hmdc : s.ignTaken.mdc.handoverNow = s.mdc.ignitionOff (s.btm.tier ≠ Tier.cutoff) := handover_ignitionOff htier hpin
    rw [← hmdc]
    generalize s.ignTaken.handoverEntry = v at *
    exact (finish_frame hresume).trans hentry

theorem enterHandover_mdc (s : State) (hpin : s.mdc.ign.pin = false) :
    s.ignTaken.enterHandover.base = State.base { s with mdc := s.mdc.ignitionOff (s.btm.tier ≠ Tier.cutoff) } := by
  rw [enterHandover_base]
  by_cases htier : s.btm.tier = .cutoff
  · have hmdc : s.ignTaken.mdc.handoverNow.cutoffNow = s.mdc.ignitionOff (s.btm.tier ≠ Tier.cutoff) := cutoff_ignitionOff (by simpa using htier) hpin
    rw [if_pos (show s.ignTaken.btm.tier = .cutoff from htier), ← hmdc]
    rfl
  · have hmdc : s.ignTaken.mdc.handoverNow = s.mdc.ignitionOff (s.btm.tier ≠ Tier.cutoff) := handover_ignitionOff htier hpin
    rw [if_neg (show s.ignTaken.btm.tier ≠ .cutoff from htier), ← hmdc]
    rfl

/-- A PENDING entry whose due time lies ahead again waits (R161). -/
theorem evaluate_ahead {s : State} {e : SchedEntry} (hm : s.mdc.mode ≠ .drive) (he : s.entry? e.id = some e) (hd : s.wsc.seconds < e.due) :
    s.evaluate e.id = s.setPending e.id false := by
  unfold State.evaluate
  rw [he]
  dsimp only
  rw [if_neg hm, if_pos hd]

theorem lapse_parked (s : State) (n : Nat) : (s.lapse n).mdc.parkedFlag = s.mdc.parkedFlag ∧
    (s.lapse n).mdc.handoverTimeout = s.mdc.handoverTimeout := by
  unfold State.lapse
  (repeat' split) <;> exact ⟨rfl, rfl⟩

/-- Settles O28: the decision at HANDOVER entry stands poised as the entry leaves the frame. -/
theorem ignitionOffEntersHandover : Obligations.IgnitionOffEntersHandover := by
  intro s n h hn hpin hdebounced hmode w stays u changed
  obtain ⟨-, hpinAt, hdebouncedAt⟩ := lapse_inputs h.awake n
  obtain ⟨hadm, hbtm, hreserve, hrem⟩ := lapse_tables s n
  have hexec : exec .ignDebounceEnd s = .next w.ignSettles.finish := timed_of_some h.awake hn State.ignSettles
  rw [ignSettles_fall (s := w) (hpinAt.trans hpin) (hdebouncedAt.trans hdebounced) ((lapse_mode h.awake n).trans hmode)] at hexec
  obtain ⟨hparked, htimeout⟩ := lapse_parked s n
  have hu : u = { w with mdc := w.mdc.ignitionOff (s.btm.tier ≠ Tier.cutoff) } := by
    have htimer : (if s.btm.tier ≠ Tier.cutoff ∧ w.mdc.parkedFlag = true then some (w.mdc.handoverTimeout * 1000) else none) =
        if s.btm.tier ≠ Tier.cutoff ∧ s.mdc.parkedFlag = true then some (s.mdc.handoverTimeout * 1000) else none := by
      rw [hparked, htimeout]
    unfold Mdc.ignitionOff
    rw [htimer]
  have hbase := (finish_base w.ignTaken.enterHandover).trans (enterHandover_mdc w (hpinAt.trans hpin))
  have hframe := enterHandover_finish_frame (s := w) (h.lapse_resume n) (hpinAt.trans hpin)
  have hentry := handoverEntry_frame w.ignTaken
  have hssc := handoverEntry_ssc w.ignTaken
  have hlatches := handoverEntry_latches w.ignTaken
  have hresume : w.ignTaken.handoverEntry.work.resume = none := (handoverEntry_resume _).trans (h.lapse_resume n)
  have hsched : w.wsc.sched = s.wsc.sched := lapse_sched s n
  have hseconds : w.wsc.seconds = s.wsc.seconds := lapse_seconds s n
  obtain ⟨hevents, hpolicy, -⟩ := lapse_evq s n
  have hholds : s.roomFor 1 → Holds (s.evq.events ++ [changed]) w.ignTaken.handoverEntry := fun hroom =>
    ((lapse_holds n (Holds.start hroom)).same (t := w.ignTaken) rfl rfl).handoverEntry hroom.2
  have hstays : stays → w.ignTaken.enterHandover = w.ignTaken.handoverEntry.evaluateWhere SchedEntry.pending := fun hst =>
    enterHandover_stays (s := w.ignTaken) (by rw [show w.ignTaken.btm = s.btm from hbtm]; exact hst)
  have hnow : stays → w.ignTaken.mdc.handoverNow = w.mdc.ignitionOff (s.btm.tier ≠ Tier.cutoff) := fun hst =>
    handover_ignitionOff hst (hpinAt.trans hpin)
  rw [show w.btm.tier = s.btm.tier from congrArg Btm.tier hbtm, ← hu] at hbase hframe
  refine ⟨_, hexec, base_mdc hbase, (base_reserve hbase).trans ?_, (base_reserveRem hbase).trans ?_, (base_btm hbase).trans ?_,
    (base_adm hbase).trans ?_, fun hroom => Keeps.finish_recorded (s := s) (hholds hroom).keeps.enterHandover, fun hnone => hframe ?_,
    fun e he hsound hst hpend honly => ?one⟩
  case one =>
    have hframeU : w.ignTaken.handoverEntry.frame = u.frame := by
      rw [hu, ← hnow hst]
      exact hentry
    have hposed : Poised w.ignTaken.handoverEntry u [changed] :=
      ⟨hframeU, by rw [hssc, hu]; rfl, fun d => by rw [hlatches d, hu]; exact Iff.rfl, hresume, fun hroom => by
        have hroomS : s.roomFor 1 := by
          rw [hu] at hroom
          exact ⟨hpolicy ▸ hroom.1, by have := hroom.2; rwa [← hevents]⟩
        rw [show u.evq.events = s.evq.events from by rw [hu]; exact hevents]
        exact hholds hroomS⟩
    have hsoundX : ScheduleSound w.ignTaken.handoverEntry := hsound.of_sched ((congrArg Wsc.sched (frame_wsc hframeU)).trans (by
      rw [hu]
      exact hsched))
    have hmem : e ∈ w.ignTaken.handoverEntry.wsc.sched := by
      rw [frame_wsc hframeU, hu]
      exact hsched ▸ he
    have hone : w.ignTaken.handoverEntry.evaluateWhere SchedEntry.pending = w.ignTaken.handoverEntry.evaluate e.id :=
      evaluateWhere_one hsoundX hmem hpend fun x hx hp => honly x (by
        rw [frame_wsc hframeU, hu] at hx
        exact hsched ▸ hx) hp
    have hentryOf : u.entry? e.id = some e := (hposed.entry e.id).symm.trans (entry_of_mem hsoundX hmem)
    have hmodeU : u.mdc.mode = .handover := if_pos hst
    have hsecondsU : u.wsc.seconds = s.wsc.seconds := by rw [hu]; exact hseconds
    rw [hstays hst, hone]
    refine ⟨fun hdue => evaluate_evaluated hposed (by rw [hmodeU]; decide) hentryOf (by rw [hsecondsU]; exact hdue), fun hahead => ?_⟩
    have hwaits := evaluate_ahead (s := w.ignTaken.handoverEntry) (by rw [base_mode (frame_base hframeU), hmodeU]; decide)
      (entry_of_mem hsoundX hmem) (by rw [frame_seconds hframeU, hsecondsU]; exact hahead)
    have hsame : w.ignTaken.handoverEntry.wsc.sched = s.wsc.sched := by
      rw [frame_wsc hframeU, hu]
      exact hsched
    have hset := sched_frame hframeU (s.wsc.sched.map (fun x : SchedEntry => if x.id = e.id then { x with pending := false } else x))
    rw [hwaits, setPending_eq, hsame]
    simp only [beq_iff_eq]
    generalize s.wsc.sched.map (fun x : SchedEntry => if x.id = e.id then { x with pending := false } else x) = waiting at *
    clear_value w
    generalize w.ignTaken.handoverEntry = y at *
    have hresumeY : ({ y with wsc.sched := waiting } : State).work.resume = none := hresume
    generalize ({ y with wsc.sched := waiting } : State) = v at *
    exact (finish_frame hresumeY).trans hset
  · rw [hu]; exact hreserve
  · rw [hu]; exact hrem
  · rw [hu]; exact hbtm
  · rw [hu]; exact hadm
  · rw [hsched]
    exact hnone

end Sys2Proof.Machine
end

section
/-! PARK (R9): the reserve set, every mute ended in line order, the entry into PARKED with its waiting lines, and the entries past due.
Settles O31. -/

namespace Sys2Proof.Machine

/-! ### Every mute ends (R63) -/

/-- The line with its mute ended, if it has one (R63). -/
def Line.unmutedIfMuted (x : Line) : Line := if x.mute.isSome then x.unmuted else x

/-- One line's part of the end of every mute at PARK. -/
def State.unmutedAt (s : State) (l : LineId) : State := if (s.line l).mute.isSome then s.endMute l .park else s

/-- The state with a line function carried out on every line. -/
def State.mapLines (s : State) (f : Line → Line) : State := { s with wlu.lines := s.wlu.lines.map f }

section
variable {s t : State} {l k : LineId}

theorem unmutedAt_muted (h : (s.line l).mute.isSome = true) : s.unmutedAt l = s.endMute l .park := if_pos h

theorem unmutedAt_plain (h : ¬ (s.line l).mute.isSome = true) : s.unmutedAt l = s := if_neg h

theorem updLine_self (s : State) (l : LineId) : s.updLine l (fun x => x) = s := by
  have hlines : s.wlu.lines.set l.val (s.line l) = s.wlu.lines := Vector.set_getElem_self ..
  unfold State.updLine
  rw [hlines]

theorem unmutedAt_frame (s : State) (l : LineId) : (s.unmutedAt l).frame = (s.updLine l Line.unmutedIfMuted).frame := by
  by_cases h : (s.line l).mute.isSome = true
  · have hf : (s.line l).unmutedIfMuted = (s.line l).unmuted := if_pos h
    rw [unmutedAt_muted h, endMute_frame, updLine_congr hf.symm]
  · have hf : (s.line l).unmutedIfMuted = s.line l := if_neg h
    rw [unmutedAt_plain h, updLine_congr (f := Line.unmutedIfMuted) (g := fun x => x) hf, updLine_self]

theorem unmutedAt_line_ne (s : State) (h : k ≠ l) : (s.unmutedAt l).line k = s.line k :=
  (frame_line (unmutedAt_frame s l) k).trans (line_updLine_ne s l k _ h)

theorem unmutedAt_resume (s : State) (l : LineId) : (s.unmutedAt l).work.resume = s.work.resume := by
  unfold State.unmutedAt
  split
  · exact endMute_resume s l .park
  · rfl

theorem unmutedAt_ssc (s : State) (l : LineId) : (s.unmutedAt l).ssc = s.ssc := by
  unfold State.unmutedAt
  split
  · exact record_ssc s .lineUnmuted l.val UnmuteCause.park.code (some (s.line l).mutedTriggers)
  · rfl

theorem unmutedAt_latches (s : State) (l : LineId) : SameLatches (s.unmutedAt l) s := by
  unfold State.unmutedAt
  split
  · exact record_latches s .lineUnmuted l.val UnmuteCause.park.code (some (s.line l).mutedTriggers)
  · exact .refl s

theorem unmutedAt_frame_congr (h : t.frame = s.frame) (l : LineId) : (t.unmutedAt l).frame = (s.updLine l Line.unmutedIfMuted).frame :=
  (unmutedAt_frame t l).trans (updLine_frame h l _)

theorem unmutedAt_fold_frame (ls : List LineId) (h : t.frame = s.frame) :
    (ls.foldl State.unmutedAt t).frame = (ls.foldl (fun u l => u.updLine l Line.unmutedIfMuted) s).frame := by
  induction ls generalizing s t with
  | nil => exact h
  | cons l ls ih => exact ih (unmutedAt_frame_congr h l)

theorem updLines_line (f : Line → Line) (ls : List LineId) (hnodup : ls.Nodup) (s : State) (k : LineId) :
    (ls.foldl (fun u l => u.updLine l f) s).line k = if k ∈ ls then f (s.line k) else s.line k := by
  induction ls generalizing s with
  | nil => rfl
  | cons l ls ih =>
    obtain ⟨hl, hls⟩ := List.nodup_cons.1 hnodup
    rw [List.foldl_cons, ih hls (s.updLine l f)]
    by_cases hk : k = l
    · subst hk
      rw [if_neg hl, if_pos List.mem_cons_self, line_updLine_self]
    · rw [line_updLine_ne s l k f hk]
      simp [hk]

theorem updLines_rest (f : Line → Line) (ls : List LineId) (s : State) :
    ls.foldl (fun u l => u.updLine l f) s = { s with wlu := (ls.foldl (fun u l => u.updLine l f) s).wlu } := by
  induction ls generalizing s with
  | nil => rfl
  | cons l ls ih =>
    rw [List.foldl_cons]
    exact ih (s.updLine l f)

/-- A line function carried out on each line in turn is carried out on all. -/
theorem updLines_all (f : Line → Line) (s : State) : lineIds.foldl (fun u l => u.updLine l f) s = s.mapLines f := by
  have hline := updLines_line f lineIds nodup_lineIds s
  have hrest := updLines_rest f lineIds s
  generalize lineIds.foldl (fun u l => u.updLine l f) s = t at hline hrest
  have hlines : t.wlu.lines = s.wlu.lines.map f := by
    ext1 i hi
    have hat := hline ⟨i, hi⟩
    rw [if_pos (mem_lineIds _)] at hat
    rw [Vector.getElem_map]
    exact hat
  rw [hrest, State.mapLines, ← hlines]

/-- The end of every mute, in line order. -/
def State.endMutes (s : State) : State := lineIds.foldl State.unmutedAt s

theorem endMutes_frame (s : State) : s.endMutes.frame = (s.mapLines Line.unmutedIfMuted).frame :=
  (unmutedAt_fold_frame lineIds rfl).trans (congrArg State.frame (updLines_all _ s))

theorem unmutedAt_fold_latches (ls : List LineId) (s : State) : SameLatches (ls.foldl State.unmutedAt s) s := by
  induction ls generalizing s with
  | nil => exact .refl s
  | cons l ls ih =>
    rw [List.foldl_cons]
    exact (ih (s.unmutedAt l)).trans (unmutedAt_latches s l)

theorem endMutes_resume (s : State) : s.endMutes.work.resume = s.work.resume := by
  unfold State.endMutes
  exact foldl_keeps (fun t => t.work.resume) State.unmutedAt unmutedAt_resume _ s

theorem endMutes_ssc (s : State) : s.endMutes.ssc = s.ssc := by
  unfold State.endMutes
  exact foldl_keeps State.ssc State.unmutedAt unmutedAt_ssc _ s

theorem endMutes_latches (s : State) : SameLatches s.endMutes s := by
  unfold State.endMutes
  exact unmutedAt_fold_latches _ s

/-- LINE_UNMUTED of the end of this line's mute at PARK. -/
def State.unmuteRecord (s : State) (k : LineId) : Event := s.recordOf .lineUnmuted k.val 2 (some (s.line k).mutedTriggers)

/-- The records of the mutes' ends, in line order. -/
def State.unmuteRecords (s : State) (ls : List LineId) : List Event :=
  (ls.filter (fun k => (s.line k).mute.isSome)).map s.unmuteRecord

theorem unmutedAt_holds {es : List Event} (ls : List LineId) (hnodup : ls.Nodup) (hline : ∀ k ∈ ls, t.line k = s.line k)
    (hseconds : t.wsc.seconds = s.wsc.seconds) (h : Holds es t) (hroom : es.length + (s.unmuteRecords ls).length ≤ 24) :
    Holds (es ++ s.unmuteRecords ls) (ls.foldl State.unmutedAt t) := by
  induction ls generalizing es t with
  | nil => simpa [State.unmuteRecords] using h
  | cons l ls ih =>
    obtain ⟨hl, hls⟩ := List.nodup_cons.1 hnodup
    have hat : t.line l = s.line l := hline l List.mem_cons_self
    have hafter : ∀ k ∈ ls, (t.unmutedAt l).line k = s.line k := fun k hk =>
      (unmutedAt_line_ne t (ne_of_mem_of_not_mem hk hl)).trans (hline k (List.mem_cons_of_mem _ hk))
    have hstamp : (t.unmutedAt l).wsc.seconds = s.wsc.seconds := (frame_seconds (unmutedAt_frame t l)).trans hseconds
    rw [List.foldl_cons]
    by_cases hm : (s.line l).mute.isSome = true
    · have hsplit : s.unmuteRecords (l :: ls) = s.unmuteRecord l :: s.unmuteRecords ls := by
        rw [State.unmuteRecords, List.filter_cons_of_pos (p := fun k => (s.line k).mute.isSome) hm]
        rfl
      rw [hsplit, List.length_cons] at hroom
      have hrecord : Holds (es ++ [s.unmuteRecord l]) (t.unmutedAt l) := by
        have hended := h.endMute (by omega) l .park
        rw [recordOf_congr hseconds, hat] at hended
        rw [unmutedAt_muted (by rw [hat]; exact hm)]
        exact hended
      have hrest := ih hls hafter hstamp hrecord (by rw [List.length_append, List.length_singleton]; omega)
      rwa [List.append_assoc, List.singleton_append, ← hsplit] at hrest
    · have hsplit : s.unmuteRecords (l :: ls) = s.unmuteRecords ls := by
        rw [State.unmuteRecords, List.filter_cons_of_neg (p := fun k => (s.line k).mute.isSome) hm]
        rfl
      rw [hsplit] at hroom ⊢
      exact ih hls hafter hstamp (by rwa [unmutedAt_plain (by rw [hat]; exact hm)]) hroom

theorem Holds.endMutes {es : List Event} (h : Holds es s) (hroom : es.length + (s.unmuteRecords lineIds).length ≤ 24) :
    Holds (es ++ s.unmuteRecords lineIds) s.endMutes :=
  unmutedAt_holds lineIds nodup_lineIds (fun _ _ => rfl) rfl h hroom

end

/-! ### What PARK sets, and the entry -/

/-- The reserve as PARK sets it. -/
def State.reserveSet (s : State) (mAh : Nat) : State := { s with chm.reserve := mAh * 3600, chm.reserveRem := 0 }

/-- The parked-since-power-on flag set (R9). -/
def State.parkFlagged (s : State) : State := { s with mdc.parkedFlag := true }

theorem parkSettings_eq (s : State) (mAh : Nat) : s.parkSettings mAh = (s.reserveSet mAh).endMutes.parkFlagged := by
  have hmutes : lineIds.foldl (fun s l => if (s.line l).mute.isSome then s.endMute l .park else s)
      { s with chm.reserve := mAh * 3600, chm.reserveRem := 0 } = (s.reserveSet mAh).endMutes := by
    unfold State.endMutes State.unmutedAt
    rw [State.reserveSet]
  unfold State.parkSettings
  dsimp only
  rw [hmutes]
  generalize (s.reserveSet mAh).endMutes = v
  rw [State.parkFlagged]

/-- PARK up to the waiting lines: the settings, and PARKED entered from HANDOVER (R9). -/
def State.parks (s : State) (mAh : Nat) : State :=
  if s.mdc.mode = .handover then (s.parkSettings mAh).parkedEntry .parkRequest else (s.parkSettings mAh).refreshSub

/-- The whole of PARK's event. -/
def State.parkWork (s : State) (mAh : Nat) : State := (s.parks mAh).triggerPending.evaluatePastDue

/-- MDC after PARK. -/
def Mdc.parkTaken (m : Mdc) : Mdc :=
  { m with
    mode := .parked, parkedFlag := true, handoverTimer := if m.mode = .handover then none else m.handoverTimer,
    driveHold := if m.mode = .handover then false else m.driveHold, handoverHold := if m.mode = .handover then false else m.handoverHold,
    alwaysHold := if m.mode = .handover then true else m.alwaysHold }

/-- What PARK leaves before a line or an entry acts. -/
def State.parkFrame (s : State) (mAh : Nat) : State :=
  { (s.reserveSet mAh).mapLines Line.unmutedIfMuted with mdc := s.mdc.parkTaken }

section
variable {s : State} {n : Nat}

theorem parkSettings_mode (s : State) (n : Nat) : (s.parkSettings n).mdc.mode = s.mdc.mode := by
  have hbase := base_mode (parkSettings_base s n)
  exact hbase

theorem reqPark_refused {h l : Byte} (hm : s.mdc.mode = .drive ∨ s.mdc.mode = .cutoff) : reqPark s [h, l] = refusal s .wrongMode := by
  unfold reqPark
  exact if_pos (by simpa using hm)

theorem reqPark_taken {h l : Byte} (hm : s.mdc.mode = .handover ∨ s.mdc.mode = .parked) :
    reqPark s [h, l] = okay (s.parkWork (nat16 h l)).finish := by
  have hfree : ¬ (s.mdc.mode = .drive || s.mdc.mode = .cutoff) = true := by
    rcases hm with hm | hm <;> simp [hm]
  have hwork : (if (s.parkSettings (nat16 h l)).mdc.mode = .handover then (s.parkSettings (nat16 h l)).enterParked .parkRequest
      else (s.parkSettings (nat16 h l)).refreshSub.triggerPending) = (s.parks (nat16 h l)).triggerPending := by
    rw [parkSettings_mode, State.parks]
    split <;> rfl
  unfold reqPark
  dsimp only
  rw [if_neg hfree, hwork]
  rfl

theorem parkSettings_frame (s : State) (n : Nat) : (s.parkSettings n).frame =
    { (s.reserveSet n).mapLines Line.unmutedIfMuted with mdc := { s.mdc with parkedFlag := true } }.frame := by
  rw [parkSettings_eq]
  unfold State.parkFlagged
  exact mdc_frame (endMutes_frame (s.reserveSet n)) (fun m => { m with parkedFlag := true }) (fun _ _ => rfl)

theorem parks_frame (hm : s.mdc.mode = .handover ∨ s.mdc.mode = .parked) : (s.parks n).frame = (s.parkFrame n).frame := by
  have hset := parkSettings_frame s n
  unfold State.parks State.parkFrame
  rcases hm with hm | hm
  · have hmdc : ({ s.mdc with parkedFlag := true } : Mdc).parkedNow = s.mdc.parkTaken := by
      simp [Mdc.parkedNow, Mdc.parkTaken, hm]
    rw [if_pos hm, ← hmdc]
    exact (parkedEntry_frame ..).trans (mdc_frame hset Mdc.parkedNow (fun _ _ => rfl))
  · have hmdc : ({ s.mdc with parkedFlag := true } : Mdc) = s.mdc.parkTaken := by
      simp [Mdc.parkTaken, hm]
    rw [if_neg (by rw [hm]; decide), ← hmdc]
    exact (refreshSub_frame _).trans hset

theorem parkSettings_resume (s : State) (n : Nat) : (s.parkSettings n).work.resume = s.work.resume := by
  have hended := endMutes_resume (s.reserveSet n)
  rw [parkSettings_eq]
  generalize (s.reserveSet n).endMutes = v at hended
  exact hended

theorem parkSettings_ssc (s : State) (n : Nat) : (s.parkSettings n).ssc = s.ssc := by
  have hended := endMutes_ssc (s.reserveSet n)
  rw [parkSettings_eq]
  generalize (s.reserveSet n).endMutes = v at hended
  exact hended

theorem parkSettings_latches (s : State) (n : Nat) : SameLatches (s.parkSettings n) s := by
  have hended := endMutes_latches (s.reserveSet n)
  rw [parkSettings_eq]
  generalize (s.reserveSet n).endMutes = v at hended
  exact hended

theorem parkedEntry_latches (s : State) (c : ModeCause) : SameLatches (s.parkedEntry c) s :=
  (refreshSub_latches _).trans ((setHolds_latches _ false false true).trans (setMode_latches s .parked c))

theorem parkedEntry_ssc (s : State) (c : ModeCause) : (s.parkedEntry c).ssc = s.ssc := by
  unfold State.parkedEntry State.setHolds
  rw [refreshSub_ssc, demandChanged_ssc]
  exact setMode_ssc s .parked c

theorem parks_resume (s : State) (n : Nat) : (s.parks n).work.resume = s.work.resume := by
  unfold State.parks
  split
  · exact (parkedEntry_resume ..).trans (parkSettings_resume s n)
  · exact (noted_resume (refreshSub_noted _)).trans (parkSettings_resume s n)

theorem parks_ssc (s : State) (n : Nat) : (s.parks n).ssc = s.ssc := by
  unfold State.parks
  split
  · exact (parkedEntry_ssc ..).trans (parkSettings_ssc s n)
  · exact (refreshSub_ssc _).trans (parkSettings_ssc s n)

theorem parks_latches (s : State) (n : Nat) : SameLatches (s.parks n) s := by
  unfold State.parks
  split
  · exact (parkedEntry_latches (s.parkSettings n) .parkRequest).trans (parkSettings_latches s n)
  · exact (refreshSub_latches _).trans (parkSettings_latches s n)

/-- The records of PARK before a line or an entry acts. -/
def State.parkRecords (s : State) : List Event :=
  s.unmuteRecords lineIds ++ if s.mdc.mode = .handover then [s.recordOf .modeChanged 2 3 none] else []

theorem parks_holds {es : List Event} (h : Holds es s) (hroom : es.length + s.parkRecords.length ≤ 24) :
    Holds (es ++ s.parkRecords) (s.parks n) := by
  have hset : es.length + (s.unmuteRecords lineIds).length ≤ 24 → Holds (es ++ s.unmuteRecords lineIds) (s.parkSettings n) := fun hr => by
    have hended := Holds.endMutes (s := s.reserveSet n) (h.same rfl rfl) hr
    rw [parkSettings_eq]
    generalize (s.reserveSet n).endMutes = v at hended
    exact hended.same rfl rfl
  unfold State.parks State.parkRecords at *
  by_cases hm : s.mdc.mode = .handover
  · rw [if_pos hm, List.length_append, List.length_singleton] at hroom
    have hentry := (hset (by omega)).parkedEntry (by rw [List.length_append]; omega) .parkRequest
    rw [recordOf_congr (frame_seconds (parkSettings_frame s n)), List.append_assoc] at hentry
    rw [if_pos hm, if_pos hm]
    exact hentry
  · rw [if_neg hm, List.append_nil] at hroom
    rw [if_neg hm, if_neg hm, List.append_nil]
    exact (hset hroom).refreshSub

end

/-! ### What a line keeps -/

/-- A line's mute, window and counters. -/
def Line.tally (x : Line) : Option Nat × Option Nat × Nat × Nat := (x.mute, x.window, x.nuisance, x.mutedTriggers)

section
variable {s : State}

theorem acted_tally (s : State) (l k : LineId) : ((s.acted l).line k).tally = (s.line k).tally := by
  unfold State.acted
  split
  · rw [line_updLine]
    split
    · next h => rw [h]; rfl
    · rfl
  · rfl

/-- With no line muted a trigger leaves every mute, window and counter. -/
theorem trigger_tally {l : LineId} (h : (s.line l).mute = none) (e : Edge) (k : LineId) : ((s.trigger l e).line k).tally = (s.line k).tally := by
  by_cases hi : triggerIgnored s.mdc.mode (s.line l).entry
  · rw [trigger_of_ignored hi]
  · rw [trigger_of_unmuted hi h, roleTrigger_line]
    exact acted_tally s l k

theorem triggerPending_tally (h : ∀ k, (s.line k).mute = none) (k : LineId) : (s.triggerPending.line k).tally = (s.line k).tally := by
  have hall : ∀ j, (s.triggerPending.line j).tally = (s.line j).tally := by
    rw [triggerPending_eq]
    refine foldl_closed (P := fun t => ∀ j, (t.line j).tally = (s.line j).tally) State.triggerWaiting (fun t l ht j => ?_) lineIds (fun _ => rfl)
    have hmute : (t.line l).mute = none := (congrArg Prod.fst (ht l)).trans (h l)
    unfold State.triggerWaiting
    split
    · exact (trigger_tally hmute .level j).trans (ht j)
    · exact ht j
  exact hall k

theorem advance_wlu (s : State) (e : SchedEntry) (due : Nat) : (s.advance e due).wlu = s.wlu := by
  rw [advance_eq]

theorem recordMissed_wlu (s : State) (e : SchedEntry) (n : Nat) : (s.recordMissed e n).wlu = s.wlu := deep_wlu (recordMissed_deep s e n)

theorem evaluate_wlu (s : State) (id : Nat) : (s.evaluate id).wlu = s.wlu := by
  unfold State.evaluate
  split
  · rfl
  · split
    · unfold State.evaluateInDrive
      dsimp only
      split
      · rw [advance_wlu, deep_wlu (record_deep ..), recordMissed_wlu]
      · rfl
    · split
      · rfl
      · unfold State.evaluateLate
        dsimp only
        rw [advance_wlu]
        split
        · rw [deep_wlu (decideRequest_deep ..), recordMissed_wlu]
        · rw [recordMissed_wlu]

theorem evaluateWhere_wlu (s : State) (p : SchedEntry → Bool) : (s.evaluateWhere p).wlu = s.wlu :=
  foldl_keeps State.wlu (fun t (e : SchedEntry) => t.evaluate e.id) (fun t e => evaluate_wlu t e.id) _ s

end

/-! ### The event as a whole -/

theorem parkFrame_taken (s : State) (n : Nat) : (s.taken.parkFrame n).frame = (s.parkFrame n).frame := rfl

theorem parkFrame_line (s : State) (n : Nat) (k : LineId) : (s.parkFrame n).line k = (s.line k).unmutedIfMuted :=
  Vector.getElem_map ..

theorem unmutedIfMuted_fields (x : Line) : x.unmutedIfMuted.entry = x.entry ∧ x.unmutedIfMuted.act = x.act ∧ x.unmutedIfMuted.mute = none := by
  unfold Line.unmutedIfMuted
  split
  · exact ⟨rfl, rfl, rfl⟩
  · next h => exact ⟨rfl, rfl, by simpa using h⟩

theorem parkRecords_taken (s : State) : s.taken.parkRecords = s.parkRecords := by
  have hrecords : ∀ ls, s.taken.unmuteRecords ls = s.unmuteRecords ls := fun ls => rfl
  unfold State.parkRecords
  rw [hrecords]
  rfl

section
variable {s : State} {n : Nat}

theorem parks_taken_frame (hm : s.mdc.mode = .handover ∨ s.mdc.mode = .parked) : (s.taken.parks n).frame = (s.parkFrame n).frame := by
  have hframe := parks_frame (s := s.taken) (n := n) hm
  rwa [parkFrame_taken] at hframe

/-- PARK's own changes leave the evaluation of an entry poised. -/
theorem parks_poised (h : Listening s) (hm : s.mdc.mode = .handover ∨ s.mdc.mode = .parked) :
    Poised (s.taken.parks n) (s.parkFrame n) s.parkRecords where
  frame := parks_taken_frame hm
  ssc := parks_ssc ..
  latched d := parks_latches s.taken n d
  resume := (parks_resume ..).trans h.resume
  records hroom := by
    have hroomS : s.roomFor s.parkRecords.length := hroom
    have hstart : Holds s.evq.events s.taken := Holds.start (s := s.taken) hroomS
    have hholds := parks_holds (n := n) hstart (by rw [parkRecords_taken]; exact hroomS.2)
    rw [parkRecords_taken] at hholds
    exact hholds

theorem parks_line (hm : s.mdc.mode = .handover ∨ s.mdc.mode = .parked) (k : LineId) :
    (s.taken.parks n).line k = (s.line k).unmutedIfMuted :=
  (frame_line (parks_taken_frame hm) k).trans (parkFrame_line s n k)

theorem parks_waits (hm : s.mdc.mode = .handover ∨ s.mdc.mode = .parked) (k : LineId) :
    ((s.taken.parks n).line k).waits ↔ (s.line k).waits := by
  obtain ⟨hentry, hact, -⟩ := unmutedIfMuted_fields (s.line k)
  rw [parks_line hm, Line.waits, hentry, hact, Line.waits]

theorem parkWork_base (hm : s.mdc.mode = .handover ∨ s.mdc.mode = .parked) : (s.taken.parkWork n).base = (s.parkFrame n).base :=
  (evaluateWhere_base ..).trans ((triggerPending_base _).trans (frame_base (parks_taken_frame hm)))

/-- PARK leaves no mute, and the windows and counters as the mutes' ends leave them. -/
theorem parkWork_tally (hm : s.mdc.mode = .handover ∨ s.mdc.mode = .parked) (k : LineId) :
    ((s.taken.parkWork n).finish.line k).tally = (s.line k).unmutedIfMuted.tally := by
  have hmutes : ∀ j, ((s.taken.parks n).line j).mute = none := fun j => by
    rw [parks_line hm]
    exact (unmutedIfMuted_fields _).2.2
  have hwlu : (s.taken.parkWork n).wlu = (s.taken.parks n).triggerPending.wlu := evaluateWhere_wlu ..
  have hline : (s.taken.parkWork n).line k = (s.taken.parks n).triggerPending.line k := by
    unfold State.line
    rw [hwlu]
  rw [finish_line, hline, triggerPending_tally hmutes, parks_line hm]

theorem parkWork_records (h : Listening s) (hm : s.mdc.mode = .handover ∨ s.mdc.mode = .parked) (hroom : s.roomFor s.parkRecords.length) :
    Keeps (s.evq.events ++ s.parkRecords) (s.taken.parkWork n) :=
  (Closed.records _).evaluateWhere _ ((Closed.records _).triggerPending ((parks_poised (n := n) h hm).records hroom).keeps)

/-- With nothing that waits the event is PARK's own changes and the entries past due. -/
theorem parkWork_quiet (hm : s.mdc.mode = .handover ∨ s.mdc.mode = .parked) (hnone : ∀ k, (s.line k).act ≠ .pending) :
    s.taken.parkWork n = (s.taken.parks n).evaluatePastDue := by
  have hquiet : (s.taken.parks n).triggerPending = s.taken.parks n := triggerPending_none fun k hw => by
    obtain ⟨-, -, hact⟩ := (parks_waits hm k).1 hw
    exact hnone k hact
  rw [State.parkWork, hquiet]

theorem evaluatePastDue_none {y : State} (hsched : y.wsc.sched = s.wsc.sched) (hseconds : y.wsc.seconds = s.wsc.seconds)
    (h : ∀ e ∈ s.wsc.sched, s.wsc.seconds < e.due) : y.evaluatePastDue = y := by
  refine evaluateWhere_none fun e he => ?_
  rw [hsched] at he
  rw [hseconds]
  exact decide_eq_false (Nat.not_le.2 (h e he))

/-- The single RECORD line that waits triggers, whether its mute ended here or not (R9 step 4, R55). -/
theorem parkWork_triggers (h : Listening s) (hm : s.mdc.mode = .handover ∨ s.mdc.mode = .parked) {k : LineId}
    (honly : ∀ j, (s.line j).act = .pending ↔ j = k) (hen : (s.line k).entry.enabled = true) (hrole : (s.line k).entry.role = .record)
    (hlevel : (s.line k).entry.triggerMode = .levelHigh ∨ (s.line k).entry.triggerMode = .levelLow)
    (hahead : ∀ e ∈ s.wsc.sched, s.wsc.seconds < e.due) :
    (s.taken.parkWork n).finish.frame = ((s.parkFrame n).updLine k (fun x => { x with act := .spent })).frame ∧
    (s.roomFor (s.parkRecords.length + 1) →
      (s.taken.parkWork n).finish.recorded s (s.parkRecords ++ [s.recordOf .lineRecord k.val 2 none])) := by
  obtain ⟨hentry, -, hmute⟩ := unmutedIfMuted_fields (s.line k)
  have hposed := parks_poised (n := n) h hm
  have hframe := hposed.frame
  have hmode : (s.taken.parks n).mdc.mode = .parked := base_mode (frame_base hframe)
  have hwaits : ∀ j, ((s.taken.parks n).line j).waits ↔ j = k := by
    intro j
    rw [parks_waits hm]
    refine ⟨fun hw => (honly j).1 hw.2.2, ?_⟩
    rintro rfl
    exact ⟨hen, isLevel_iff.2 hlevel, (honly j).2 rfl⟩
  have hline := parks_line (n := n) hm k
  have htrigger := parkedEntry_triggers hwaits (by rw [hline]; exact hmute) (by rw [hline, hentry]; exact hrole) hmode
  have hholds : s.roomFor s.parkRecords.length → Holds (s.evq.events ++ s.parkRecords) (s.taken.parks n) := hposed.records
  have hresume := hposed.resume
  have hsched : (s.taken.parks n).wsc = (s.parkFrame n).wsc := frame_wsc hframe
  unfold State.parkWork
  rw [htrigger]
  generalize s.taken.parks n = y at *
  have hspentResume : (y.updLine k (fun x => { x with act := .spent })).work.resume = none := hresume
  have hspentHolds : s.roomFor s.parkRecords.length → Holds (s.evq.events ++ s.parkRecords) (y.updLine k (fun x => { x with act := .spent })) :=
    fun hroom => (hholds hroom).same rfl rfl
  have hspentFrame := updLine_frame hframe k (fun x => { x with act := .spent })
  have hspentWsc : (y.updLine k (fun x => { x with act := .spent })).wsc = s.wsc := hsched
  generalize y.updLine k (fun x => { x with act := .spent }) = z at *
  have hwsc : (z.record .lineRecord k.val 2 none).wsc = s.wsc := (deep_wsc (record_deep ..)).trans hspentWsc
  rw [evaluatePastDue_none (congrArg Wsc.sched hwsc) (congrArg Wsc.seconds hwsc) hahead]
  refine ⟨(finish_frame ((record_resume ..).trans hspentResume)).trans ((record_frame ..).trans hspentFrame), fun hroom => ?_⟩
  have hlen : (s.evq.events ++ s.parkRecords).length < 24 := by
    have hlen := hroom.2
    rw [List.length_append]
    omega
  have hkept := ((hspentHolds (roomFor_mono hroom (Nat.le_succ _))).record hlen .lineRecord k.val 2 none).keeps
  rw [recordOf_congr (congrArg Wsc.seconds hspentWsc), List.append_assoc] at hkept
  exact Keeps.finish_recorded hkept

theorem parkWork_finish_frame (h : Listening s) (hm : s.mdc.mode = .handover ∨ s.mdc.mode = .parked) (hnone : ∀ k, (s.line k).act ≠ .pending)
    (hahead : ∀ e ∈ s.wsc.sched, s.wsc.seconds < e.due) : (s.taken.parkWork n).finish.frame = (s.parkFrame n).frame := by
  have hposed := parks_poised (n := n) h hm
  have hwscU : (s.taken.parks n).wsc = (s.parkFrame n).wsc := frame_wsc hposed.frame
  have hwsc : (s.taken.parks n).wsc = s.wsc := hwscU
  rw [parkWork_quiet hm hnone, evaluatePastDue_none (congrArg Wsc.sched hwsc) (congrArg Wsc.seconds hwsc) hahead]
  exact (finish_frame hposed.resume).trans hposed.frame

/-- The single entry past due is evaluated against what PARK leaves (R9 step 5, R158). -/
theorem parkWork_evaluates (h : Listening s) (hm : s.mdc.mode = .handover ∨ s.mdc.mode = .parked)
    (hnone : ∀ k, (s.line k).act ≠ .pending) {e : SchedEntry} (he : e ∈ s.wsc.sched) (hsound : ScheduleSound s)
    (hdue : e.due ≤ s.wsc.seconds) (honly : ∀ x ∈ s.wsc.sched, x.due ≤ s.wsc.seconds → x = e) :
    (s.taken.parkWork n).finish.evaluated (s.parkFrame n) s.parkRecords e := by
  have hposed := parks_poised (n := n) h hm
  have hwscU : (s.taken.parks n).wsc = (s.parkFrame n).wsc := frame_wsc hposed.frame
  have hwsc : (s.taken.parks n).wsc = s.wsc := hwscU
  have hsoundAt : ScheduleSound (s.taken.parks n) := hsound.of_sched (congrArg Wsc.sched hwsc)
  have hmem : e ∈ (s.taken.parks n).wsc.sched := by rw [hwsc]; exact he
  have hone : (s.taken.parks n).evaluatePastDue = (s.taken.parks n).evaluate e.id := by
    refine evaluateWhere_one hsoundAt hmem (decide_eq_true (by rw [hwsc]; exact hdue)) fun x hx hp => ?_
    rw [hwsc] at hx hp
    exact honly x hx (of_decide_eq_true hp)
  rw [parkWork_quiet hm hnone, hone]
  exact evaluate_evaluated hposed (show Mode.parked ≠ .drive by decide) ((hposed.entry e.id).symm.trans (entry_of_mem hsoundAt hmem)) hdue

end

/-- Settles O31. -/
theorem parkIsTaken : Obligations.ParkIsTaken := by
  intro h l s hs
  refine ⟨fun hm => exec_of_free (c := .park [h, l]) rfl rfl hs (by decide) rfl rfl (reqPark_refused (s := s.taken) hm), fun hm => ?_⟩
  intro leaving muted before ended u
  have hu : u = s.parkFrame (nat16 h l) := rfl
  have hbefore : before = s.parkRecords := rfl
  have hexec := exec_of_free (c := .park [h, l]) rfl rfl hs (by decide) rfl rfl (reqPark_taken (s := s.taken) hm)
  have hbase := (finish_base (s.taken.parkWork (nat16 h l))).trans (parkWork_base hm)
  have htally := parkWork_tally (n := nat16 h l) hm
  have hmdc := base_mdc hbase
  have hrecorded : s.roomFor s.parkRecords.length → (s.taken.parkWork (nat16 h l)).finish.recorded s s.parkRecords := fun hroom =>
    Keeps.finish_recorded (parkWork_records hs hm hroom)
  have hquiet := parkWork_finish_frame (n := nat16 h l) hs hm
  have htriggers := fun k => parkWork_triggers (n := nat16 h l) (k := k) hs hm
  have hevaluates := fun hnone e => parkWork_evaluates (n := nat16 h l) hs hm hnone (e := e)
  rw [hu, hbefore]
  clear_value u before
  generalize (s.taken.parkWork (nat16 h l)).finish = z at *
  have hadm := base_adm hbase
  have hbtm := base_btm hbase
  have hseconds := base_seconds hbase
  refine ⟨_, hexec, sendReply_replies .., congrArg Mdc.mode hmdc, congrArg Mdc.parkedFlag hmdc, base_reserve hbase, base_reserveRem hbase,
    fun hleave => ⟨(congrArg Mdc.handoverTimer hmdc).trans (if_pos hleave), (congrArg Mdc.handoverHold hmdc).trans (if_pos hleave),
      (congrArg Mdc.alwaysHold hmdc).trans (if_pos hleave)⟩,
    fun hstay => ⟨(congrArg Mdc.handoverTimer hmdc).trans (if_neg hstay), (congrArg Mdc.handoverHold hmdc).trans (if_neg hstay)⟩, fun k => ?mute, fun k hk => ?ended, fun k hk => ?kept, hseconds, hadm, hbtm,
     fun hroom => recorded_sendReply (hrecorded hroom) _ _,
    fun hnone => ⟨fun hahead => (sendReply_frame ..).trans (hquiet hnone hahead),
      fun e he hsound hdue honly => evaluated_sendReply (hevaluates hnone e he hsound hdue honly) _ _⟩,
    fun k honly hen hrole hlevel hahead => ?waiting⟩
  case mute => exact (congrArg Prod.fst (htally k)).trans (unmutedIfMuted_fields _).2.2
  case ended =>
    have hended : (s.line k).unmutedIfMuted = (s.line k).unmuted := if_pos hk
    have htally := htally k
    rw [hended] at htally
    exact ⟨congrArg (fun x => x.2.2.1) htally, congrArg (fun x => x.2.2.2) htally, congrArg (fun x => x.2.1) htally⟩
  case kept =>
    have hkept : (s.line k).unmutedIfMuted = s.line k := if_neg (by rw [hk]; decide)
    have htally := htally k
    rw [hkept] at htally
    exact congrArg (fun x => x.2.2.1) htally
  case waiting =>
    obtain ⟨hframe, hrecords⟩ := htriggers k honly hen hrole hlevel hahead
    exact ⟨(sendReply_frame ..).trans hframe, fun hroom => recorded_sendReply (hrecords hroom) _ _⟩

end Sys2Proof.Machine
end

section
/-! What the end of a domain's event leaves of a domain: nothing of one that is calm and not QUEUED changes; a QUEUED one may be granted a
slot (R21, R43). -/

namespace Sys2Proof.Machine

/-! ### The steps after the grants -/

theorem finish_dom (s : State) (d : DomId) : s.finish.dom d = { s.ramped.dom d with owner := (s.finish.dom d).owner } := by
  have hdom : s.finish.dom d = { s.ramped.dom d with owner := s.ramped.recordBlocked.refreshSessions.ownerOf d } := by
    rw [finish_eq, endEvent_dom, power_dom (refreshAttn_power _), State.beforeAttn, refreshSub_dom, refreshOwners_dom, refreshSessions_dom,
      power_dom (recordBlocked_power _)]
  rw [hdom]

/-! ### The grants (R43) -/

section
variable {s : State} {d e : DomId}

theorem calm_setState_on {t : Nat} (h : Calm s d) (hheld : (s.setState d .on t).dmc.d0Held = s.dmc.d0Held)
    (hd : (s.dom d).state ≠ .off ∧ (s.dom d).state ≠ .latched) (hdem : s.demand d ≠ 0)
    (hdemand : (s.setState d .on t).demand d = s.demand d) : Calm (s.setState d .on t) d := by
  have halike := setState_alike s d .on t
  refine ⟨by simp, by simp, fun _ => .inl (hdemand ▸ hdem), by simp, fun hm _ _ _ => ?_⟩
  rw [halike.sessionDemands, hheld]
  exact h.cutoff (halike.mode ▸ hm) hd.1 hd.2 hdem

/-- A ramp that ends ON leaves every domain calm (R26). -/
theorem AllCalm.rampOn (h : AllCalm s) (hd : (s.dom d).state = .ramping) (hdem : s.demand d ≠ 0) : AllCalm (s.setState d .on 0) := by
  have hhold : (s.setState d .on 0).hold = s.hold := setState_hold_of_down s _ _ (by rw [hd]; rfl)
  have hheld : (s.setState d .on 0).dmc.d0Held = s.dmc.d0Held := congrArg Prod.fst hhold
  exact h.change (setState_alike s d .on 0) (d := d) (fun e he => by rw [setState_state, if_neg he]) (by simp [hd]) (by simp) hheld (calm_setState_on (h.calm d) hheld (by simp [hd]) hdem)

theorem rampDone_wanted (hdem : s.demand d ≠ 0) : s.rampDone d = s.setState d .on 0 := if_pos (by simpa using hdem)

theorem setState_demand_self (ht : TreeSound s) (n : DomState) (t : Nat) : (s.setState d n t).demand d = s.demand d :=
  demand_of_changed ht (setState_alike s d n t) le_rfl fun e he => by rw [setState_state, if_neg he]

theorem grant_demand_self (ht : TreeSound s) : (s.grant d).demand d = s.demand d :=
  demand_of_changed ht (grant_alike s d) le_rfl fun e he => by rw [grant_state, if_neg he]

theorem grant_dom_self (s : State) (d : DomId) :
    (s.grant d).dom d = { s.dom d with state := .ramping, en := true, timer := (s.dom d).entry.rampTimeout } := by
  have hset : (s.grant d).dom d = (s.setState d .ramping (s.dom d).entry.rampTimeout).dom d := by
    unfold State.grant
    dsimp only
    split <;> rfl
  rw [hset, setState_dom, if_pos rfl]
  rfl

theorem ReadyToGrant.grantAndRamp_eq (h : ReadyToGrant s) (hd : (s.dom d).state = .queued) (he : s.eligible d = true)
    (hf : s.slotFree = true) : s.grantAndRamp d = s.grant d ∨
      s.grantAndRamp d = ((s.grant d).setState d .on 0).refreshSub.enqueueArrivals := by
  have hgrant := h.grant hd he hf
  have hstate : ((s.grant d).dom d).state = .ramping := by rw [grant_state, if_pos rfl]
  have hdem : (s.grant d).demand d ≠ 0 := by
    rw [grant_demand_self h.power.tree]
    exact h.demanded hd
  have hcalm := hgrant.calm.rampOn hstate hdem
  have hheld : ((s.grant d).setState d .on 0).held = false := (setState_alike ..).held.trans hgrant.running
  unfold State.grantAndRamp
  dsimp only
  split
  · right
    rw [rampDone_wanted hdem, demandChanged_of_calm hcalm hheld]
  · exact .inl rfl

/-- A grant touches no other domain. -/
theorem ReadyToGrant.grantAndRamp_dom_ne (h : ReadyToGrant s) (hd : (s.dom d).state = .queued) (he : s.eligible d = true)
    (hf : s.slotFree = true) {c : DomId} (hc : c ≠ d) : (s.grantAndRamp d).dom c = s.dom c := by
  rcases h.grantAndRamp_eq hd he hf with heq | heq
  · rw [heq]
    exact grant_dom_ne hc
  · rw [heq, enqueueArrivals_dom, refreshSub_dom, setState_dom, if_neg hc]
    exact grant_dom_ne hc

/-- A domain that was QUEUED and has been granted a slot, its ramp completed or not. -/
def Domain.served (x y : Domain) : Prop :=
  x.attempts = y.attempts ∧ ((x.state = .ramping ∧ x.timer = y.entry.rampTimeout) ∨ x.state = .on)

theorem ReadyToGrant.grantAndRamp_served (h : ReadyToGrant s) (hd : (s.dom d).state = .queued) (he : s.eligible d = true)
    (hf : s.slotFree = true) : ((s.grantAndRamp d).dom d).served (s.dom d) := by
  rcases h.grantAndRamp_eq hd he hf with heq | heq
  · rw [heq, grant_dom_self]
    exact ⟨rfl, .inl ⟨rfl, rfl⟩⟩
  · rw [heq, enqueueArrivals_dom, refreshSub_dom, setState_dom, if_pos rfl, grant_dom_self]
    exact ⟨rfl, .inr rfl⟩

theorem served_ne_queued {x y : Domain} (h : x.served y) : x.state ≠ .queued := by
  obtain ⟨-, ⟨hs, -⟩ | hs⟩ := h <;> rw [hs] <;> decide

/-- The grants leave every domain that is not QUEUED. -/
theorem ReadyToGrant.grants_dom (h : ReadyToGrant s) (n : Nat) (hq : (s.dom e).state ≠ .queued) : (State.grants n s).dom e = s.dom e := by
  induction n generalizing s with
  | zero => rfl
  | succ n ih =>
    unfold State.grants
    split
    · next hf =>
      split
      · next d hd =>
        have hqd : (s.dom d).state = .queued := (h.ramp.queued d).2 (mem_queueOrder (List.mem_of_find?_eq_some hd))
        have hel := List.find?_some hd
        have hne : e ≠ d := fun hed => hq (hed ▸ hqd)
        have hsame := h.grantAndRamp_dom_ne hqd hel hf hne
        rw [ih (h.grantAndRamp hqd hel hf).1 (by rw [hsame]; exact hq), hsame]
      · rfl
    · rfl

/-- A QUEUED domain stays as it is or is served. -/
theorem ReadyToGrant.grants_queued (h : ReadyToGrant s) (n : Nat) (hq : (s.dom e).state = .queued) :
    (State.grants n s).dom e = s.dom e ∨ ((State.grants n s).dom e).served (s.dom e) := by
  induction n generalizing s with
  | zero => exact .inl rfl
  | succ n ih =>
    unfold State.grants
    split
    · next hf =>
      split
      · next d hd =>
        have hqd : (s.dom d).state = .queued := (h.ramp.queued d).2 (mem_queueOrder (List.mem_of_find?_eq_some hd))
        have hel := List.find?_some hd
        have hready := (h.grantAndRamp hqd hel hf).1
        by_cases hne : e = d
        · subst hne
          have hserved := h.grantAndRamp_served hqd hel hf
          rw [hready.grants_dom n (served_ne_queued hserved)]
          exact .inr hserved
        · have hsame := h.grantAndRamp_dom_ne hqd hel hf hne
          have hrest := ih hready (by rw [hsame]; exact hq)
          rwa [hsame] at hrest
      · exact .inl rfl
    · exact .inl rfl

end

/-! ### The end of an event that is a change of demand -/

theorem AllCalm.refreshSub {s : State} (h : AllCalm s) : AllCalm s.refreshSub := by
  have halike := refreshSub_alike s
  have hstate : ∀ e, (s.refreshSub.dom e).state = (s.dom e).state := fun e => by rw [refreshSub_dom]
  have hdemand : ∀ e, s.refreshSub.demand e = s.demand e := fun e => halike.demand fun c _ => by rw [hstate]
  have hheld : s.refreshSub.dmc.d0Held = s.dmc.d0Held := congrArg Prod.fst (refreshSub_hold s)
  refine ⟨fun e => (h.calm e).congr halike (hstate e) (hdemand e) (.inr hheld), fun hx => ?_⟩
  rw [heldStands_congr halike (hdemand 0) hheld]
  exact h.stands (hheld ▸ hx)

section
variable {v : State} {d : DomId}

theorem calm_ramped (hp : Powering v) (hc : AllCalm v) (hw : v.work.resume = none) :
    v.ramped = State.grants 12 v.enqueueArrivals ∧ ReadyToGrant v.enqueueArrivals := by
  obtain ⟨hramp, hpower, hheld⟩ := hp
  refine ⟨?_, enqueueArrivals_ready hramp hpower hc hheld⟩
  rw [State.ramped, resumeNow_none hw, settle_of_calm hc hheld]

/-- With every domain calm the end of the event leaves a domain that is not QUEUED. -/
theorem calm_finish_dom (hp : Powering v) (hc : AllCalm v) (hw : v.work.resume = none) (hq : (v.dom d).state ≠ .queued) :
    v.finish.dom d = { v.dom d with owner := (v.finish.dom d).owner } := by
  obtain ⟨hramped, hready⟩ := calm_ramped hp hc hw
  rw [finish_dom, hramped, hready.grants_dom 12 hq, enqueueArrivals_dom]

theorem calm_finish_queued (hp : Powering v) (hc : AllCalm v) (hw : v.work.resume = none) (hq : (v.dom d).state = .queued) :
    (v.finish.dom d).attempts = (v.dom d).attempts ∧
      ((v.finish.dom d).state = .queued ∨ (v.finish.dom d).state = .ramping ∨ (v.finish.dom d).state = .on) := by
  obtain ⟨hramped, hready⟩ := calm_ramped hp hc hw
  rw [finish_dom, hramped]
  rcases hready.grants_queued 12 (e := d) hq with heq | ⟨hattempts, hstate⟩
  · rw [heq]
    exact ⟨rfl, .inl hq⟩
  · refine ⟨hattempts, ?_⟩
    rcases hstate with ⟨hstate, -⟩ | hstate
    · exact .inr (.inl hstate)
    · exact .inr (.inr hstate)

theorem Powering.settle (h : Powering v) : Powering v.settle := Powering.closed.settle v h

theorem Powering.demandChanged (h : Powering v) : Powering v.demandChanged := Powering.closed.demandChanged h

theorem demandChanged_calm (h : Powering v) : AllCalm v.demandChanged := (settle_calm h.2.1 h.2.2).refreshSub

theorem demandChanged_resume (v : State) : v.demandChanged.work.resume = v.work.resume := noted_resume (demandChanged_noted v)

/-- What the settling leaves of a domain that is not QUEUED the event leaves. -/
theorem changed_finish_dom (hp : Powering v) (hw : v.work.resume = none) (hq : (v.settle.dom d).state ≠ .queued) :
    v.demandChanged.finish.dom d = { v.settle.dom d with owner := (v.demandChanged.finish.dom d).owner } := by
  have hdom := calm_finish_dom (d := d) hp.demandChanged (demandChanged_calm hp) ((demandChanged_resume v).trans hw)
    (by rw [demandChanged_dom]; exact hq)
  rwa [demandChanged_dom] at hdom

theorem changed_finish_queued (hp : Powering v) (hw : v.work.resume = none) (hq : (v.settle.dom d).state = .queued) :
    (v.demandChanged.finish.dom d).attempts = (v.settle.dom d).attempts ∧
      ((v.demandChanged.finish.dom d).state = .queued ∨ (v.demandChanged.finish.dom d).state = .ramping ∨
        (v.demandChanged.finish.dom d).state = .on) := by
  have hdom := calm_finish_queued (d := d) hp.demandChanged (demandChanged_calm hp) ((demandChanged_resume v).trans hw)
    (by rw [demandChanged_dom]; exact hq)
  rwa [demandChanged_dom] at hdom

end

/-! ### The same for a domain at rest, whatever the others do -/

section
variable {s : State} {d e : DomId}

/-- A grant to another domain leaves a domain at rest. -/
theorem grantAndRamp_rest_ne (h : Resting d s) (hne : d ≠ e) : (s.grantAndRamp e).dom d = s.dom d := by
  unfold State.grantAndRamp
  dsimp only
  split
  · have hdone : ((s.grant e).rampDone e).dom d = s.dom d := (rampDone_dom_ne hne).trans (grant_dom_ne hne)
    have hbase : ((s.grant e).rampDone e).base = s.base := (deep_base (rampDone_deep _ e)).trans (deep_base (grant_deep s e))
    have hssc : ((s.grant e).rampDone e).ssc = s.ssc := (Domestic.sameSessions s.ssc).rampDone e ((Domestic.sameSessions s.ssc).grant e rfl)
    have hrest : Resting d ((s.grant e).rampDone e) := h.congr hbase (by rw [hssc]) (by rw [hdone])
    rw [enqueueArrivals_dom, demandChanged_dom, (settle_rest hrest).1, hdone]
  · exact grant_dom_ne hne

theorem grantAndRamp_alike (s : State) (d : DomId) : Alike (s.grantAndRamp d) s :=
  alike_of_deep (grantAndRamp_deep s d) (congrArg Ssc.sessions ((Domestic.sameSessions s.ssc).grantAndRamp d rfl))

/-- A directly held domain's own grant. -/
theorem grantAndRamp_rest_served (hm : s.mdc.mode ≠ .cutoff) (hd : s.directHolders d ≠ 0) : ((s.grantAndRamp d).dom d).served (s.dom d) := by
  unfold State.grantAndRamp
  dsimp only
  split
  · have halike := grant_alike s d
    have hdem : (s.grant d).demand d ≠ 0 := by
      rw [State.demand, halike.directHolders]
      omega
    have hset := setState_alike (s.grant d) d .on 0
    have hrest : Resting d ((s.grant d).setState d .on 0) := by
      refine ⟨?_, .inl ⟨?_, .inl (by rw [setState_state, if_pos rfl])⟩⟩
      · rw [hset.mode, halike.mode]
        exact hm
      · rw [hset.directHolders, halike.directHolders]
        exact hd
    rw [rampDone_wanted hdem, enqueueArrivals_dom, demandChanged_dom, (settle_rest hrest).1, setState_dom, if_pos rfl, grant_dom_self]
    exact ⟨rfl, .inr rfl⟩
  · rw [grant_dom_self]
    exact ⟨rfl, .inl ⟨rfl, rfl⟩⟩

/-- A directly held QUEUED domain stays as it is or is served. -/
theorem grants_rest_queued (n : Nat) (hr : RampSound s) (h : Resting d s) (hd : s.directHolders d ≠ 0) (hq : (s.dom d).state = .queued) :
    (State.grants n s).dom d = s.dom d ∨ ((State.grants n s).dom d).served (s.dom d) := by
  induction n generalizing s with
  | zero => exact .inl rfl
  | succ n ih =>
    unfold State.grants
    split
    · next hf =>
      split
      · next e he =>
        have hqe : (s.dom e).state = .queued := (hr.queued e).2 (mem_queueOrder (List.mem_of_find?_eq_some he))
        have hsound := grantAndRamp_rampSound hr e hqe hf
        have halike := grantAndRamp_alike s e
        by_cases hne : d = e
        · subst hne
          have hserved := grantAndRamp_rest_served h.mode hd
          have hrest : Resting d (s.grantAndRamp d) := by
            refine ⟨halike.mode ▸ h.mode, .inl ⟨halike.directHolders d ▸ hd, ?_⟩⟩
            obtain ⟨-, ⟨hs, -⟩ | hs⟩ := hserved
            · exact .inr (.inr (.inr (.inl hs)))
            · exact .inl hs
          rw [(grants_rest n hsound hrest (served_ne_queued hserved)).1]
          exact .inr hserved
        · have hsame := grantAndRamp_rest_ne h hne
          have hrest : Resting d (s.grantAndRamp e) :=
            h.congr (deep_base (grantAndRamp_deep s e)) halike.sessions (by rw [hsame])
          have hgo := ih hsound hrest (halike.directHolders d ▸ hd) (by rw [hsame]; exact hq)
          rwa [hsame] at hgo
      · exact .inl rfl
    · exact .inl rfl

end

section
variable {v : State} {d : DomId}

theorem Resting.changed (h : Resting d v) : v.demandChanged.dom d = v.dom d ∧ Resting d v.demandChanged := by
  obtain ⟨hdom, -⟩ := settle_rest h
  have hsame : v.demandChanged.dom d = v.dom d := (demandChanged_dom v d).trans hdom
  exact ⟨hsame, h.congr (deep_base (demandChanged_deep v)) (congrArg Ssc.sessions (demandChanged_ssc v)) (by rw [hsame])⟩

theorem rest_changed_finish_dom (hr : RampHeld v) (h : Resting d v) (hw : v.work.resume = none) (hq : (v.dom d).state ≠ .queued) :
    v.demandChanged.finish.dom d = { v.dom d with owner := (v.demandChanged.finish.dom d).owner } := by
  obtain ⟨hsame, hrest⟩ := h.changed
  have hdom := (finish_rest ((demandChanged_resume v).trans hw) (RampHeld.closed.demandChanged hr) hrest (by rw [hsame]; exact hq)).1
  rwa [hsame] at hdom

theorem enqueueArrivals_directHolders (s : State) (d : DomId) : s.enqueueArrivals.directHolders d = s.directHolders d := rfl

theorem rest_changed_finish_queued (hr : RampHeld v) (h : Resting d v) (hd : v.directHolders d ≠ 0) (hw : v.work.resume = none)
    (hq : (v.dom d).state = .queued) : (v.demandChanged.finish.dom d).attempts = (v.dom d).attempts ∧
      ((v.demandChanged.finish.dom d).state = .queued ∨ (v.demandChanged.finish.dom d).state = .ramping ∨
        (v.demandChanged.finish.dom d).state = .on) := by
  obtain ⟨hsame, hrest⟩ := h.changed
  have halike : Alike v.demandChanged v := alike_of_deep (demandChanged_deep v) (congrArg Ssc.sessions (demandChanged_ssc v))
  obtain ⟨hsettled, hsettledRest⟩ := settle_rest hrest
  have hsound := enqueueArrivals_rampSound (settle_rampHeld (RampHeld.closed.demandChanged hr))
  have hstate : (v.demandChanged.settle.enqueueArrivals.dom d).state = .queued := by
    rw [enqueueArrivals_dom, hsettled, hsame]
    exact hq
  have hholders : v.demandChanged.settle.enqueueArrivals.directHolders d ≠ 0 := by
    rw [enqueueArrivals_directHolders, (settle_alike v.demandChanged).directHolders, halike.directHolders]
    exact hd
  have hgrants := grants_rest_queued 12 hsound (enqueueArrivals_rest hsettledRest) hholders hstate
  have hbefore : v.demandChanged.settle.enqueueArrivals.dom d = v.dom d := by
    rw [enqueueArrivals_dom, hsettled, hsame]
  have hfinish := finish_dom v.demandChanged d
  rw [State.ramped, resumeNow_none ((demandChanged_resume v).trans hw)] at hfinish
  rw [hbefore] at hgrants
  generalize (State.grants 12 v.demandChanged.settle.enqueueArrivals).dom d = x at hgrants hfinish
  rw [hfinish]
  rcases hgrants with rfl | ⟨hattempts, ⟨hs, -⟩ | hs⟩
  · exact ⟨rfl, .inl hq⟩
  · exact ⟨hattempts, .inr (.inl hs)⟩
  · exact ⟨hattempts, .inr (.inr hs)⟩

end

/-! ### A domain switched off stays off -/

theorem transition_off_ne {s : State} {d e : DomId} (hne : e ≠ d) (h : (s.dom d).state = .off) : ((s.transition e).dom d).state = .off := by
  cases hf : s.forces e
  · rw [(transition_ownChange hf).state d hne.symm]
    exact h
  · rw [transition_of_forces hf]
    refine foldl_closed (P := fun t => (t.dom d).state = .off) State.forceStep (fun t c ht => ?_) domIdsDown h
    unfold State.forceStep
    split
    · exact ht
    · rw [forceOff_state]
      split
      · next hdc =>
        subst hdc
        simp [ht, DomState.live]
      · exact ht

theorem transitionOf_off_ne {s : State} {d e : DomId} (hne : e ≠ d) (h : (s.dom d).state = .off) :
    ((s.transitionOf e).dom d).state = .off := by
  unfold State.transitionOf
  split
  · split
    · exact h
    · exact transition_off_ne (s := { s with dmc.d0Held := none }) hne h
  · exact transition_off_ne hne h

/-- A domain that is OFF with those above it in the index order calm, and calm itself, is OFF after the settling (R21). -/
theorem settle_off {v : State} {d : DomId} (hh : v.held = false) (hcalm : ∀ e, d ≤ e → Calm v e) (hx : d ≠ 0 ∨ v.dmc.d0Held = none)
    (h : (v.dom d).state = .off) : (v.settle.dom d).state = .off := by
  obtain ⟨before, after, hsplit⟩ := List.append_of_mem (mem_domIdsDown d)
  have hsorted := domIdsDown_sorted
  rw [hsplit, List.pairwise_append] at hsorted
  obtain ⟨-, hafter, hbefore⟩ := hsorted
  have hsame : ∀ l : List DomId, (∀ e ∈ l, d < e) → l.foldl State.transitionOf v = v := by
    intro l hl
    induction l with
    | nil => rfl
    | cons e l ih =>
      have hlt := hl e List.mem_cons_self
      have hne : e ≠ 0 := fun h0 => absurd (h0 ▸ hlt) (Fin.not_lt_zero d)
      have hstep : v.transitionOf e = v := by
        unfold State.transitionOf
        rw [if_neg (by simp [hne])]
        exact transition_of_calm (hcalm e hlt.le) hh (.inl hne)
      rw [List.foldl_cons, hstep]
      exact ih fun c hc => hl c (List.mem_cons_of_mem _ hc)
  have hown : v.transitionOf d = v := by
    unfold State.transitionOf
    rw [if_neg]
    · exact transition_of_calm (hcalm d le_rfl) hh hx
    · rcases hx with hx | hx <;> simp [hx]
  unfold State.settle
  rw [hsplit, List.foldl_append, List.foldl_cons, hsame before (fun e he => hbefore e he d List.mem_cons_self), hown]
  exact List.foldlRecOn (motive := fun t : State => (t.dom d).state = .off) after _ h fun t ht e he =>
    transitionOf_off_ne (ne_of_lt ((List.pairwise_cons.1 hafter).1 e he)) ht

end Sys2Proof.Machine
end

section
/-! The domains' own events by demand (R20, R24): where the domain is wanted it keeps the state that the event gives it, and where it is not
it may be switched off. Settles O37. -/

namespace Sys2Proof.Machine

/-- A domain that keeps all but its owner. -/
theorem fields_of_owner {x y : Domain} (h : x = { y with owner := x.owner }) :
    x.state = y.state ∧ x.en = y.en ∧ x.timer = y.timer ∧ x.attempts = y.attempts ∧ x.depReported = y.depReported := by
  rw [h]
  exact ⟨rfl, rfl, rfl, rfl, rfl⟩

/-! ### Demand as an event finds it -/

theorem lapse_sameDemand (s : State) (n : Nat) : SameDemand (s.lapse n) s := by
  have hmdc : (s.lapse n).mdc.mode = s.mdc.mode ∧ (s.lapse n).mdc.driveHold = s.mdc.driveHold ∧
      (s.lapse n).mdc.handoverHold = s.mdc.handoverHold ∧ (s.lapse n).mdc.alwaysHold = s.mdc.alwaysHold := by
    unfold State.lapse
    (repeat' split) <;> exact ⟨rfl, rfl, rfl, rfl⟩
  obtain ⟨hmode, hholds⟩ := hmdc
  have hsets : (s.lapse n).activeSets = s.activeSets := by
    unfold State.lapse
    (repeat' split)
    · rfl
    · rfl
    · refine activeSets_map (fun x => ?_) s.ssc.sessions
      unfold Session.lapse
      split <;> exact ⟨rfl, rfl⟩
  refine ⟨lapse_held s n, hmode, hholds, fun d => ?_, hsets⟩
  rcases lapse_dom s n d with heq | heq <;> rw [heq]
  · exact ⟨rfl, rfl⟩
  · exact ⟨rfl, rfl⟩

theorem SameDemand.directHolders {s t : State} (h : SameDemand t s) (d : DomId) : t.directHolders d = s.directHolders d := by
  obtain ⟨hdrive, hhandover, halways⟩ := h.holds
  have hentry := fun d => (h.dom d).2
  unfold State.directHolders
  rw [h.sessionSets]
  simp only [State.holdSets, State.driveSet, State.handoverSet, State.alwaysSet, hdrive, hhandover, halways, hentry]

/-- The domain is wanted as the event finds it: held directly outside CUTOFF, or demanded among calm domains. -/
def State.drawn (w : State) (d : DomId) : Prop :=
  (w.mdc.mode ≠ .cutoff ∧ w.directHolders d ≠ 0) ∨
  (PowerHeld w ∧ AllCalm w ∧ w.demand d ≠ 0 ∧ (w.mdc.mode = .cutoff → w.sessionDemands d = true))

/-- The domain is not wanted as the event finds it. -/
def State.undrawn (w : State) (d : DomId) : Prop :=
  (w.mdc.mode ≠ .cutoff ∧ w.directHolders d = 0 ∧ ∀ e, (w.dom e).entry.parent ≠ some d) ∨ (PowerHeld w ∧ AllCalm w ∧ w.demand d = 0)

section
variable {s w v : State} {d : DomId}

theorem demand_of_drawn (h : w.drawn d) : w.demand d ≠ 0 := by
  rcases h with ⟨-, h⟩ | ⟨-, -, h, -⟩
  · rw [State.demand]
    omega
  · exact h

theorem demand_of_undrawn (h : w.undrawn d) : w.demand d = 0 := by
  rcases h with ⟨-, hd, hc⟩ | ⟨-, -, h⟩
  · rw [State.demand, hd, childless hc]
  · exact h

theorem PowerSound.lapse (h : PowerSound s) (n : Nat) : PowerHeld (s.lapse n) ∧ AllCalm (s.lapse n) := by
  have hheld := (h.demand.demandHeld h.tree).lapse n
  exact ⟨hheld.power, hheld.calm⟩

theorem lapse_drawn (h : s.wanted d) (n : Nat) : (s.lapse n).drawn d := by
  have hsame := lapse_sameDemand s n
  unfold State.drawn
  rw [hsame.mode, hsame.directHolders, hsame.demand, hsame.sessionDemands]
  rcases h with h | ⟨hsound, h⟩
  · exact .inl h
  · obtain ⟨hpower, hcalm⟩ := hsound.lapse n
    exact .inr ⟨hpower, hcalm, h⟩

theorem lapse_undrawn (h : s.unwanted d) (n : Nat) : (s.lapse n).undrawn d := by
  have hsame := lapse_sameDemand s n
  unfold State.undrawn
  rw [hsame.mode, hsame.directHolders, hsame.demand]
  simp only [(hsame.dom _).2]
  rcases h with h | ⟨hsound, h⟩
  · exact .inl h
  · obtain ⟨hpower, hcalm⟩ := hsound.lapse n
    exact .inr ⟨hpower, hcalm, h⟩

/-- v is w with the state of d changed. -/
structure ChangedAt (v w : State) (d : DomId) : Prop where
  alike : Alike v w
  states : ∀ e, e ≠ d → (v.dom e).state = (w.dom e).state

theorem ChangedAt.trans {u : State} (h : ChangedAt u v d) (h' : ChangedAt v w d) : ChangedAt u w d :=
  ⟨h.alike.trans h'.alike, fun e he => (h.states e he).trans (h'.states e he)⟩

theorem ChangedAt.demand_self (h : ChangedAt v w d) (ht : TreeSound w) : v.demand d = w.demand d :=
  demand_of_changed ht h.alike le_rfl h.states

theorem changedAt_setState (s : State) (d : DomId) (n : DomState) (t : Nat) : ChangedAt (s.setState d n t) s d :=
  ⟨setState_alike s d n t, fun e he => by rw [setState_state, if_neg he]⟩

theorem changedAt_enterOff (s : State) (d : DomId) : ChangedAt (s.enterOff d) s d :=
  ⟨enterOff_alike s d, fun e he => by rw [enterOff_state, if_neg he]⟩

theorem changedAt_enterQueued (s : State) (d : DomId) : ChangedAt (s.enterQueued d) s d :=
  ⟨enterQueued_alike s d, fun e he => by rw [enterQueued_state, if_neg he]⟩

/-- After the event's work the domain is at rest, or every domain is calm. -/
def Quieted (v : State) (d : DomId) : Prop := Resting d v ∨ (Powering v ∧ AllCalm v)

/-- A demanded domain among calm ones that goes from a state other than OFF to one other than OFF and HOLDOFF. -/
theorem calm_of_wanted (hcalm : AllCalm w) (hdem : w.demand d ≠ 0) (hsession : w.mdc.mode = .cutoff → w.sessionDemands d = true)
    (hc : ChangedAt v w d) (hheld : v.dmc.d0Held = w.dmc.d0Held) (hold : (w.dom d).state ≠ .off)
    (hnew : (v.dom d).state ≠ .off ∧ (v.dom d).state ≠ .holdoff) : AllCalm v := by
  refine hcalm.change hc.alike hc.states hold hnew.1 hheld fun hdemand => ?_
  refine calm_of_state (fun h => absurd h hnew.1) (fun _ => hdemand ▸ hdem) (fun _ => .inl (hdemand ▸ hdem)) (fun h => absurd h hnew.2)
    fun hm _ => ?_
  rw [hc.alike.sessionDemands]
  exact hsession (hc.alike.mode ▸ hm)

/-- A wanted domain that goes to ON, FAULT_WAIT, LATCHED or QUEUED from RAMPING, FAULT_WAIT or the powered states stays there. -/
theorem quieted_of_drawn (hw : w.drawn d) (hc : ChangedAt v w d) (hrun : w.held = false) (hramp : RampHeld v)
    (hpow : PowerHeld w → PowerHeld v) (hheld : PowerHeld w → v.dmc.d0Held = w.dmc.d0Held) (hold : (w.dom d).state ≠ .off)
    (hnew : (v.dom d).state = .on ∨ (v.dom d).state = .faultWait ∨ (v.dom d).state = .latched ∨ (v.dom d).state = .ramping ∨
      (v.dom d).state = .queued) : Quieted v d := by
  have hne : (v.dom d).state ≠ .off ∧ (v.dom d).state ≠ .holdoff := by
    rcases hnew with h | h | h | h | h <;> rw [h] <;> exact ⟨by decide, by decide⟩
  rcases hw with ⟨hmode, hdir⟩ | ⟨hpower, hcalm, hdem, hsession⟩
  · exact .inl ⟨hc.alike.mode ▸ hmode, .inl ⟨hc.alike.directHolders d ▸ hdir, hnew⟩⟩
  · exact .inr ⟨⟨hramp, hpow hpower, hc.alike.held.trans hrun⟩, calm_of_wanted hcalm hdem hsession hc (hheld hpower) hold hne⟩

/-- An unwanted domain that goes to HOLDOFF from RAMPING or the powered states stays there. -/
theorem quieted_of_undrawn (hw : w.undrawn d) (hc : ChangedAt v w d) (hrun : w.held = false) (hramp : RampHeld v)
    (hpow : PowerHeld w → PowerHeld v) (hheld : PowerHeld w → v.dmc.d0Held = w.dmc.d0Held) (hold : (w.dom d).state ≠ .off)
    (hnew : (v.dom d).state = .holdoff) : Quieted v d := by
  rcases hw with ⟨hmode, hdir, hchild⟩ | ⟨hpower, hcalm, hdem⟩
  · refine .inl ⟨hc.alike.mode ▸ hmode, .inr ⟨hc.alike.directHolders d ▸ hdir, fun e => ?_, .inr (.inl hnew)⟩⟩
    rw [hc.alike.entry]
    exact hchild e
  · refine .inr ⟨⟨hramp, hpow hpower, hc.alike.held.trans hrun⟩, ?_⟩
    refine hcalm.change hc.alike hc.states hold (by rw [hnew]; decide) (hheld hpower) fun hdemand => ?_
    rw [hdem] at hdemand
    exact calm_of_state (fun _ => hdemand) (fun h => by rw [hnew] at h; simp at h) (fun h => by rw [hnew] at h; cases h)
      (fun _ => hdemand) (fun _ h => absurd hdemand h)

/-- The event's end leaves a domain that is at rest or calm, and not QUEUED. -/
theorem quieted_finish (h : Quieted v d) (hramp : RampHeld v) (hw : v.work.resume = none) (hq : (v.dom d).state ≠ .queued) :
    v.finish.dom d = { v.dom d with owner := (v.finish.dom d).owner } := by
  rcases h with h | ⟨hpowering, hcalm⟩
  · exact (finish_rest hw hramp h hq).1
  · exact calm_finish_dom hpowering hcalm hw hq

/-- What the event's work makes of a domain that then stays is what the event leaves. -/
theorem quieted_finish_dom (h : Quieted v d) (hramp : RampHeld v) (hw : v.work.resume = none) (hq : (v.dom d).state ≠ .queued) :
    v.demandChanged.finish.dom d = { v.dom d with owner := (v.demandChanged.finish.dom d).owner } := by
  rcases h with h | ⟨hpowering, hcalm⟩
  · exact rest_changed_finish_dom hramp h hw hq
  · have hsettled : v.settle = v := settle_of_calm hcalm hpowering.2.2
    have hdom := changed_finish_dom (d := d) hpowering hw (by rw [hsettled]; exact hq)
    rwa [hsettled] at hdom

theorem quieted_finish_queued (h : Quieted v d) (hramp : RampHeld v) (hresume : v.work.resume = none)
    (hq : (v.dom d).state = .queued) : (v.demandChanged.finish.dom d).attempts = (v.dom d).attempts ∧
      ((v.demandChanged.finish.dom d).state = .queued ∨ (v.demandChanged.finish.dom d).state = .ramping ∨
        (v.demandChanged.finish.dom d).state = .on) := by
  rcases h with h | ⟨hpowering, hcalm⟩
  · have hdir : v.directHolders d ≠ 0 := by
      rcases h.state with ⟨hdir, -⟩ | ⟨-, -, hs⟩
      · exact hdir
      · rw [hq] at hs
        simp at hs
    exact rest_changed_finish_queued hramp h hdir hresume hq
  · have hsettled : v.settle = v := settle_of_calm hcalm hpowering.2.2
    have hdom := changed_finish_queued (d := d) hpowering hresume (by rw [hsettled]; exact hq)
    rwa [hsettled] at hdom

/-- An unwanted domain that is switched off stays off in the settling. -/
theorem off_quieted (hw : w.undrawn d) (hc : ChangedAt v w d) (hrun : w.held = false) (hramp : RampHeld v)
    (hpow : PowerHeld w → PowerHeld v) (hoff : (v.dom d).state = .off) (hheld : d ≠ 0 → v.dmc.d0Held = w.dmc.d0Held) :
    Quieted v.demandChanged d ∧ (v.demandChanged.dom d).state = .off := by
  rcases hw with ⟨hmode, hdir, hchild⟩ | ⟨hpower, hcalm, hdem⟩
  · have hrest : Resting d v := by
      refine ⟨hc.alike.mode ▸ hmode, .inr ⟨hc.alike.directHolders d ▸ hdir, fun e => ?_, .inl hoff⟩⟩
      rw [hc.alike.entry]
      exact hchild e
    obtain ⟨hsame, hchanged⟩ := hrest.changed
    exact ⟨.inl hchanged, by rw [hsame]; exact hoff⟩
  · have hpowerV := hpow hpower
    have hrunV : v.held = false := hc.alike.held.trans hrun
    have hnone : d ≠ 0 ∨ v.dmc.d0Held = none := by
      by_cases h0 : d = 0
      · subst h0
        refine .inr ?_
        by_contra hx
        have hlive := hpowerV.up hx
        rw [hoff] at hlive
        cases hlive
      · exact .inl h0
    have habove : ∀ e, d ≤ e → Calm v e := by
      intro e he
      have hdemand : v.demand e = w.demand e := demand_of_changed hpower.tree hc.alike he hc.states
      by_cases hed : e = d
      · subst hed
        rw [hdem] at hdemand
        exact calm_of_state (fun _ => hdemand) (fun h => by rw [hoff] at h; simp at h) (fun h => by rw [hoff] at h; cases h)
          (fun h => by rw [hoff] at h; cases h) (fun _ h => absurd hdemand h)
      · have hne : e ≠ 0 := fun h0 => hed (le_antisymm (h0 ▸ Fin.zero_le d) he)
        exact (hcalm.calm e).congr hc.alike (hc.states e hed) hdemand (.inl hne)
    have hpowering : Powering v := ⟨hramp, hpowerV, hrunV⟩
    exact ⟨.inr ⟨hpowering.demandChanged, demandChanged_calm hpowering⟩,
      by rw [demandChanged_dom]; exact settle_off hrunV habove hnone hoff⟩

/-- An unwanted domain that is switched off stays off. -/
theorem off_of_undrawn (hw : w.undrawn d) (hc : ChangedAt v w d) (hrun : w.held = false) (hramp : RampHeld v)
    (hpow : PowerHeld w → PowerHeld v) (hresume : v.work.resume = none) (hoff : (v.dom d).state = .off)
    (hheld : d ≠ 0 → v.dmc.d0Held = w.dmc.d0Held) : (v.demandChanged.finish.dom d).state = .off := by
  obtain ⟨hquiet, hsettled⟩ := off_quieted hw hc hrun hramp hpow hoff hheld
  have hdom := quieted_finish hquiet (RampHeld.closed.demandChanged hramp) ((demandChanged_resume v).trans hresume)
    (by rw [hsettled]; decide)
  exact (fields_of_owner hdom).1.trans hsettled

/-- A domain that an event leaves OFF has EN off and no failures counted (R22, R24). -/
theorem off_fields {t : State} (h : RampSound t) (hoff : (t.dom d).state = .off) : (t.dom d).en = false ∧ (t.dom d).attempts = 0 := by
  obtain ⟨hen, -, -, -, hattempts⟩ := h.domains d
  exact ⟨by rw [hen, hoff]; rfl, hattempts hoff⟩

theorem changed_rampSound {v : State} (h : RampHeld v) : RampSound v.demandChanged.finish := finish_rampSound (RampHeld.closed.demandChanged h)

theorem changed_finish_frame {v : State} (hw : v.work.resume = none) : v.demandChanged.finish.frame = v.frame :=
  (finish_frame ((demandChanged_resume v).trans hw)).trans (demandChanged_frame v)

end

/-! ### The primitive changes -/

section
variable {s : State} {d : DomId}

theorem setState_frame (s : State) (d : DomId) (n : DomState) (t : Nat) : (s.setState d n t).frame = s.frame :=
  frame_of (setState_deep ..) (table_of_ssc ((Domestic.sameSessions s.ssc).setState s d n t rfl))
    ((Domestic.sameApproach s.apq).setState s d n t rfl)

theorem enterOff_frame (s : State) (d : DomId) : (s.enterOff d).frame = s.frame :=
  frame_of (enterOff_deep ..) (table_of_ssc ((Domestic.sameSessions s.ssc).enterOff d rfl)) ((Domestic.sameApproach s.apq).enterOff d rfl)

theorem enterQueued_frame (s : State) (d : DomId) : (s.enterQueued d).frame = s.frame :=
  frame_of (enterQueued_deep ..) (table_of_ssc ((Domestic.sameSessions s.ssc).enterQueued d rfl))
    ((Domestic.sameApproach s.apq).enterQueued d rfl)

theorem setState_d0Held_ne (n : DomState) (t : Nat) (h : d ≠ 0) : (s.setState d n t).dmc.d0Held = s.dmc.d0Held :=
  congrArg Prod.fst (setState_hold_ne s n t h)

theorem enterOff_d0Held_ne (h : d ≠ 0) : (s.enterOff d).dmc.d0Held = s.dmc.d0Held := setState_d0Held_ne .off 0 h

theorem enterQueued_hold (s : State) (d : DomId) : (s.enterQueued d).hold = (s.setState d .queued 0).hold := by
  unfold State.enterQueued State.noteBlocked
  dsimp only
  (repeat' split) <;> rfl

theorem enterQueued_attempts (s : State) (d : DomId) : ((s.enterQueued d).dom d).attempts = (s.dom d).attempts := by
  have hset : ((s.setState d .queued 0).dom d).attempts = (s.dom d).attempts := by
    rw [setState_dom, if_pos rfl]
  have hnote : ∀ u : State, ((u.noteBlocked d).dom d).attempts = (u.dom d).attempts := by
    intro u
    unfold State.noteBlocked
    split
    · rfl
    · show ((u.updDom d (fun x => { x with depReported := true })).dom d).attempts = _
      rw [dom_updDom, if_pos rfl]
  unfold State.enterQueued
  dsimp only
  split
  · rw [hnote, hset]
  · exact hset

theorem lapse_state (s : State) (n : Nat) (d : DomId) : ((s.lapse n).dom d).state = (s.dom d).state := (lapse_sameDemand s n).dom d |>.1

theorem lapse_entry_eq (s : State) (n : Nat) (d : DomId) : ((s.lapse n).dom d).entry = (s.dom d).entry := (lapse_sameDemand s n).dom d |>.2

theorem lapse_attempts (s : State) (n : Nat) (d : DomId) : ((s.lapse n).dom d).attempts = (s.dom d).attempts := by
  rcases lapse_dom s n d with heq | heq <;> rw [heq]
  rfl

theorem lapse_d0Held (s : State) (n : Nat) : (s.lapse n).dmc.d0Held = s.dmc.d0Held := by
  unfold State.lapse
  (repeat' split) <;> rfl

end

/-! ### Hold-off and retry -/

/-- Settles O37: the hold-off's expiry switches off what nothing wants, and the retry's queues what is wanted. -/
theorem holdOffAndRetryExpire : Obligations.HoldOffAndRetryExpire := by
  intro d s n h hr hn
  have hrW : RampSound (s.lapse n) := lapse_rampSound n hr
  have hrun : (s.lapse n).held = false := (lapse_held s n).trans h.awake
  have hresume := h.lapse_resume n
  refine ⟨fun hs hun hzero => ?holdoff, fun hs hwant => ?retry⟩
  case holdoff =>
    have hleft : s.leftHoldoff d = some n := by
      have hfree : ¬ d = 0 ∨ s.dmc.d0Held = none := or_iff_not_imp_left.2 fun hx => (hzero (not_not.1 hx)).2
      rw [State.leftHoldoff, if_pos (by simpa [hs] using hfree), hn]
    have hexec : exec (.holdoffExpiry d) s = .next ((s.lapse n).powerOff d .demandGone).demandChanged.finish :=
      timed_of_some h.awake hleft (fun s => (s.powerOff d .demandGone).demandChanged)
    have hoffs : (s.lapse n).powerOff d .demandGone = (s.lapse n).enterOff d := by
      refine powerOff_of_not_held .demandGone fun hx => ?_
      rw [lapse_reply, (hzero hx.1).1] at hx
      cases hx.2
    rw [hoffs] at hexec
    have hun' := lapse_undrawn hun n
    have hsW : ((s.lapse n).dom d).state = .holdoff := (lapse_state s n d).trans hs
    generalize s.lapse n = w at *
    have hramp := off_rampHeld hrW.held d
    have hoff : ((w.enterOff d).dom d).state = .off := by rw [enterOff_state, if_pos rfl]
    have hresumeV : (w.enterOff d).work.resume = none := (noted_resume (enterOff_noted w d)).trans hresume
    have hstate := off_of_undrawn hun' (changedAt_enterOff w d) hrun hramp
      (fun hp => hp.enterOff (hp.childrenDown_of_not_on (by simp [hsW]))) hresumeV hoff (fun h0 => enterOff_d0Held_ne h0)
    obtain ⟨hen, hattempts⟩ := off_fields (changed_rampSound hramp) hstate
    exact ⟨_, hexec, (changed_finish_frame hresumeV).trans (enterOff_frame w d), hstate, hen, hattempts⟩
  case retry =>
    have hleft : s.leftRetry d = some n := by rw [State.leftRetry, if_pos hs, hn]
    have hexec : exec (.retryExpiry d) s = .next ((s.lapse n).enterQueued d).demandChanged.finish :=
      timed_of_some h.awake hleft (fun s => (s.enterQueued d).demandChanged)
    have hwant' := lapse_drawn hwant n
    have hsW : ((s.lapse n).dom d).state = .faultWait := (lapse_state s n d).trans hs
    rw [← lapse_attempts s n d]
    generalize s.lapse n = w at *
    have hramp := enterQueued_rampHeld hrW.held d (by simp [hsW])
    have hstate : ((w.enterQueued d).dom d).state = .queued := by rw [enterQueued_state, if_pos rfl]
    have hresumeV : (w.enterQueued d).work.resume = none := (noted_resume (enterQueued_noted w d)).trans hresume
    have hhold : (w.enterQueued d).hold = w.hold := (enterQueued_hold w d).trans (setState_hold_of_down w _ _ (by rw [hsW]; rfl))
    have hquiet := quieted_of_drawn hwant' (changedAt_enterQueued w d) hrun hramp
      (fun hp => hp.enterQueued (hp.childrenDown_of_not_on (by simp [hsW]))) (fun _ => congrArg Prod.fst hhold) (by simp [hsW])
      (.inr (.inr (.inr (.inr hstate))))
    have hqueued := quieted_finish_queued hquiet hramp hresumeV hstate
    refine ⟨_, hexec, (changed_finish_frame hresumeV).trans (enterQueued_frame w d), hqueued.2, hqueued.1.trans (enterQueued_attempts w d)⟩

end Sys2Proof.Machine
end

section
/-! Ramps that complete (R26), and whom the freed slot goes to (R40, R43). Settles O34. -/

namespace Sys2Proof.Machine

/-! ### The first eligible entry in queue order (R40) -/

section
variable {p : DomId → Nat} {good : DomId → Bool} {e : DomId}

/-- The list reaches e first among what is good: what stands before it is not good, and of its priority or higher. -/
def LeadsTo (p : DomId → Nat) (good : DomId → Bool) (e : DomId) (l : List DomId) : Prop :=
  ∃ before after, l = before ++ e :: after ∧ ∀ a ∈ before, good a = false ∧ p e ≤ p a

theorem leadsTo_cons {a : DomId} {l : List DomId} (h : LeadsTo p good e l) (ha : good a = false ∧ p e ≤ p a) : LeadsTo p good e (a :: l) := by
  obtain ⟨before, after, rfl, hbefore⟩ := h
  exact ⟨a :: before, after, rfl, List.forall_mem_cons.2 ⟨ha, hbefore⟩⟩

/-- What is good in the list has a lower priority, so that e comes to stand before it. -/
theorem leadsTo_insert {l : List DomId} (h : ∀ a ∈ l, good a = true → p a < p e) : LeadsTo p good e (insertByPriority p e l) := by
  induction l with
  | nil => exact ⟨[], [], rfl, by simp⟩
  | cons a l ih =>
    obtain ⟨ha, hl⟩ := List.forall_mem_cons.1 h
    unfold insertByPriority
    split
    · exact ⟨[], a :: l, rfl, by simp⟩
    · next hlt =>
      refine leadsTo_cons (ih hl) ⟨?_, Nat.not_lt.1 hlt⟩
      rw [← Bool.not_eq_true]
      exact fun hg => hlt (ha hg)

/-- What arrives later and is good is of e's priority at most. -/
theorem leadsTo_later {l : List DomId} {f : DomId} (h : LeadsTo p good e l) (hf : good f = true → p f ≤ p e) :
    LeadsTo p good e (insertByPriority p f l) := by
  have hbad : ∀ a : DomId, p e ≤ p a → p a < p f → good f = false ∧ p e ≤ p f := fun a hea haf => by
    refine ⟨?_, by omega⟩
    rw [← Bool.not_eq_true]
    intro hg
    have := hf hg
    omega
  obtain ⟨before, after, rfl, hbefore⟩ := h
  induction before with
  | nil =>
    rw [List.nil_append, insertByPriority]
    split
    · next hlt => exact ⟨[f], after, rfl, by simpa using hbad e le_rfl hlt⟩
    · exact ⟨[], _, rfl, by simp⟩
  | cons a before ih =>
    obtain ⟨ha, hrest⟩ := List.forall_mem_cons.1 hbefore
    rw [List.cons_append, insertByPriority]
    split
    · next hlt => exact ⟨f :: a :: before, after, rfl, List.forall_mem_cons.2 ⟨hbad a ha.2 hlt, hbefore⟩⟩
    · exact leadsTo_cons (ih hrest) ha

theorem leadsTo_find {l : List DomId} (h : LeadsTo p good e l) (he : good e = true) : l.find? good = some e := by
  obtain ⟨before, after, rfl, hbefore⟩ := h
  rw [List.find?_append, List.find?_eq_none.2 fun a ha => by rw [(hbefore a ha).1]; decide, List.find?_cons_of_pos he]
  rfl

theorem mem_insertions {d : DomId} (l q : List DomId) : d ∈ l.foldl (fun q d => insertByPriority p d q) q ↔ d ∈ l ∨ d ∈ q := by
  induction l generalizing q with
  | nil => simp
  | cons x l ih =>
    rw [List.foldl_cons, ih, mem_insertByPriority_iff, List.mem_cons]
    tauto

/-- The entry of the highest priority, and among equals the first to arrive, stands first (R40). -/
theorem leadsTo_insertions {before after : List DomId} (hbefore : ∀ f ∈ before, good f = true → p f < p e)
    (hafter : ∀ f ∈ after, good f = true → p f ≤ p e) :
    LeadsTo p good e ((before ++ e :: after).foldl (fun q d => insertByPriority p d q) []) := by
  rw [List.foldl_append, List.foldl_cons]
  refine List.foldlRecOn (motive := LeadsTo p good e) after _ (leadsTo_insert fun a ha => ?_) fun q hq f hf => leadsTo_later hq (hafter f hf)
  rw [mem_insertions] at ha
  exact hbefore a (ha.resolve_right (by simp))

end

theorem nextGrant_first {s : State} {before after : List DomId} {e : DomId} (hqueue : s.rmp.queue = before ++ e :: after)
    (he : s.eligible e = true)
    (hbefore : ∀ f ∈ before, s.eligible f = true → (s.dom f).entry.rampPriority < (s.dom e).entry.rampPriority)
    (hafter : ∀ f ∈ after, s.eligible f = true → (s.dom f).entry.rampPriority ≤ (s.dom e).entry.rampPriority) : s.nextGrant = some e := by
  unfold State.nextGrant State.queueOrder
  rw [hqueue]
  exact leadsTo_find (p := fun e => (s.dom e).entry.rampPriority) (leadsTo_insertions hbefore hafter) he

theorem nextGrant_none {s : State} (h : ∀ e ∈ s.rmp.queue, ¬ s.eligible e = true) : s.nextGrant = none :=
  List.find?_eq_none.2 fun e he => h e (mem_queueOrder_iff.1 he)

/-! ### After a ramp that ends ON -/

section
variable {w : State} {d : DomId}

/-- What waits for a grant once d's ramp has completed. -/
def State.afterRamp (w : State) (d : DomId) : State := (w.setState d .on 0).refreshSub

theorem afterRamp_ready (h : ReadyToGrant w) (hd : (w.dom d).state = .ramping) (hdem : w.demand d ≠ 0) :
    ReadyToGrant (w.afterRamp d) ∧ (w.rampDone d).demandChanged.enqueueArrivals = w.afterRamp d := by
  have hcalm := h.calm.rampOn hd hdem
  have hrun : (w.setState d .on 0).held = false := (setState_alike ..).held.trans h.running
  obtain ⟨hready, -⟩ := h.rampDone hd hdem
  have heq : (w.rampDone d).demandChanged = w.afterRamp d := by
    rw [rampDone_wanted hdem, demandChanged_of_calm hcalm hrun, State.afterRamp]
  have hqueued : RampSound (w.afterRamp d) := by
    have hramp : RampHeld (w.afterRamp d) := heq ▸ RampHeld.closed.demandChanged (rampDone_rampHeld h.ramp.held d hd)
    refine hramp.sound fun e he => ?_
    rw [State.afterRamp, refreshSub_dom, setState_state] at he
    rw [State.afterRamp, power_rmp (refreshSub_power _), setState_rmp, if_neg (by rw [hd]; decide)]
    split at he
    · cases he
    · exact (h.ramp.queued e).1 he
  rw [heq, enqueueArrivals_of_queued hqueued] at hready
  exact ⟨hready, by rw [heq, enqueueArrivals_of_queued hqueued]⟩

theorem afterRamp_slotFree (h : RampSound w) (hd : (w.dom d).state = .ramping) : (w.afterRamp d).slotFree = true := by
  have hslots := (h.slots d).1 hd
  unfold State.slotFree State.afterRamp
  rw [power_rmp (refreshSub_power _), setState_rmp]
  rcases hslots with hslot | hslot <;> simp [hd, hslot]

theorem afterRamp_queue (hd : (w.dom d).state = .ramping) : (w.afterRamp d).rmp.queue = w.rmp.queue := by
  rw [State.afterRamp, power_rmp (refreshSub_power _), setState_rmp, if_neg (by rw [hd]; decide)]

theorem afterRamp_entry (w : State) (d e : DomId) : ((w.afterRamp d).dom e).entry = (w.dom e).entry := by
  rw [State.afterRamp, refreshSub_dom]
  exact (setState_alike w d .on 0).entry e

theorem afterRamp_eligible (w : State) (d e : DomId) : (w.afterRamp d).eligible e = true ↔
    (w.dom e).entry.parent = none ∨ ∃ q, (w.dom e).entry.parent = some q ∧ (q = d ∨ (w.dom q).state = .on) := by
  have hstate : ∀ q, ((w.afterRamp d).dom q).state = .on ↔ q = d ∨ (w.dom q).state = .on := by
    intro q
    rw [State.afterRamp, refreshSub_dom, setState_state]
    by_cases hq : q = d <;> simp [hq]
  rw [eligible_iff]
  simp only [afterRamp_entry, hstate]
  cases (w.dom e).entry.parent <;> simp

end

theorem finish_rmp (s : State) : s.finish.rmp = s.ramped.rmp := by
  have howners : ∀ u : State, u.refreshOwners.rmp = u.rmp := fun u => by
    unfold State.refreshOwners
    exact foldl_keeps State.rmp (fun t d => t.updDom d (fun x => { x with owner := u.ownerOf d })) (fun _ _ => rfl) _ u
  have hend : ∀ u : State, u.endEvent.rmp = u.rmp := fun u => rfl
  have hsessions : ∀ u : State, u.refreshSessions.rmp = u.rmp := fun u => rfl
  rw [finish_eq, hend, power_rmp (refreshAttn_power _), State.beforeAttn, power_rmp (refreshSub_power _), howners, hsessions,
    power_rmp (recordBlocked_power _)]

section
variable {w : State} {d : DomId}

theorem afterRamp_ramped (h : ReadyToGrant w) (hd : (w.dom d).state = .ramping) (hdem : w.demand d ≠ 0) (hw : w.work.resume = none) :
    (w.rampDone d).demandChanged.ramped = State.grants 12 (w.afterRamp d) := by
  have hpowering : Powering (w.rampDone d) := ⟨rampDone_rampHeld h.ramp.held d hd, h.power.rampDone hd,
    (base_held (deep_base (rampDone_deep w d))).trans h.running⟩
  have hresume : (w.rampDone d).demandChanged.work.resume = none := by
    rw [demandChanged_resume, noted_resume (rampDone_noted w d)]
    exact hw
  rw [(calm_ramped hpowering.demandChanged (demandChanged_calm hpowering) hresume).1, (afterRamp_ready h hd hdem).2]

/-- With no entry eligible the queue stays as it is (R43). -/
theorem afterRamp_keepsQueue (h : ReadyToGrant w) (hd : (w.dom d).state = .ramping) (hdem : w.demand d ≠ 0) (hw : w.work.resume = none)
    (hnone : ∀ e ∈ w.rmp.queue, ¬ (w.afterRamp d).eligible e = true) : (w.rampDone d).demandChanged.finish.rmp.queue = w.rmp.queue := by
  have hgrant : (w.afterRamp d).nextGrant = none := nextGrant_none (by rw [afterRamp_queue hd]; exact hnone)
  have hgrants : State.grants 12 (w.afterRamp d) = w.afterRamp d := by
    unfold State.grants
    rw [if_pos (afterRamp_slotFree h.ramp hd), hgrant]
  rw [finish_rmp, afterRamp_ramped h hd hdem hw, hgrants, afterRamp_queue hd]

/-- The first eligible entry is served (R43). -/
theorem afterRamp_serves (h : ReadyToGrant w) (hd : (w.dom d).state = .ramping) (hdem : w.demand d ≠ 0) (hw : w.work.resume = none)
    {e : DomId} (he : (w.afterRamp d).nextGrant = some e) :
    e ∉ (w.rampDone d).demandChanged.finish.rmp.queue ∧
      ((((w.rampDone d).demandChanged.finish.dom e).state = .ramping ∧
        ((w.rampDone d).demandChanged.finish.dom e).timer = (w.dom e).entry.rampTimeout) ∨
        ((w.rampDone d).demandChanged.finish.dom e).state = .on) := by
  obtain ⟨hready, -⟩ := afterRamp_ready h hd hdem
  have hfree := afterRamp_slotFree h.ramp hd
  have hq : ((w.afterRamp d).dom e).state = .queued := (hready.ramp.queued e).2 (mem_queueOrder (List.mem_of_find?_eq_some he))
  have hel := List.find?_some he
  have hserved := hready.grantAndRamp_served hq hel hfree
  have hgrants : State.grants 12 (w.afterRamp d) = State.grants 11 ((w.afterRamp d).grantAndRamp e) := by
    rw [State.grants, if_pos hfree, he]
  have hdom : (State.grants 12 (w.afterRamp d)).dom e = ((w.afterRamp d).grantAndRamp e).dom e := by
    rw [hgrants]
    exact (hready.grantAndRamp hq hel hfree).1.grants_dom 11 (served_ne_queued hserved)
  have hfinish := finish_dom (w.rampDone d).demandChanged e
  rw [afterRamp_ramped h hd hdem hw, hdom] at hfinish
  obtain ⟨hstate, -, htimer, -⟩ := fields_of_owner hfinish
  have hsound := changed_rampSound (rampDone_rampHeld h.ramp.held d hd)
  refine ⟨fun hmem => ?_, ?_⟩
  · refine served_ne_queued hserved ?_
    rw [← hstate]
    exact (hsound.queued e).2 hmem
  · rw [hstate, htimer, ← afterRamp_entry w d e]
    exact hserved.2

end

/-- Settles O34: the slot goes by the queue order of the entries that are eligible once the domain is ON. -/
theorem rampCompletes : Obligations.RampCompletes := by
  intro d s n h hr hd hpg hn eligible priority
  have hleft : s.leftRampComplete d = some n := by
    rw [State.leftRampComplete, if_pos (by simp [hd, hpg]), hn]
  have hexec : exec (.rampComplete d) s = .next ((s.lapse n).rampDone d).demandChanged.finish :=
    timed_of_some h.awake hleft (fun s => (s.rampDone d).demandChanged)
  have hrW : RampSound (s.lapse n) := lapse_rampSound n hr
  have hrun : (s.lapse n).held = false := (lapse_held s n).trans h.awake
  have hresume := h.lapse_resume n
  have hdW : ((s.lapse n).dom d).state = .ramping := (lapse_state s n d).trans hd
  have hramp : RampHeld ((s.lapse n).rampDone d) := rampDone_rampHeld hrW.held d hdW
  have hresumeV : ((s.lapse n).rampDone d).work.resume = none := (noted_resume (rampDone_noted _ d)).trans hresume
  have hheld : ∀ st t, ((s.lapse n).setState d st t).dmc.d0Held = (s.lapse n).dmc.d0Held := fun st t =>
    congrArg Prod.fst (setState_hold_of_down (s.lapse n) _ _ (by rw [hdW]; rfl))
  have hframe := changed_finish_frame hresumeV
  have hsound := changed_rampSound hramp
  refine ⟨fun hwant => ?wanted, fun hun hoff => ?holdoff, fun hun hoff => ?off⟩
  case wanted =>
    have hdrawn := lapse_drawn hwant n
    have hdem := demand_of_drawn hdrawn
    have hdone := rampDone_wanted hdem
    have hqueue : (s.lapse n).rmp = s.rmp := lapse_rmp s n
    have hready : ModeSound s → TreeSound s → DemandSound s → ReadyToGrant (s.lapse n) := fun hm ht hds => by
      obtain ⟨hpower, hcalm⟩ := (PowerSound.mk hm ht hds).lapse n
      exact ⟨hrW, hpower, hcalm, hrun⟩
    have hel : ∀ e, ((s.lapse n).afterRamp d).eligible e = true ↔ eligible e := fun e => by
      rw [afterRamp_eligible]
      simp only [lapse_entry_eq, lapse_state]
      exact Iff.rfl
    have hpriority : ∀ e, (((s.lapse n).afterRamp d).dom e).entry.rampPriority = priority e := fun e => by
      rw [afterRamp_entry, lapse_entry_eq]
    have htimeout : ∀ e, ((s.lapse n).dom e).entry.rampTimeout = (s.dom e).entry.rampTimeout := fun e => by rw [lapse_entry_eq]
    rw [← lapse_attempts s n d]
    have hquiet : Quieted ((s.lapse n).setState d .on 0) d := quieted_of_drawn hdrawn (changedAt_setState ..) hrun (hdone ▸ hramp)
      (fun hp => hdone ▸ hp.rampDone hdW) (fun _ => hheld .on 0) (by rw [hdW]; decide) (.inl (by rw [setState_state, if_pos rfl]))
    have hdom := quieted_finish_dom hquiet (hdone ▸ hramp) (hdone ▸ hresumeV) (by rw [setState_state, if_pos rfl]; decide)
    rw [setState_dom, if_pos rfl, ← hdone] at hdom
    obtain ⟨hstate, hen, htimer, hattempts, -⟩ := fields_of_owner hdom
    have hslots : ¬ ((((s.lapse n).rampDone d).demandChanged.finish.rmp.slotA = some d) ∨
        (((s.lapse n).rampDone d).demandChanged.finish.rmp.slotB = some d)) := fun hx => by
      have hramping := (hsound.slots d).2 hx
      rw [hstate] at hramping
      cases hramping
    rw [not_or] at hslots
    refine ⟨_, hexec, hframe.trans ?_, hstate, hen, htimer, hattempts, hslots.1, hslots.2, fun hm ht hds => ⟨fun hnone => ?_,
      fun before e after hsplit he hbefore hafter => ?_⟩⟩
    · rw [hdone]
      exact setState_frame ..
    · rw [afterRamp_keepsQueue (hready hm ht hds) hdW hdem hresume fun e he => ?_, hqueue]
      rw [hel]
      exact hnone e (hqueue ▸ he)
    · have hnext : ((s.lapse n).afterRamp d).nextGrant = some e := by
        refine nextGrant_first ((afterRamp_queue hdW).trans ((congrArg Rmp.queue hqueue).trans hsplit)) ((hel e).2 he) (fun f hf hg => ?_)
          (fun f hf hg => ?_)
        · rw [hpriority, hpriority]
          exact hbefore f hf ((hel f).1 hg)
        · rw [hpriority, hpriority]
          exact hafter f hf ((hel f).1 hg)
      rw [← htimeout]
      exact afterRamp_serves (hready hm ht hds) hdW hdem hresume hnext
  case holdoff =>
    have hundrawn := lapse_undrawn hun n
    have hdone : (s.lapse n).rampDone d = (s.lapse n).setState d .holdoff ((s.dom d).entry.holdOff * 1000) := by
      rw [State.rampDone, if_neg (by simp [demand_of_undrawn hundrawn]), if_neg (by rw [lapse_entry_eq]; exact hoff), State.enterHoldoff,
        lapse_entry_eq]
    have hquiet : Quieted ((s.lapse n).setState d .holdoff ((s.dom d).entry.holdOff * 1000)) d := quieted_of_undrawn hundrawn
      (changedAt_setState ..) hrun (hdone ▸ hramp) (fun hp => hdone ▸ hp.rampDone hdW) (fun _ => hheld _ _) (by rw [hdW]; decide)
      (by rw [setState_state, if_pos rfl])
    have hdom := quieted_finish_dom hquiet (hdone ▸ hramp) (hdone ▸ hresumeV) (by rw [setState_state, if_pos rfl]; decide)
    rw [setState_dom, if_pos rfl, ← hdone] at hdom
    obtain ⟨hstate, hen, htimer, -⟩ := fields_of_owner hdom
    refine ⟨_, hexec, hframe.trans ?_, hstate, hen, htimer⟩
    rw [hdone]
    exact setState_frame ..
  case off =>
    have hundrawn := lapse_undrawn hun n
    have hdone : (s.lapse n).rampDone d = (s.lapse n).enterOff d := by
      rw [State.rampDone, if_neg (by simp [demand_of_undrawn hundrawn]), if_pos (by rw [lapse_entry_eq]; exact hoff)]
    have hstate := off_of_undrawn (v := (s.lapse n).rampDone d) hundrawn (hdone ▸ changedAt_enterOff _ d) hrun hramp
      (fun hp => hp.rampDone hdW) hresumeV (by rw [hdone, enterOff_state, if_pos rfl]) (fun h0 => hdone ▸ enterOff_d0Held_ne h0)
    obtain ⟨hen, hattempts⟩ := off_fields hsound hstate
    refine ⟨_, hexec, hframe.trans ?_, hstate, hen, hattempts⟩
    rw [hdone]
    exact enterOff_frame ..

end Sys2Proof.Machine
end

section
/-! Failures of a domain (R27, R36): the count, the states it may lead to, and the report of QUEUED children at a latch (R25). Settles O35. -/

namespace Sys2Proof.Machine

/-! ### The failure is counted (R36) -/

section
variable {s : State} {d : DomId} {k : Nat}

theorem countFault_dom_eq (s : State) (d e : DomId) (k : Nat) :
    (s.countFault d k).dom e = if e = d then { s.dom d with attempts := (s.dom d).attempts + 1 } else s.dom e := by
  unfold State.countFault
  dsimp only
  rw [power_dom (record_power ..) e, dom_updDom]

theorem countFault_alike (s : State) (d : DomId) (k : Nat) : Alike (s.countFault d k) s :=
  alike_of_deep (countFault_deep ..) (congrArg Ssc.sessions ((Domestic.sameSessions s.ssc).countFault d k rfl))

theorem countFault_frame (s : State) (d : DomId) (k : Nat) : (s.countFault d k).frame = s.frame :=
  frame_of (countFault_deep ..) (table_of_ssc ((Domestic.sameSessions s.ssc).countFault d k rfl))
    ((Domestic.sameApproach s.apq).countFault d k rfl)

theorem countFault_hold (s : State) (d : DomId) (k : Nat) : (s.countFault d k).hold = s.hold := record_hold ..

theorem countFault_resume (s : State) (d : DomId) (k : Nat) : (s.countFault d k).work.resume = s.work.resume := record_resume ..

theorem countFault_demand (s : State) (d e : DomId) (k : Nat) : (s.countFault d k).demand e = s.demand e :=
  (countFault_alike s d k).demand fun c _ => by rw [(countFault_dom s d c k).1]

theorem Holds.countFault {es : List Event} (h : Holds es s) (hlen : es.length < 24) (d : DomId) (k : Nat) :
    Holds (es ++ [s.recordOf .domainFault d.val k (some ((s.dom d).attempts + 1))]) (s.countFault d k) := by
  have hattempts : ((s.updDom d (fun x => { x with attempts := x.attempts + 1 })).dom d).attempts = (s.dom d).attempts + 1 := by
    rw [dom_updDom, if_pos rfl]
  have hrecord := (h.same (t := s.updDom d (fun x => { x with attempts := x.attempts + 1 })) rfl rfl).record hlen .domainFault d.val k
    (some ((s.updDom d (fun x => { x with attempts := x.attempts + 1 })).dom d).attempts)
  rw [hattempts] at hrecord
  unfold State.countFault
  dsimp only
  rw [hattempts]
  exact hrecord

/-! ### Where the failure leads (R27) -/

theorem afterFault_off (h : s.demand d = 0) : s.afterFault d = s.enterOff d := if_pos h

theorem afterFault_wait (h : s.demand d ≠ 0) (ha : (s.dom d).attempts < 3) :
    s.afterFault d = s.setState d .faultWait ((s.dom d).entry.retryDelay * 1000) := by
  rw [State.afterFault, if_neg h, if_pos ha]

theorem afterFault_latch (h : s.demand d ≠ 0) (ha : (s.dom d).attempts = 3) :
    s.afterFault d = (s.enterLatched d).record .domainFault d.val 2 (some 3) := by
  rw [State.afterFault, if_neg h, if_neg (by omega), ha]

theorem changedAt_countFault (s : State) (d : DomId) (k : Nat) : ChangedAt (s.countFault d k) s d :=
  ⟨countFault_alike s d k, fun e _ => (countFault_dom s d e k).1⟩

/-! ### A latch reports QUEUED children (R25) -/

/-- The domain with its dependency-reported flag set. -/
def Domain.reported (x : Domain) : Domain := { x with depReported := true }

/-- Is c a QUEUED child of d? -/
def State.queuedChild (s : State) (d c : DomId) : Bool := (s.dom c).entry.parent == some d && (s.dom c).state == .queued

/-- One domain's part of the report. -/
def State.reportChild (d : DomId) (s : State) (c : DomId) : State := if s.queuedChild d c then s.noteBlocked c else s

theorem enterLatched_eq (s : State) (d : DomId) : s.enterLatched d = domIds.foldl (State.reportChild d) (s.setState d .latched 0) := rfl

theorem noteBlocked_dom (s : State) (c e : DomId) :
    (s.noteBlocked c).dom e = if e = c then (s.dom c).reported else s.dom e := by
  unfold State.noteBlocked
  split
  · next h =>
    split
    · next he =>
      rw [he]
      cases hc : s.dom c
      rw [hc] at h
      simp_all [Domain.reported]
    · rfl
  · show (s.updDom c Domain.reported).dom e = _
    rw [dom_updDom]

theorem noteBlocked_blocked (s : State) (c e : DomId) :
    e ∈ (s.noteBlocked c).work.blocked ↔ e ∈ s.work.blocked ∨ (e = c ∧ (s.dom c).depReported = false) := by
  unfold State.noteBlocked
  split
  · next h => simp [h]
  · next h =>
    show e ∈ c :: s.work.blocked ↔ _
    rw [List.mem_cons]
    simp [h, or_comm]

theorem reportChild_dom (s : State) (d c e : DomId) :
    (s.reportChild d c).dom e = if e = c ∧ s.queuedChild d c = true then (s.dom e).reported else s.dom e := by
  unfold State.reportChild
  split
  · next h =>
    rw [noteBlocked_dom]
    by_cases he : e = c
    · subst he
      simp [h]
    · simp [he]
  · next h => simp [h]

theorem reportChild_queuedChild (s : State) (d c e : DomId) : (s.reportChild d c).queuedChild d e = s.queuedChild d e := by
  unfold State.queuedChild
  rw [reportChild_dom]
  split <;> rfl

theorem reportChildren_dom (l : List DomId) (s : State) (d e : DomId) :
    (l.foldl (State.reportChild d) s).dom e = if e ∈ l ∧ s.queuedChild d e = true then (s.dom e).reported else s.dom e := by
  induction l generalizing s with
  | nil => simp
  | cons c l ih =>
    rw [List.foldl_cons, ih, reportChild_queuedChild, reportChild_dom]
    by_cases hq : s.queuedChild d e = true
    · by_cases hec : e = c
      · subst hec
        simp [hq, Domain.reported]
      · simp [hq, hec]
    · have hnot : ¬ (e = c ∧ s.queuedChild d c = true) := fun hx => hq (hx.1 ▸ hx.2)
      simp [hq, hnot]

theorem reportChildren_blocked (l : List DomId) (s : State) (d e : DomId) : e ∈ (l.foldl (State.reportChild d) s).work.blocked ↔
    e ∈ s.work.blocked ∨ (e ∈ l ∧ s.queuedChild d e = true ∧ (s.dom e).depReported = false) := by
  have hstep : ∀ u c, e ∈ (State.reportChild d u c).work.blocked ↔
      e ∈ u.work.blocked ∨ (e = c ∧ u.queuedChild d c = true ∧ (u.dom c).depReported = false) := by
    intro u c
    unfold State.reportChild
    split
    · next h =>
      rw [noteBlocked_blocked]
      simp [h]
    · next h => simp [h]
  induction l generalizing s with
  | nil => simp
  | cons c l ih =>
    rw [List.foldl_cons]
    refine (ih _).trans ?_
    rw [hstep, reportChild_queuedChild, reportChild_dom, List.mem_cons]
    by_cases hec : e = c
    · subst hec
      by_cases hq : s.queuedChild d e = true <;> simp [hq, Domain.reported]
    · simp [hec]

theorem reportChildren_noted (l : List DomId) (s : State) (d : DomId) : (l.foldl (State.reportChild d) s).noted = s.noted :=
  foldl_keeps State.noted (State.reportChild d) (fun u c => by
    unfold State.reportChild
    split
    · exact noteBlocked_noted u c
    · rfl) l s

theorem reportChildren_hold (l : List DomId) (s : State) (d : DomId) : (l.foldl (State.reportChild d) s).hold = s.hold :=
  foldl_keeps State.hold (State.reportChild d) (fun u c => by
    unfold State.reportChild State.noteBlocked
    (repeat' split) <;> rfl) l s

theorem enterLatched_noted (s : State) (d : DomId) : (s.enterLatched d).noted = s.noted := by
  rw [enterLatched_eq, reportChildren_noted]
  exact setState_noted s d .latched 0

theorem enterLatched_hold (s : State) (d : DomId) : (s.enterLatched d).hold = (s.setState d .latched 0).hold := by
  rw [enterLatched_eq, reportChildren_hold]

theorem enterLatched_frame (s : State) (d : DomId) : (s.enterLatched d).frame = s.frame :=
  frame_of (enterLatched_deep ..) (table_of_ssc ((Domestic.sameSessions s.ssc).enterLatched d rfl))
    ((Domestic.sameApproach s.apq).enterLatched d rfl)

theorem enterLatched_alike (s : State) (d : DomId) : Alike (s.enterLatched d) s :=
  alike_of_deep (enterLatched_deep ..) (congrArg Ssc.sessions ((Domestic.sameSessions s.ssc).enterLatched d rfl))

/-- The latched domain itself. -/
theorem enterLatched_dom_self (s : State) (d : DomId) :
    (s.enterLatched d).dom d = { s.dom d with state := .latched, en := false, timer := 0 } := by
  have hself : (s.setState d .latched 0).queuedChild d d = false := by
    simp [State.queuedChild]
  rw [enterLatched_eq, reportChildren_dom, hself, if_neg (by simp), setState_dom, if_pos rfl]
  rfl

theorem enterLatched_dom_ne (s : State) {d e : DomId} (h : e ≠ d) : (s.enterLatched d).dom e =
    if s.queuedChild d e = true then (s.dom e).reported else s.dom e := by
  have hdom : (s.setState d .latched 0).dom e = s.dom e := by rw [setState_dom, if_neg h]
  have hchild : (s.setState d .latched 0).queuedChild d e = s.queuedChild d e := by
    unfold State.queuedChild
    rw [hdom]
  rw [enterLatched_eq, reportChildren_dom, hchild, hdom]
  simp [mem_domIds]

theorem changedAt_enterLatched (s : State) (d : DomId) : ChangedAt (s.enterLatched d) s d := by
  refine ⟨enterLatched_alike s d, fun e he => ?_⟩
  rw [enterLatched_dom_ne s he]
  split <;> rfl

end

/-! ### A child whose parent is not ON waits (R42) -/

section
variable {s : State}

theorem ReadyToGrant.grants_waits (h : ReadyToGrant s) (n : Nat) {c p : DomId} (hp : (s.dom c).entry.parent = some p)
    (hon : (s.dom p).state ≠ .on) (hq : (s.dom p).state ≠ .queued) : (State.grants n s).dom c = s.dom c := by
  induction n generalizing s with
  | zero => rfl
  | succ n ih =>
    unfold State.grants
    split
    · next hf =>
      split
      · next d hd =>
        have hqd : (s.dom d).state = .queued := (h.ramp.queued d).2 (mem_queueOrder (List.mem_of_find?_eq_some hd))
        have hel := List.find?_some hd
        have hcd : c ≠ d := by
          rintro rfl
          exact hon ((eligible_iff s c).1 hel p hp)
        have hpd : p ≠ d := fun hx => hq (hx ▸ hqd)
        have hc := h.grantAndRamp_dom_ne hqd hel hf hcd
        have hparent := h.grantAndRamp_dom_ne hqd hel hf hpd
        rw [ih (h.grantAndRamp hqd hel hf).1 (by rw [hc]; exact hp) (by rw [hparent]; exact hon) (by rw [hparent]; exact hq), hc]
      · rfl
    · rfl

theorem setState_work (s : State) (d : DomId) (n : DomState) (t : Nat) : (s.setState d n t).work = s.work := by
  unfold State.setState State.linkFollows
  dsimp only
  (repeat' split) <;> rfl

theorem refreshSub_work (s : State) : s.refreshSub.work = s.work := by
  obtain ⟨c, -, heq⟩ := refreshSub_eq s
  rw [heq]

theorem grant_work (s : State) (d : DomId) : (s.grant d).work = s.work := by
  have hset := setState_work s d .ramping (s.dom d).entry.rampTimeout
  unfold State.grant
  dsimp only
  split <;> exact hset

/-- Grants to QUEUED domains among calm ones report no child. -/
theorem ReadyToGrant.grants_work (h : ReadyToGrant s) (n : Nat) : (State.grants n s).work = s.work := by
  induction n generalizing s with
  | zero => rfl
  | succ n ih =>
    unfold State.grants
    split
    · next hf =>
      split
      · next d hd =>
        have hqd : (s.dom d).state = .queued := (h.ramp.queued d).2 (mem_queueOrder (List.mem_of_find?_eq_some hd))
        have hel := List.find?_some hd
        rw [ih (h.grantAndRamp hqd hel hf).1]
        rcases h.grantAndRamp_eq hqd hel hf with heq | heq
        · rw [heq, grant_work]
        · rw [heq, enqueueArrivals_work, refreshSub_work, setState_work, grant_work]
      · rfl
    · rfl

end

/-! ### The reports at the end of the event (R25) -/

section
variable {s u : State} {es : List Event}

/-- DEPENDENCY_BLOCKED of a child, its parent's index as detail. -/
def State.blockedRecord (s : State) (c : DomId) : Event :=
  s.recordOf .dependencyBlocked c.val (match (s.dom c).entry.parent with | some p => p.val | none => 255) none

/-- One domain's part of the reports. -/
def State.recordMark (marks : List DomId) (s : State) (c : DomId) : State :=
  if marks.contains c then
    s.record .dependencyBlocked c.val (match (s.dom c).entry.parent with | some p => p.val | none => 255) none
  else s

theorem recordBlocked_eq (s : State) :
    s.recordBlocked = domIds.foldl (State.recordMark s.work.blocked) { s with work.blocked := [] } := rfl

theorem recordMarks_holds {marks : List DomId} (l : List DomId) (hdom : ∀ c, u.dom c = s.dom c) (hseconds : u.wsc.seconds = s.wsc.seconds)
    (h : Holds es u) (hroom : es.length + (l.filter marks.contains).length ≤ 24) :
    Holds (es ++ (l.filter marks.contains).map s.blockedRecord) (l.foldl (State.recordMark marks) u) := by
  induction l generalizing es u with
  | nil => simpa using h
  | cons c l ih =>
    rw [List.foldl_cons]
    by_cases hm : marks.contains c = true
    · rw [List.filter_cons_of_pos hm, List.length_cons] at hroom
      rw [List.filter_cons_of_pos hm, List.map_cons]
      have hstep : State.recordMark marks u c = u.record .dependencyBlocked c.val
          (match (u.dom c).entry.parent with | some p => p.val | none => 255) none := if_pos hm
      have hrecord := h.record (by omega) .dependencyBlocked c.val (match (u.dom c).entry.parent with | some p => p.val | none => 255) none
      have hstamp : u.recordOf .dependencyBlocked c.val (match (u.dom c).entry.parent with | some p => p.val | none => 255) none =
          s.blockedRecord c := by
        rw [hdom, recordOf_congr hseconds]
        rfl
      rw [hstamp, ← hstep] at hrecord
      have hrest := ih (u := State.recordMark marks u c) (fun e => ?_) ?_ hrecord (by rw [List.length_append, List.length_singleton]; omega)
      · rwa [List.append_assoc, List.singleton_append] at hrest
      · rw [hstep, power_dom (record_power ..), hdom]
      · rw [hstep, deep_wsc (record_deep ..), hseconds]
    · have hstep : State.recordMark marks u c = u := if_neg hm
      rw [List.filter_cons_of_neg hm] at hroom ⊢
      rw [hstep]
      exact ih hdom hseconds h hroom

theorem Holds.recordBlocked (h : Holds es s) (hroom : es.length + (domIds.filter s.work.blocked.contains).length ≤ 24) :
    Holds (es ++ (domIds.filter s.work.blocked.contains).map s.blockedRecord) s.recordBlocked := by
  rw [recordBlocked_eq]
  exact recordMarks_holds (u := { s with work.blocked := [] }) domIds (fun _ => rfl) rfl (h.same rfl rfl) hroom

theorem finish_events_blocked (s : State) : s.finish.evq.events = s.ramped.recordBlocked.evq.events := by
  have hsessions : ∀ u : State, u.refreshSessions.evq = u.evq := fun u => rfl
  have howners : ∀ u : State, u.refreshOwners.evq = u.evq := fun u => by
    obtain ⟨v, heq⟩ := refreshOwners_same u
    rw [heq]
  rw [finish_events, State.beforeAttn, noted_events (refreshSub_noted _), howners, hsessions]

end

end Sys2Proof.Machine
end

section
/-! Where a failure leaves a domain at the event's end (R27, R36), and what a latch reports (R25). Settles O35. -/

namespace Sys2Proof.Machine

theorem record_blocked (s : State) (k : RecordKind) (a b : Nat) (v : Option Nat) : (s.record k a b v).work.blocked = s.work.blocked := by
  unfold State.record State.noteAppend
  dsimp only
  (repeat' split) <;> rfl

section
variable {c : State} {d : DomId}

theorem afterFault_noted_of_plain (h : c.demand d = 0 ∨ (c.dom d).attempts < 3) : (c.afterFault d).noted = c.noted := by
  unfold State.afterFault
  split
  · exact enterOff_noted c d
  · next hdem =>
    rw [if_pos (h.resolve_left hdem)]
    exact setState_noted ..

theorem afterFault_resume (c : State) (d : DomId) : (c.afterFault d).work.resume = c.work.resume := by
  unfold State.afterFault
  split
  · exact noted_resume (enterOff_noted c d)
  · split
    · exact noted_resume (setState_noted ..)
    · exact (record_resume ..).trans (noted_resume (enterLatched_noted c d))

theorem afterFault_frame (c : State) (d : DomId) : (c.afterFault d).frame = c.frame :=
  frame_of (afterFault_deep ..) (table_of_ssc ((Domestic.sameSessions c.ssc).afterFault d rfl)) ((Domestic.sameApproach c.apq).afterFault d rfl)

/-- The failure leads to FAULT_WAIT, and there the domain stays (R27). -/
theorem fault_waits (hdem : c.demand d ≠ 0) (ha : (c.dom d).attempts < 3) (hq : Quieted (c.afterFault d) d)
    (hr : RampHeld (c.afterFault d)) (hw : c.work.resume = none) :
    ((c.afterFault d).demandChanged.finish.dom d).state = .faultWait ∧ ((c.afterFault d).demandChanged.finish.dom d).en = false ∧
    ((c.afterFault d).demandChanged.finish.dom d).timer = (c.dom d).entry.retryDelay * 1000 ∧
    ((c.afterFault d).demandChanged.finish.dom d).attempts = (c.dom d).attempts := by
  have hown : (c.afterFault d).dom d = { c.dom d with state := .faultWait, en := false, timer := (c.dom d).entry.retryDelay * 1000 } := by
    rw [afterFault_wait hdem ha, setState_dom, if_pos rfl]
    rfl
  have hdom := quieted_finish_dom hq hr ((afterFault_resume c d).trans hw) (fun hx => by rw [hown] at hx; cases hx)
  rw [hown] at hdom
  obtain ⟨hstate, hen, htimer, hattempts, -⟩ := fields_of_owner hdom
  exact ⟨hstate, hen, htimer, hattempts⟩

theorem latch_dom (hdem : c.demand d ≠ 0) (ha : (c.dom d).attempts = 3) (e : DomId) :
    (c.afterFault d).dom e = (c.enterLatched d).dom e := by
  rw [afterFault_latch hdem ha, power_dom (record_power ..)]

/-- The failure leads to LATCHED. -/
theorem fault_latches (hdem : c.demand d ≠ 0) (ha : (c.dom d).attempts = 3) (hq : Quieted (c.afterFault d) d)
    (hr : RampHeld (c.afterFault d)) (hw : c.work.resume = none) :
    ((c.afterFault d).demandChanged.finish.dom d).state = .latched ∧ ((c.afterFault d).demandChanged.finish.dom d).en = false ∧
    ((c.afterFault d).demandChanged.finish.dom d).attempts = 3 := by
  have hown : (c.afterFault d).dom d = { c.dom d with state := .latched, en := false, timer := 0 } :=
    (latch_dom hdem ha d).trans (enterLatched_dom_self c d)
  have hdom := quieted_finish_dom hq hr ((afterFault_resume c d).trans hw) (fun hx => by rw [hown] at hx; cases hx)
  rw [hown] at hdom
  obtain ⟨hstate, hen, -, hattempts, -⟩ := fields_of_owner hdom
  exact ⟨hstate, hen, hattempts.trans ha⟩

/-- The second record of a latch (R36). -/
theorem latch_holds {es : List Event} (hdem : c.demand d ≠ 0) (ha : (c.dom d).attempts = 3) (h : Holds es c) (hlen : es.length < 24) :
    Holds (es ++ [c.recordOf .domainFault d.val 2 (some 3)]) (c.afterFault d) := by
  have hsame : Holds es (c.enterLatched d) := h.noted (enterLatched_noted c d)
  have hseconds : (c.enterLatched d).wsc.seconds = c.wsc.seconds := congrArg Wsc.seconds (deep_wsc (enterLatched_deep c d))
  have hrecord := hsame.record hlen .domainFault d.val 2 (some 3)
  rw [recordOf_congr hseconds] at hrecord
  rw [afterFault_latch hdem ha]
  exact hrecord

/-! ### What a latch does to the children, every domain being calm -/

/-- The state in which the event's grants end. -/
theorem changed_ramped {v : State} (hp : Powering v) (hc : AllCalm v) (hw : v.work.resume = none) :
    v.demandChanged.ramped = State.grants 12 v.refreshSub.enqueueArrivals ∧ ReadyToGrant v.refreshSub.enqueueArrivals := by
  have heq := demandChanged_of_calm hc hp.2.2
  have hramped := calm_ramped hp.demandChanged (demandChanged_calm hp) ((demandChanged_resume v).trans hw)
  rwa [heq] at hramped ⊢

theorem latch_children {v : State} (hp : Powering v) (hc : AllCalm v) (hw : v.work.resume = none) (hd : (v.dom d).state = .latched)
    {e : DomId} (hparent : (v.dom e).entry.parent = some d) :
    v.demandChanged.finish.dom e = { v.dom e with owner := (v.demandChanged.finish.dom e).owner } := by
  obtain ⟨hramped, hready⟩ := changed_ramped hp hc hw
  have hsame : ∀ x, v.refreshSub.enqueueArrivals.dom x = v.dom x := fun x => by rw [enqueueArrivals_dom, refreshSub_dom]
  rw [finish_dom, hramped, hready.grants_waits 12 (c := e) (p := d) (by rw [hsame]; exact hparent) (by rw [hsame, hd]; decide)
    (by rw [hsame, hd]; decide), hsame]

/-- The event records what it has noted of blocked children, and nothing else at its end. -/
theorem calm_finish_events {v : State} {es : List Event} (hp : Powering v) (hc : AllCalm v) (hw : v.work.resume = none) (h : Holds es v)
    (hroom : es.length + (domIds.filter v.work.blocked.contains).length ≤ 24) :
    v.demandChanged.finish.evq.events = es ++ (domIds.filter v.work.blocked.contains).map v.blockedRecord := by
  obtain ⟨hramped, hready⟩ := changed_ramped hp hc hw
  have hresume : v.demandChanged.work.resume = none := (demandChanged_resume v).trans hw
  have hnoted : v.demandChanged.ramped.noted = v.noted := (ramped_noted hresume).trans (demandChanged_noted v)
  have hwork : v.demandChanged.ramped.work = v.work := by
    rw [hramped, hready.grants_work, enqueueArrivals_work, refreshSub_work]
  have hdeep : v.demandChanged.ramped.deep = v.deep := by
    rw [hramped, grants_deep, enqueueArrivals_deep, refreshSub_deep]
  have hrecord : ∀ e, v.demandChanged.ramped.blockedRecord e = v.blockedRecord e := fun e => by
    unfold State.blockedRecord
    rw [base_entry (deep_base hdeep), recordOf_congr (congrArg Wsc.seconds (deep_wsc hdeep))]
  have hholds : Holds es v.demandChanged.ramped := h.noted hnoted
  rw [finish_events_blocked]
  generalize v.demandChanged.ramped = u at hwork hrecord hholds
  have hblocked := hholds.recordBlocked (by rw [hwork]; exact hroom)
  rw [hblocked.1, hwork, List.map_congr_left fun e _ => hrecord e]

/-- What a latch notes: the QUEUED children not reported yet. -/
theorem latch_blocked (hdem : c.demand d ≠ 0) (ha : (c.dom d).attempts = 3) (hd : (c.dom d).state ≠ .queued) (e : DomId) :
    e ∈ (c.afterFault d).work.blocked ↔ e ∈ c.work.blocked ∨ (c.queuedChild d e = true ∧ (c.dom e).depReported = false) := by
  have hblocked : (c.afterFault d).work.blocked = (c.enterLatched d).work.blocked := by
    rw [afterFault_latch hdem ha, record_blocked]
  have hsame : ∀ x, x ≠ d → (c.setState d .latched 0).dom x = c.dom x := fun x hx => by rw [setState_dom, if_neg hx]
  rw [hblocked, enterLatched_eq, reportChildren_blocked, setState_work]
  by_cases he : e = d
  · subst he
    simp [State.queuedChild, hd]
  · have hchild : (c.setState d .latched 0).queuedChild d e = c.queuedChild d e := by
      unfold State.queuedChild
      rw [hsame e he]
    rw [hchild, hsame e he]
    simp [mem_domIds]

end

/-! ### A ramp that fails -/

section
variable {w : State} {d : DomId}

theorem rampFailed_eq (w : State) (d : DomId) : w.rampFailed d = (w.countFault d 0).afterFault d := rfl

theorem afterFault_hold_of_down {c : State} (hd : (c.dom d).state.live = false) : (c.afterFault d).hold = c.hold := by
  have hset : ∀ n t, (c.setState d n t).hold = c.hold := fun n t => setState_hold_of_down c n t hd
  unfold State.afterFault
  split
  · exact hset .off 0
  · split
    · exact hset _ _
    · rw [record_hold, enterLatched_hold, hset]

theorem changedAt_afterFault (c : State) (d : DomId) : ChangedAt (c.afterFault d) c d := by
  unfold State.afterFault
  split
  · exact changedAt_enterOff c d
  · split
    · exact changedAt_setState ..
    · have hlatched := changedAt_enterLatched c d
      refine ⟨(alike_of_deep (record_deep ..) (congrArg Ssc.sessions (record_ssc ..))).trans hlatched.alike, fun e he => ?_⟩
      rw [power_dom (record_power ..)]
      exact hlatched.states e he

theorem countFault_blocked (w : State) (d : DomId) (k : Nat) : (w.countFault d k).work.blocked = w.work.blocked := record_blocked ..

theorem lapse_depReported (s : State) (n : Nat) (c : DomId) : ((s.lapse n).dom c).depReported = (s.dom c).depReported := by
  rcases lapse_dom s n c with heq | heq <;> rw [heq]
  rfl

theorem changedAt_rampFailed (w : State) (d : DomId) : ChangedAt (w.rampFailed d) w d :=
  (changedAt_afterFault _ d).trans (changedAt_countFault w d 0)

theorem rampFailed_hold (hd : (w.dom d).state = .ramping) : (w.rampFailed d).hold = w.hold := by
  rw [rampFailed_eq, afterFault_hold_of_down (by rw [(countFault_dom w d d 0).1, hd]; rfl), countFault_hold]

theorem countFault_attempts (w : State) (d : DomId) (k : Nat) : ((w.countFault d k).dom d).attempts = (w.dom d).attempts + 1 := by
  rw [countFault_dom_eq, if_pos rfl]

end

section
variable {s w : State} {d : DomId}

/-- The children that a latch of d reports: QUEUED, and not reported yet. -/
def State.unreported (s : State) (d : DomId) : List DomId :=
  (domIds.filter (s.queuedChild d)).filter (fun c => !(s.dom c).depReported)

theorem ne_of_queuedChild (hd : (w.dom d).state ≠ .queued) {c : DomId} (hc : w.queuedChild d c = true) : c ≠ d := by
  rintro rfl
  simp [State.queuedChild, hd] at hc

theorem countFault_queuedChild (w : State) (d c : DomId) (k : Nat) : (w.countFault d k).queuedChild d c = w.queuedChild d c := by
  rw [State.queuedChild, (countFault_dom _ d c k).1, (countFault_dom _ d c k).2, State.queuedChild]

theorem lapse_queuedChild (s : State) (n : Nat) (d c : DomId) : (s.lapse n).queuedChild d c = s.queuedChild d c := by
  rw [State.queuedChild, lapse_state, lapse_entry_eq, State.queuedChild]

theorem lapse_unreported (s : State) (n : Nat) (d : DomId) : (s.lapse n).unreported d = s.unreported d := by
  unfold State.unreported
  rw [show (s.lapse n).queuedChild d = s.queuedChild d from funext fun c => lapse_queuedChild s n d c]
  simp only [lapse_depReported]

variable (hw : w.work.blocked = []) (hd : (w.dom d).state = .ramping) (hdem : (w.countFault d 0).demand d ≠ 0)
  (ha : ((w.countFault d 0).dom d).attempts = 3)
include hw hd hdem ha

/-- What the latch of a failed ramp notes. -/
theorem rampFailed_marks : domIds.filter (w.rampFailed d).work.blocked.contains = w.unreported d := by
  have hplain : ((w.countFault d 0).dom d).state ≠ .queued := by
    rw [(countFault_dom _ d d 0).1, hd]
    decide
  unfold State.unreported
  rw [List.filter_filter]
  refine List.filter_congr fun c _ => ?_
  rw [Bool.eq_iff_iff, List.contains_iff_mem, rampFailed_eq, latch_blocked hdem ha hplain, countFault_blocked, hw, countFault_queuedChild]
  by_cases hc : w.queuedChild d c = true
  · rw [countFault_dom_eq, if_neg (ne_of_queuedChild (by rw [hd]; decide) hc)]
    simp [hc]
  · simp [hc]

omit hw in
/-- A QUEUED child of the latched domain waits, reported. -/
theorem rampFailed_child (hp : Powering (w.rampFailed d)) (hc : AllCalm (w.rampFailed d)) (hresume : w.work.resume = none) {c : DomId}
    (hq : w.queuedChild d c = true) : ((w.rampFailed d).demandChanged.finish.dom c).state = .queued ∧
      ((w.rampFailed d).demandChanged.finish.dom c).depReported = true := by
  obtain ⟨hparent, hstate⟩ := Bool.and_eq_true_iff.1 hq
  have hlatched : ((w.rampFailed d).dom d).state = .latched := by
    rw [rampFailed_eq, latch_dom hdem ha, enterLatched_dom_self]
  have hparentV : ((w.rampFailed d).dom c).entry.parent = some d := by
    rw [(changedAt_rampFailed w d).alike.entry]
    simpa using hparent
  have hdom := latch_children hp hc ((afterFault_resume ..).trans ((countFault_resume ..).trans hresume)) hlatched hparentV
  rw [rampFailed_eq, latch_dom hdem ha, enterLatched_dom_ne _ (ne_of_queuedChild (by rw [hd]; decide) hq),
    if_pos ((countFault_queuedChild w d c 0).trans hq)] at hdom
  obtain ⟨hkept, -, -, -, hreported⟩ := fields_of_owner hdom
  refine ⟨hkept.trans ?_, hreported⟩
  show ((w.countFault d 0).dom c).state = .queued
  rw [(countFault_dom _ d c 0).1]
  simpa using hstate

/-- The records of the reports, after the failures' own. -/
theorem rampFailed_events (hp : Powering (w.rampFailed d)) (hc : AllCalm (w.rampFailed d)) (hresume : w.work.resume = none)
    {es : List Event} (h : Holds es (w.rampFailed d)) (hroom : es.length + (w.unreported d).length ≤ 24) :
    (w.rampFailed d).demandChanged.finish.evq.events =
      es ++ (w.unreported d).map (fun c => w.recordOf .dependencyBlocked c.val d.val none) := by
  have hmarks := rampFailed_marks hw hd hdem ha
  have hresumeV : (w.rampFailed d).work.resume = none := (afterFault_resume ..).trans ((countFault_resume ..).trans hresume)
  have hseconds : (w.rampFailed d).wsc.seconds = w.wsc.seconds := frame_seconds ((afterFault_frame ..).trans (countFault_frame ..))
  rw [calm_finish_events hp hc hresumeV h (by rw [hmarks]; exact hroom), hmarks]
  refine congrArg (es ++ ·) (List.map_congr_left fun c hmem => ?_)
  obtain ⟨hmem, -⟩ := List.mem_filter.1 hmem
  obtain ⟨-, hq⟩ := List.mem_filter.1 hmem
  have hparent : ((w.rampFailed d).dom c).entry.parent = some d := by
    rw [(changedAt_rampFailed w d).alike.entry]
    simpa using (Bool.and_eq_true_iff.1 hq).1
  unfold State.blockedRecord
  rw [hparent, recordOf_congr hseconds]

end

/-- Settles O35. -/
theorem rampTimeoutIsAFailure : Obligations.RampTimeoutIsAFailure := by
  intro d s n h hr hd hn
  have hleft : s.leftRamp d = some n := by rw [State.leftRamp, if_pos hd, hn]
  have hexec : exec (.rampTimeout d) s = .next ((s.lapse n).rampFailed d).demandChanged.finish :=
    timed_of_some h.awake hleft (fun s => (s.rampFailed d).demandChanged)
  have hrW : RampSound (s.lapse n) := lapse_rampSound n hr
  have hrun : (s.lapse n).held = false := (lapse_held s n).trans h.awake
  have hresume := h.lapse_resume n
  have hdW : ((s.lapse n).dom d).state = .ramping := (lapse_state s n d).trans hd
  have hramp : RampHeld ((s.lapse n).rampFailed d) := failed_rampHeld hrW.held d 0 (by simp [hdW])
  have hpow : PowerHeld (s.lapse n) → PowerHeld ((s.lapse n).rampFailed d) := fun hp => hp.rampFailed hdW
  have hchanged := changedAt_rampFailed (s.lapse n) d
  have hheld : ((s.lapse n).rampFailed d).dmc.d0Held = (s.lapse n).dmc.d0Held := congrArg Prod.fst (rampFailed_hold hdW)
  have hattempts : (((s.lapse n).countFault d 0).dom d).attempts = (s.dom d).attempts + 1 := by
    rw [countFault_attempts, lapse_attempts]
  have hcount : s.roomFor 1 → Holds (s.evq.events ++ [(s.lapse n).recordOf .domainFault d.val 0 (some ((s.dom d).attempts + 1))])
      ((s.lapse n).countFault d 0) := fun hroom => by
    have hcounted := (lapse_holds n (Holds.start hroom)).countFault hroom.2 d 0
    rwa [lapse_attempts] at hcounted
  have hresumeC : ((s.lapse n).countFault d 0).work.resume = none := (countFault_resume ..).trans hresume
  have hresumeV : ((s.lapse n).rampFailed d).work.resume = none := (afterFault_resume ..).trans hresumeC
  have hframe : ((s.lapse n).rampFailed d).demandChanged.finish.frame = (s.lapse n).frame :=
    (changed_finish_frame hresumeV).trans ((afterFault_frame ..).trans (countFault_frame ..))
  have hdemand : ((s.lapse n).countFault d 0).demand d = (s.lapse n).demand d := countFault_demand ..
  have hretry : (((s.lapse n).countFault d 0).dom d).entry = (s.dom d).entry := (countFault_dom _ d d 0).2.trans (lapse_entry_eq s n d)
  refine ⟨fun hwant ha => ?waits, fun hwant ha => ?latches, fun hun => ?off⟩
  case waits =>
    have hdrawn := lapse_drawn hwant n
    have hdem : ((s.lapse n).countFault d 0).demand d ≠ 0 := hdemand ▸ demand_of_drawn hdrawn
    have hfew : (((s.lapse n).countFault d 0).dom d).attempts < 3 := hattempts ▸ ha
    have hquiet : Quieted ((s.lapse n).rampFailed d) d := quieted_of_drawn hdrawn hchanged hrun hramp hpow (fun _ => hheld)
      (by rw [hdW]; decide) (.inr (.inl (by rw [rampFailed_eq, afterFault_wait hdem hfew, setState_state, if_pos rfl])))
    obtain ⟨hstate, hen, htimer, hkept⟩ := fault_waits hdem hfew hquiet hramp hresumeC
    rw [hretry] at htimer
    rw [hattempts] at hkept
    refine ⟨_, hexec, hframe, hstate, hen, htimer, hkept, fun hroom => ?_⟩
    have hholds := (hcount hroom).noted (afterFault_noted_of_plain (.inr hfew))
    exact Keeps.finish_recorded (s := s) hholds.demandChanged.keeps
  case latches =>
    have hdrawn := lapse_drawn hwant n
    have hdem : ((s.lapse n).countFault d 0).demand d ≠ 0 := hdemand ▸ demand_of_drawn hdrawn
    have hthird : (((s.lapse n).countFault d 0).dom d).attempts = 3 := hattempts.trans ha
    have hlatched : (((s.lapse n).rampFailed d).dom d).state = .latched := by
      rw [rampFailed_eq, latch_dom hdem hthird, enterLatched_dom_self]
    have hquietOf : (s.lapse n).drawn d → Quieted ((s.lapse n).rampFailed d) d := fun hdr => quieted_of_drawn hdr hchanged hrun hramp hpow
      (fun _ => hheld) (by rw [hdW]; decide) (.inr (.inr (.inl hlatched)))
    obtain ⟨hstate, hen, hkept⟩ := fault_latches hdem hthird (hquietOf hdrawn) hramp hresumeC
    have hholds : s.roomFor 2 → Holds (s.evq.events ++ [(s.lapse n).recordOf .domainFault d.val 0 (some 3),
        (s.lapse n).recordOf .domainFault d.val 2 (some 3)]) ((s.lapse n).rampFailed d) := fun hroom => by
      have hfirst := hcount (roomFor_mono hroom (by omega))
      rw [ha] at hfirst
      have hsecond := latch_holds hdem hthird hfirst (by have := hroom.2; rw [List.length_append, List.length_singleton]; omega)
      rw [recordOf_congr (s := s.lapse n) (frame_seconds (countFault_frame ..)), List.append_assoc] at hsecond
      exact hsecond
    refine ⟨_, hexec, hframe, hstate, hen, hkept, fun hroom => Keeps.finish_recorded (s := s) (hholds hroom).demandChanged.keeps,
      fun hsound => ?_⟩
    intro children blocked
    obtain ⟨hpower, hcalm⟩ := hsound.lapse n
    have hsession : (s.lapse n).mdc.mode = .cutoff → (s.lapse n).sessionDemands d = true := by
      have hsame := lapse_sameDemand s n
      rw [hsame.mode, hsame.sessionDemands]
      intro hm
      rcases hwant with ⟨hne, -⟩ | ⟨-, -, hsession⟩
      · exact absurd hm hne
      · exact hsession hm
    have hcalmV : AllCalm ((s.lapse n).rampFailed d) := calm_of_wanted hcalm (demand_of_drawn hdrawn) hsession hchanged hheld
      (by rw [hdW]; decide) (by rw [hlatched]; exact ⟨by decide, by decide⟩)
    have hpowering : Powering ((s.lapse n).rampFailed d) := ⟨hramp, hpow hpower, hchanged.alike.held.trans hrun⟩
    have hwork : (s.lapse n).work.blocked = [] := by
      rw [lapse_work, h.between]
      rfl
    have hblocked : blocked = (s.lapse n).unreported d := (lapse_unreported s n d).symm
    refine ⟨fun c hc => ?_, fun hroom => ?_⟩
    · obtain ⟨-, hq⟩ := List.mem_filter.1 hc
      exact rampFailed_child hdW hdem hthird hpowering hcalmV hresume ((lapse_queuedChild s n d c).trans hq)
    · rw [hblocked] at hroom ⊢
      have hevents := rampFailed_events hwork hdW hdem hthird hpowering hcalmV hresume (hholds (roomFor_mono hroom (by omega))) (by
        have := hroom.2
        rw [List.length_append]
        simp only [List.length_cons, List.length_nil]
        omega)
      rw [List.append_assoc, lapse_recordOf, lapse_recordOf] at hevents
      simp only [lapse_recordOf] at hevents
      exact hevents
  case off =>
    have hundrawn := lapse_undrawn hun n
    have hdem : ((s.lapse n).countFault d 0).demand d = 0 := hdemand ▸ demand_of_undrawn hundrawn
    have hstate := off_of_undrawn (v := (s.lapse n).rampFailed d) hundrawn hchanged hrun hramp hpow hresumeV
      (by rw [rampFailed_eq, afterFault_off hdem, enterOff_state, if_pos rfl]) (fun _ => hheld)
    obtain ⟨hen, hzero⟩ := off_fields (changed_rampSound hramp) hstate
    refine ⟨_, hexec, hframe, hstate, hen, hzero, fun hroom => ?_⟩
    have hholds := (hcount hroom).noted (afterFault_noted_of_plain (.inl hdem))
    exact Keeps.finish_recorded (s := s) hholds.demandChanged.keeps

end Sys2Proof.Machine
end

section
/-! Power-good lost: what the descendants become, and the demand that they leave on the domain (R30). -/

namespace Sys2Proof.Machine

/-! ### One descendant dropped -/

/-- The state that a descendant takes, with this demand left on it (R30 step 1). -/
def DomState.dropped (st : DomState) (dem : Nat) : DomState :=
  match st with
  | .ramping | .on => if dem ≠ 0 then .queued else .off
  | .holdoff => .off
  | .off => .off
  | .queued => .queued
  | .faultWait => .faultWait
  | .latched => .latched

section
variable {s : State} {d e : DomId}

theorem dropDescendant_dom_ne (s : State) (h : e ≠ d) : (s.dropDescendant d).dom e = s.dom e := by
  have off : (s.enterOff d).dom e = s.dom e := by rw [enterOff_dom, if_neg h]
  have queued : (s.enterQueued d).dom e = s.dom e := by
    unfold State.enterQueued
    dsimp only
    split
    · rw [noteBlocked_dom, if_neg h, setState_dom, if_neg h]
    · rw [setState_dom, if_neg h]
  unfold State.dropDescendant
  split
  · split
    · exact queued
    · exact off
  · split
    · exact queued
    · exact off
  · exact off
  all_goals rfl

theorem dropDescendant_of_down (h : (s.dom d).state.enOn = false) : s.dropDescendant d = s := by
  unfold State.dropDescendant
  split
  case h_1 hs => rw [hs] at h; cases h
  case h_2 hs => rw [hs] at h; cases h
  case h_3 hs => rw [hs] at h; cases h
  all_goals rfl

theorem dropDescendant_state_self (s : State) (d : DomId) :
    ((s.dropDescendant d).dom d).state = (s.dom d).state.dropped (s.demand d) := by
  have hoff : ((s.enterOff d).dom d).state = .off := by rw [enterOff_state, if_pos rfl]
  have hqueued : ((s.enterQueued d).dom d).state = .queued := by rw [enterQueued_state, if_pos rfl]
  unfold State.dropDescendant
  split
  case h_1 hs =>
    rw [hs]
    by_cases hd : s.demand d = 0 <;> simp [DomState.dropped, hd, hoff, hqueued]
  case h_2 hs =>
    rw [hs]
    by_cases hd : s.demand d = 0 <;> simp [DomState.dropped, hd, hoff, hqueued]
  case h_3 hs => rw [hs, hoff]; rfl
  all_goals next hs => rw [hs]; rfl

theorem dropDescendant_noted (s : State) (d : DomId) : (s.dropDescendant d).noted = s.noted := by
  unfold State.dropDescendant
  split
  · split
    · exact enterQueued_noted s d
    · exact enterOff_noted s d
  · split
    · exact enterQueued_noted s d
    · exact enterOff_noted s d
  · exact enterOff_noted s d
  all_goals rfl

theorem dropDescendant_frame (s : State) (d : DomId) : (s.dropDescendant d).frame = s.frame :=
  frame_of (dropDescendant_deep ..) (table_of_ssc ((Domestic.sameSessions s.ssc).dropDescendant d rfl))
    ((Domestic.sameApproach s.apq).dropDescendant d rfl)

theorem dropDescendant_hold_ne (s : State) (h : d ≠ 0) : (s.dropDescendant d).hold = s.hold := by
  have off : (s.enterOff d).hold = s.hold := setState_hold_ne s .off 0 h
  have queued : (s.enterQueued d).hold = s.hold := (enterQueued_hold s d).trans (setState_hold_ne s .queued 0 h)
  unfold State.dropDescendant
  split
  · split
    · exact queued
    · exact off
  · split
    · exact queued
    · exact off
  · exact off
  all_goals rfl

end

/-! ### All descendants, children before parents -/

/-- The state once the descendants of d have been dropped (R30 step 1). -/
def State.stripped (w : State) (d : DomId) : State := (w.below d).foldl State.dropDescendant w

theorem pgLost_eq (w : State) (d : DomId) : w.pgLost d = ((w.stripped d).countFault d 1).afterFault d := rfl

section
variable {w : State} {d e : DomId}

theorem drops_alike (l : List DomId) (w : State) : Alike (l.foldl State.dropDescendant w) w := by
  induction l generalizing w with
  | nil => exact .refl w
  | cons a l ih => exact (ih (w.dropDescendant a)).trans (dropDescendant_alike w a)

theorem drops_dom_not_mem (l : List DomId) (w : State) (h : e ∉ l) : (l.foldl State.dropDescendant w).dom e = w.dom e := by
  induction l generalizing w with
  | nil => rfl
  | cons a l ih =>
    rw [List.mem_cons, not_or] at h
    rw [List.foldl_cons, ih _ h.2, dropDescendant_dom_ne w h.1]

/-- A domain that is not powered is not dropped. -/
theorem drops_dom_down (l : List DomId) (w : State) (h : (w.dom e).state.enOn = false) : (l.foldl State.dropDescendant w).dom e = w.dom e := by
  induction l generalizing w with
  | nil => rfl
  | cons a l ih =>
    have hstep : (w.dropDescendant a).dom e = w.dom e := by
      by_cases he : e = a
      · subst he
        rw [dropDescendant_of_down h]
      · exact dropDescendant_dom_ne w he
    rw [List.foldl_cons, ih _ (by rw [hstep]; exact h), hstep]

theorem drops_down (l : List DomId) (w : State) (h : e ∈ l) : ((l.foldl State.dropDescendant w).dom e).state.enOn = false := by
  induction l generalizing w with
  | nil => cases h
  | cons a l ih =>
    rw [List.foldl_cons]
    by_cases hl : e ∈ l
    · exact ih _ hl
    · have he : e = a := (List.mem_cons.1 h).resolve_right hl
      subst he
      rw [drops_dom_not_mem l _ hl]
      exact (dropDescendant_state w e e).2

/-- Taken from the top, each domain is dropped with the demand that is left on it in the end. -/
theorem drops_state {l : List DomId} (hl : l.Pairwise (· > ·)) (ht : TreeSound w) (h : e ∈ l) :
    ((l.foldl State.dropDescendant w).dom e).state = (w.dom e).state.dropped ((l.foldl State.dropDescendant w).demand e) := by
  induction l generalizing w with
  | nil => cases h
  | cons a l ih =>
    obtain ⟨hbelow, hl'⟩ := List.pairwise_cons.1 hl
    have halike := dropDescendant_alike w a
    have ht' : TreeSound (w.dropDescendant a) := halike.tree ht
    rw [List.foldl_cons]
    by_cases hmem : e ∈ l
    · rw [ih hl' ht' hmem, dropDescendant_dom_ne w (ne_of_lt (hbelow e hmem))]
    · have hea : e = a := (List.mem_cons.1 h).resolve_right hmem
      subst hea
      have hdemand : (l.foldl State.dropDescendant (w.dropDescendant e)).demand e = w.demand e := by
        refine ((drops_alike l _).trans halike).demand fun c hc => ?_
        have hlt := (ht c e hc).1
        rw [drops_dom_not_mem l _ (fun hx => absurd (hbelow c hx) (lt_asymm hlt)), dropDescendant_dom_ne w hlt.ne']
      rw [hdemand, drops_dom_not_mem l _ hmem, dropDescendant_state_self]

theorem stripped_alike (w : State) (d : DomId) : Alike (w.stripped d) w := drops_alike ..

theorem stripped_state (ht : TreeSound w) (h : e ∈ w.below d) :
    ((w.stripped d).dom e).state = (w.dom e).state.dropped ((w.stripped d).demand e) :=
  drops_state (domIdsDown_sorted.filter _) ht h

theorem stripped_dom (h : e ∉ w.below d) : (w.stripped d).dom e = w.dom e := drops_dom_not_mem _ w h

theorem self_not_mem_below (w : State) (d : DomId) : d ∉ w.below d := fun h => (mem_below.1 h).1 rfl

theorem stripped_dom_self (w : State) (d : DomId) : (w.stripped d).dom d = w.dom d := stripped_dom (self_not_mem_below w d)

theorem stripped_noted (w : State) (d : DomId) : (w.stripped d).noted = w.noted :=
  foldl_keeps State.noted State.dropDescendant dropDescendant_noted _ w

theorem stripped_frame (w : State) (d : DomId) : (w.stripped d).frame = w.frame :=
  foldl_keeps State.frame State.dropDescendant dropDescendant_frame _ w

theorem ne_zero_of_mem_below (ht : TreeSound w) (h : e ∈ w.below d) : e ≠ 0 := by
  obtain ⟨hne, hup⟩ := mem_below.1 h
  rintro rfl
  exact hne (le_antisymm (Fin.zero_le d) (le_of_setDemands ht d hup))

theorem lt_of_mem_below (ht : TreeSound w) (h : e ∈ w.below d) : d < e := by
  obtain ⟨hne, hup⟩ := mem_below.1 h
  exact lt_of_le_of_ne (le_of_setDemands ht d hup) hne.symm

theorem stripped_hold (ht : TreeSound w) (d : DomId) : (w.stripped d).hold = w.hold :=
  List.foldlRecOn (motive := fun t : State => t.hold = w.hold) (w.below d) State.dropDescendant rfl fun t hh _ he =>
    (dropDescendant_hold_ne t (ne_zero_of_mem_below ht he)).trans hh

/-- What is above a domain is above its parent, or is the domain itself. -/
theorem setDemands_of_parent (ht : TreeSound w) {c p : DomId} (hp : (w.dom c).entry.parent = some p) (x : DomId)
    (h : w.setDemands (addDom 0 c) x = true) : x = c ∨ w.setDemands (addDom 0 p) x = true := by
  induction x using WellFoundedGT.induction with
  | ind x ih =>
    rcases setDemands_cases h with hx | ⟨y, hy, hup⟩
    · exact .inl ((hasDom_single c x).1 hx)
    · right
      rcases ih y (ht y x hy).1 hup with rfl | hy'
      · rw [hp] at hy
        cases hy
        exact setDemands_self w ((hasDom_single p p).2 rfl)
      · exact setDemands_parent ht hy' hy

/-- The parent of what is below d is d or below d. -/
theorem parent_of_mem_below (ht : TreeSound w) {c p : DomId} (hp : (w.dom c).entry.parent = some p) (h : c ∈ w.below d) :
    p = d ∨ p ∈ w.below d := by
  obtain ⟨hne, hup⟩ := mem_below.1 h
  by_cases hpd : p = d
  · exact .inl hpd
  · exact .inr (mem_below.2 ⟨hpd, (setDemands_of_parent ht hp d hup).resolve_left hne.symm⟩)

/-- A child is below its parent, whatever the tree. -/
theorem child_mem_below' {c : DomId} (hp : (w.dom c).entry.parent = some d) (hne : c ≠ d) : c ∈ w.below d := by
  refine mem_below.2 ⟨hne, ?_⟩
  obtain ⟨before, after, hsplit⟩ := List.append_of_mem (mem_domIdsDown c)
  have hin : hasDom (before.foldl w.withParent (addDom 0 c)) c = true := hasDom_foldl_mono w before ((hasDom_single c c).2 rfl)
  rw [State.setDemands, withAncestors_eq, hsplit, List.foldl_append, List.foldl_cons]
  exact hasDom_foldl_mono w after ((hasDom_withParent ..).2 (.inr ⟨hin, hp⟩))

end

/-! ### The demand that is left -/

section
variable {w : State} {d e : DomId}

theorem dropped_ne_off {st : DomState} {n : Nat} (h : st.dropped n ≠ .off) : st ≠ .off := by
  rintro rfl
  exact h rfl

theorem stripped_up (ht : TreeSound w) (h : ((w.stripped d).dom e).state ≠ .off) : (w.dom e).state ≠ .off := by
  by_cases he : e ∈ w.below d
  · rw [stripped_state ht he] at h
    exact dropped_ne_off h
  · rwa [stripped_dom he] at h

theorem demand_of_stripped (ht : TreeSound w) (h : (w.stripped d).demand e ≠ 0) : w.demand e ≠ 0 := by
  rw [demand_ne_zero, (stripped_alike w d).directHolders] at h
  simp only [(stripped_alike w d).entry] at h
  rw [demand_ne_zero]
  rcases h with h | ⟨c, hp, hc⟩
  · exact .inl h
  · exact .inr ⟨c, hp, stripped_up ht hc⟩

/-- What holds a direct demand, or has a child left, is demanded. -/
theorem stripped_demand_of_child {c : DomId} (hp : (w.dom c).entry.parent = some e) (hc : ((w.stripped d).dom c).state ≠ .off) :
    (w.stripped d).demand e ≠ 0 := by
  rw [demand_ne_zero]
  exact .inr ⟨c, by rw [(stripped_alike w d).entry]; exact hp, hc⟩

theorem stripped_demand_of_direct (h : w.directHolders e ≠ 0) : (w.stripped d).demand e ≠ 0 := by
  rw [demand_ne_zero, (stripped_alike w d).directHolders]
  exact .inl h

/-- A descendant that is up and demanded before and after is left up. -/
theorem stripped_stays (hc : AllCalm w) (ht : TreeSound w) (h : e ∈ w.below d) (hup : (w.dom e).state ≠ .off) (hw : w.demand e ≠ 0)
    (hx : (w.stripped d).demand e ≠ 0) : ((w.stripped d).dom e).state ≠ .off := by
  have hnot : (w.dom e).state ≠ .holdoff := fun hs => by
    rcases (hc.calm e).holdoff hs with h0 | ⟨h0, -⟩
    · exact hw h0
    · exact ne_zero_of_mem_below ht h h0
  rw [stripped_state ht h]
  cases hs : (w.dom e).state <;> simp_all [DomState.dropped]

/-- QUEUED and FAULT_WAIT descendants are demanded still. -/
theorem stripped_waiting (hc : AllCalm w) (hp : PowerHeld w) (h : e ∈ w.below d)
    (hs : ((w.stripped d).dom e).state = .queued ∨ ((w.stripped d).dom e).state = .faultWait) : (w.stripped d).demand e ≠ 0 := by
  rw [stripped_state hp.tree h] at hs
  have hwaits : (w.dom e).state = .queued ∨ (w.dom e).state = .faultWait → (w.stripped d).demand e ≠ 0 := fun hw => by
    have hnot : (w.dom e).state ≠ .on := by rcases hw with hw | hw <;> rw [hw] <;> decide
    rcases (demand_ne_zero w e).1 ((hc.calm e).waiting hw) with hdir | ⟨c, hpar, hup⟩
    · exact stripped_demand_of_direct hdir
    · have hdown : (w.dom c).state.enOn = false := hp.childrenDown_of_not_on hnot c hpar
      refine stripped_demand_of_child hpar ?_
      rw [show (w.stripped d).dom c = w.dom c from drops_dom_down _ w hdown]
      exact hup
  intro hzero
  rw [hzero] at hs
  cases hst : (w.dom e).state <;> rw [hst] at hs <;> simp [DomState.dropped] at hs
  · exact hwaits (.inl hst) hzero
  · exact hwaits (.inr hst) hzero

/-- What is left up rests on a direct holder or a LATCHED domain (R20). -/
theorem stripped_rooted (hc : AllCalm w) (hp : PowerHeld w) (h : e ∈ w.below d) (hs : ((w.stripped d).dom e).state ≠ .off) :
    ∃ f, w.setDemands (addDom 0 f) e = true ∧ (w.directHolders f ≠ 0 ∨ (w.dom f).state = .latched) := by
  induction e using WellFoundedGT.induction with
  | ind e ih =>
    have hself : w.setDemands (addDom 0 e) e = true := setDemands_self w ((hasDom_single e e).2 rfl)
    by_cases hl : (w.dom e).state = .latched
    · exact ⟨e, hself, .inr hl⟩
    · have hdem : (w.stripped d).demand e ≠ 0 := by
        by_cases hw : ((w.stripped d).dom e).state = .queued ∨ ((w.stripped d).dom e).state = .faultWait
        · exact stripped_waiting hc hp h hw
        · rw [stripped_state hp.tree h] at hs hw
          intro hzero
          rw [hzero] at hs hw
          cases hst : (w.dom e).state <;> rw [hst] at hs hw hl <;> simp_all [DomState.dropped]
      rcases (demand_ne_zero _ e).1 hdem with hdir | ⟨c, hpar, hup⟩
      · exact ⟨e, hself, .inl ((stripped_alike w d).directHolders e ▸ hdir)⟩
      · rw [(stripped_alike w d).entry] at hpar
        obtain ⟨f, hf, hroot⟩ := ih c (hp.tree c e hpar).1 (child_mem_below_of_mem hp.tree hpar h) hup
        exact ⟨f, setDemands_parent hp.tree hf hpar, hroot⟩

/-- With nothing rooted below or in the domain no demand is left on it. -/
theorem stripped_undemanded (hc : AllCalm w) (hp : PowerHeld w) (h : ¬ w.rooted d) : (w.stripped d).demand d = 0 := by
  by_contra hdem
  refine h ?_
  rcases (demand_ne_zero _ d).1 hdem with hdir | ⟨c, hpar, hup⟩
  · exact ⟨d, setDemands_self w ((hasDom_single d d).2 rfl), .inl ((stripped_alike w d).directHolders d ▸ hdir)⟩
  · rw [(stripped_alike w d).entry] at hpar
    obtain ⟨f, hf, hroot⟩ := stripped_rooted hc hp (child_mem_below hp.tree hpar) hup
    refine ⟨f, setDemands_parent hp.tree hf hpar, hroot.imp_right fun hl => ⟨?_, hl⟩⟩
    rintro rfl
    exact absurd (hp.tree c f hpar).1 (not_lt.2 (le_of_setDemands hp.tree c hf))

/-- Outside CUTOFF whatever stands above a root is left up. -/
theorem stripped_above (hc : AllCalm w) (hp : PowerHeld w) (hoff : ∀ x, (w.dom x).state = .off → w.demand x = 0) {f : DomId}
    (hroot : w.directHolders f ≠ 0 ∨ (w.dom f).state = .latched) (h : e ∈ w.below d) (hf : w.setDemands (addDom 0 f) e = true) :
    ((w.stripped d).dom e).state ≠ .off := by
  induction e using WellFoundedGT.induction with
  | ind e ih =>
    have hdemanded : w.demand e ≠ 0 → (w.stripped d).demand e ≠ 0 → ((w.stripped d).dom e).state ≠ .off := fun hw hx =>
      stripped_stays hc hp.tree h (fun ho => hw (hoff e ho)) hw hx
    rcases setDemands_cases hf with hx | ⟨c, hpar, hup⟩
    · rw [(hasDom_single f e).1 hx] at h hdemanded ⊢
      rcases hroot with hdir | hl
      · exact hdemanded ((demand_ne_zero w f).2 (.inl hdir)) (stripped_demand_of_direct hdir)
      · rw [stripped_state hp.tree h, hl]
        simp [DomState.dropped]
    · have hchild := ih c (hp.tree c e hpar).1 (child_mem_below_of_mem hp.tree hpar h) hup
      exact hdemanded ((demand_ne_zero w e).2 (.inr ⟨c, hpar, stripped_up hp.tree hchild⟩)) (stripped_demand_of_child hpar hchild)

theorem stripped_demanded (hc : AllCalm w) (hp : PowerHeld w) (hoff : ∀ x, (w.dom x).state = .off → w.demand x = 0) (h : w.rooted d) :
    (w.stripped d).demand d ≠ 0 := by
  obtain ⟨f, hf, hroot⟩ := h
  rcases setDemands_cases hf with hx | ⟨c, hpar, hup⟩
  · have hdf := (hasDom_single f d).1 hx
    subst hdf
    exact stripped_demand_of_direct (hroot.resolve_right fun hl => hl.1 rfl)
  · exact stripped_demand_of_child hpar
      (stripped_above hc hp hoff (hroot.imp_right And.right) (child_mem_below hp.tree hpar) hup)

/-- What a session demands is left up, in CUTOFF too. -/
theorem stripped_sessionDemanded (hc : AllCalm w) (hp : PowerHeld w) (hrun : w.held = false) (h : e ∈ w.below d)
    (hs : w.sessionDemands e = true) : ((w.stripped d).dom e).state ≠ .off := by
  induction e using WellFoundedGT.induction with
  | ind e ih =>
    obtain ⟨hw, hup⟩ := sessionDemanded_up (l := []) ⟨by simp, by simp⟩ hp.tree hrun (fun c _ => hc.calm c) e (by simp) hs
    refine stripped_stays hc hp.tree h hup hw ?_
    rcases sessionDemands_cases hs with hdir | ⟨c, hpar, hchild⟩
    · exact stripped_demand_of_direct hdir
    · exact stripped_demand_of_child hpar (ih c (hp.tree c e hpar).1 (child_mem_below_of_mem hp.tree hpar h) hchild)

theorem stripped_demanded_by_session (hc : AllCalm w) (hp : PowerHeld w) (hrun : w.held = false) (hs : w.sessionDemands d = true) :
    (w.stripped d).demand d ≠ 0 := by
  rcases sessionDemands_cases hs with hdir | ⟨c, hpar, hchild⟩
  · exact stripped_demand_of_direct hdir
  · exact stripped_demand_of_child hpar (stripped_sessionDemanded hc hp hrun (child_mem_below hp.tree hpar) hchild)

end

end Sys2Proof.Machine
end

section
/-! Power-good lost (R30): the failure on what the descendants leave. Settles O36. -/

namespace Sys2Proof.Machine

section
variable {w : State} {d e : DomId}

/-! ### The domains after the failure -/

theorem changedAt_pgLost (w : State) (d : DomId) : ChangedAt (w.pgLost d) (w.stripped d) d :=
  (changedAt_afterFault _ d).trans (changedAt_countFault (w.stripped d) d 1)

theorem pgLost_alike (w : State) (d : DomId) : Alike (w.pgLost d) w := (changedAt_pgLost w d).alike.trans (stripped_alike w d)

theorem pgLost_state_ne (h : e ≠ d) : ((w.pgLost d).dom e).state = ((w.stripped d).dom e).state := (changedAt_pgLost w d).states e h

/-- The demand on another domain than those above the lost one, or on any where the lost one stays up. -/
theorem pgLost_demand (h : ((w.dom d).state ≠ .off ∧ ((w.pgLost d).dom d).state ≠ .off) ∨ (TreeSound w ∧ d ≤ e)) :
    (w.pgLost d).demand e = (w.stripped d).demand e := by
  refine (changedAt_pgLost w d).alike.demand fun c hc => ?_
  rw [(stripped_alike w d).entry] at hc
  by_cases hcd : c = d
  · subst hcd
    rcases h with ⟨hw, hv⟩ | ⟨ht, hle⟩
    · rw [stripped_dom_self]
      exact ⟨fun hx => absurd hx hv, fun hx => absurd hx hw⟩
    · exact absurd hle (not_le.2 (ht c e hc).1)
  · rw [pgLost_state_ne hcd]

/-- Every other domain is calm, where the demand on it is what the descendants leave. -/
theorem pgLost_calm_ne (hc : AllCalm w) (hp : PowerHeld w) (hne : e ≠ d) (hdem : (w.pgLost d).demand e = (w.stripped d).demand e)
    (hheld : d ≠ 0 → (w.pgLost d).dmc.d0Held = w.dmc.d0Held) : Calm (w.pgLost d) e := by
  have halike := pgLost_alike w d
  have hstate := pgLost_state_ne (w := w) hne
  by_cases he : e ∈ w.below d
  · have hdown : ((w.stripped d).dom e).state.enOn = false := drops_down _ w he
    have hzero := ne_zero_of_mem_below hp.tree he
    refine ⟨fun hrun ho => ?_, fun hw => ?_, fun hon => ?_, fun hho => ?_, fun hm ho hl hd => ?_⟩
    · rw [hstate] at ho
      rw [hdem, halike.holdsPlaced, halike.sessionDemands]
      rw [halike.held] at hrun
      by_cases hx : (w.stripped d).demand e = 0
      · exact .inl hx
      · by_cases hup : (w.dom e).state = .off
        · exact ((hc.calm e).off hrun hup).imp_left fun h0 => absurd h0 (demand_of_stripped hp.tree hx)
        · exact absurd ho (stripped_stays hc hp.tree he hup (demand_of_stripped hp.tree hx) hx)
    · rw [hstate] at hw
      rw [hdem]
      exact stripped_waiting hc hp he hw
    · rw [hstate] at hon
      rw [hon] at hdown
      cases hdown
    · rw [hstate] at hho
      rw [hho] at hdown
      cases hdown
    · rw [hstate] at ho hl
      rw [hdem] at hd
      rw [halike.mode] at hm
      rw [halike.sessionDemands]
      have hlw : (w.dom e).state ≠ .latched := fun hx => hl (by rw [stripped_state hp.tree he, hx]; rfl)
      exact ((hc.calm e).cutoff hm (stripped_up hp.tree ho) hlw (demand_of_stripped hp.tree hd)).imp_right fun hx => absurd hx.1 hzero
  · have hchild : (w.stripped d).demand e = w.demand e := by
      refine (stripped_alike w d).demand fun c hpar => ?_
      rw [stripped_dom fun hx => (parent_of_mem_below hp.tree hpar hx).elim hne he]
    refine (hc.calm e).congr halike (hstate.trans (by rw [stripped_dom he])) (hdem.trans hchild) ?_
    by_cases h0 : d = 0
    · exact .inl fun he0 => hne (he0.trans h0.symm)
    · exact .inr (hheld h0)

theorem afterFault_hold_ne {c : State} (h : d ≠ 0) : (c.afterFault d).hold = c.hold := by
  have hset : ∀ n t, (c.setState d n t).hold = c.hold := fun n t => setState_hold_ne c n t h
  unfold State.afterFault
  split
  · exact hset .off 0
  · split
    · exact hset _ _
    · rw [record_hold, enterLatched_hold, hset]

theorem pgLost_hold_ne (ht : TreeSound w) (h : d ≠ 0) : (w.pgLost d).hold = w.hold := by
  rw [pgLost_eq, afterFault_hold_ne h, countFault_hold, stripped_hold ht]

/-- Where the lost domain is wanted still every domain is calm. -/
theorem pgLost_calm (hc : AllCalm w) (hp : PowerHeld w) (hup : (w.dom d).state ≠ .off) (hdem : (w.stripped d).demand d ≠ 0)
    (hsession : w.mdc.mode = .cutoff → w.sessionDemands d = true)
    (hnew : ((w.pgLost d).dom d).state = .faultWait ∨ ((w.pgLost d).dom d).state = .latched) : AllCalm (w.pgLost d) := by
  have hne : ((w.pgLost d).dom d).state ≠ .off ∧ ((w.pgLost d).dom d).state ≠ .on ∧ ((w.pgLost d).dom d).state ≠ .holdoff := by
    rcases hnew with h | h <;> rw [h] <;> exact ⟨by decide, by decide, by decide⟩
  obtain ⟨hoff, hon, hho⟩ := hne
  have hdemand : ∀ e, (w.pgLost d).demand e = (w.stripped d).demand e := fun e => pgLost_demand (.inl ⟨hup, hoff⟩)
  have halike := pgLost_alike w d
  have hheld : d ≠ 0 → (w.pgLost d).dmc.d0Held = w.dmc.d0Held := fun h0 => congrArg Prod.fst (pgLost_hold_ne hp.tree h0)
  refine ⟨fun e => ?_, fun hx => ?_⟩
  · by_cases he : e = d
    · subst he
      refine calm_of_state (fun h => absurd h hoff) (fun _ => hdemand e ▸ hdem) (fun h => absurd h hon) (fun h => absurd h hho) fun hm _ => ?_
      rw [halike.sessionDemands]
      exact hsession (halike.mode ▸ hm)
    · exact pgLost_calm_ne hc hp he (hdemand e) hheld
  · have hlive := (hp.pgLost d).up hx
    have h0 : d ≠ 0 := by
      rintro rfl
      rcases hnew with h | h <;> rw [h] at hlive <;> cases hlive
    have hzero : (w.stripped d).demand 0 = w.demand 0 := by
      refine (stripped_alike w d).demand fun c hpar => ?_
      rw [stripped_dom fun hx => (parent_of_mem_below hp.tree hpar hx).elim (fun h => h0 h.symm)
        (fun h => ne_zero_of_mem_below hp.tree h rfl)]
    rw [heldStands_congr halike ((hdemand 0).trans hzero) (hheld h0)]
    exact hc.stands (hheld h0 ▸ hx)

/-- Where it is not, it stays switched off. -/
theorem pgLost_off (hc : AllCalm w) (hp : PowerHeld w) (hrun : w.held = false) (hramp : RampHeld (w.pgLost d))
    (hresume : (w.pgLost d).work.resume = none) (hdem : (w.stripped d).demand d = 0) (hoff : ((w.pgLost d).dom d).state = .off) :
    ((w.pgLost d).demandChanged.finish.dom d).state = .off := by
  have hpow := hp.pgLost d
  have hrunV : (w.pgLost d).held = false := (pgLost_alike w d).held.trans hrun
  have habove : ∀ e, d ≤ e → Calm (w.pgLost d) e := by
    intro e he
    have hdemand : (w.pgLost d).demand e = (w.stripped d).demand e := pgLost_demand (.inr ⟨hp.tree, he⟩)
    by_cases hed : e = d
    · subst hed
      rw [hdem] at hdemand
      exact calm_of_state (fun _ => hdemand) (fun h => by rw [hoff] at h; simp at h) (fun h => by rw [hoff] at h; cases h)
        (fun h => by rw [hoff] at h; cases h) (fun _ h => absurd hdemand h)
    · exact pgLost_calm_ne hc hp hed hdemand fun h0 => congrArg Prod.fst (pgLost_hold_ne hp.tree h0)
  have hnone : d ≠ 0 ∨ (w.pgLost d).dmc.d0Held = none := by
    by_cases h0 : d = 0
    · subst h0
      refine .inr ?_
      by_contra hx
      have hlive := hpow.up hx
      rw [hoff] at hlive
      cases hlive
    · exact .inl h0
  have hsettled := settle_off hrunV habove hnone hoff
  have hdom := changed_finish_dom ⟨hramp, hpow, hrunV⟩ hresume (by rw [hsettled]; decide)
  exact (fields_of_owner hdom).1.trans hsettled

end

/-! ### Children of a domain that is not ON stay down (R23) -/

section
variable {s : State} {c d : DomId}

theorem setState_down {e : DomId} {n : DomState} {t : Nat} (h : (s.dom c).state.enOn = false)
    (hn : n.enOn = true → (s.dom e).state.enOn = true) : ((s.setState e n t).dom c).state.enOn = false := by
  rw [setState_state]
  split
  · next hce =>
    subst hce
    rw [← Bool.not_eq_true]
    intro hx
    rw [hn hx] at h
    cases h
  · exact h

theorem enterOff_down {e : DomId} (h : (s.dom c).state.enOn = false) : ((s.enterOff e).dom c).state.enOn = false := by
  rw [enterOff_state]
  split
  · rfl
  · exact h

theorem powerOff_down {e : DomId} (k : HeldCause) (h : (s.dom c).state.enOn = false) : ((s.powerOff e k).dom c).state.enOn = false := by
  by_cases hx : e = 0 ∧ s.lnk.reply.isSome = true
  · rw [powerOff_of_held k hx]
    show ((s.updDom 0 (fun x => { x with timer := 0 })).dom c).state.enOn = false
    rw [dom_updDom]
    split
    · next hc => exact hc ▸ h
    · exact h
  · rw [powerOff_of_not_held k hx]
    exact enterOff_down h

theorem forceOff_down {e : DomId} (h : (s.dom c).state.enOn = false) : ((s.forceOff e).dom c).state.enOn = false := by
  unfold State.forceOff
  split
  · exact h
  · exact h
  · exact enterOff_down h
  · exact enterOff_down h
  · exact enterOff_down h
  · exact powerOff_down _ h
  · exact powerOff_down _ h

theorem enterQueued_down {e : DomId} (h : (s.dom c).state.enOn = false) : ((s.enterQueued e).dom c).state.enOn = false := by
  rw [enterQueued_state]
  split
  · rfl
  · exact h

/-- No transition switches a domain on. -/
theorem transition_down {e : DomId} (h : (s.dom c).state.enOn = false) : ((s.transition e).dom c).state.enOn = false := by
  unfold State.transition
  split
  · refine foldl_closed (P := fun t : State => (t.dom c).state.enOn = false) State.forceStep (fun t x ht => ?_) domIdsDown h
    unfold State.forceStep
    split
    · exact ht
    · exact forceOff_down ht
  · split
    · split
      · exact enterQueued_down h
      · exact h
    · split
      · exact enterOff_down h
      · exact h
    · split
      · exact enterOff_down h
      · exact h
    · exact h
    · exact h
    · next hs =>
      split
      · exact h
      · split
        · exact powerOff_down _ h
        · exact setState_down h fun _ => by rw [hs]; rfl
    · next hs =>
      split
      · exact setState_down h fun _ => by rw [hs]; rfl
      · exact h

theorem settle_down (h : (s.dom c).state.enOn = false) : (s.settle.dom c).state.enOn = false := by
  refine foldl_closed (P := fun t : State => (t.dom c).state.enOn = false) State.transitionOf (fun t e ht => ?_) domIdsDown h
  unfold State.transitionOf
  split
  · split
    · exact ht
    · exact transition_down (s := { t with dmc.d0Held := none }) ht
  · exact transition_down ht

/-- The grants leave the children of a domain at rest that is not ON. -/
theorem grants_down (n : Nat) (hr : RampSound s) (h : Resting d s) (hd : (s.dom d).state ≠ .queued ∧ (s.dom d).state ≠ .on)
    (hp : (s.dom c).entry.parent = some d) (hc : (s.dom c).state.enOn = false) : ((State.grants n s).dom c).state.enOn = false := by
  induction n generalizing s with
  | zero => exact hc
  | succ n ih =>
    unfold State.grants
    split
    · next hf =>
      split
      · next e he =>
        have hqe : (s.dom e).state = .queued := (hr.queued e).2 (mem_queueOrder (List.mem_of_find?_eq_some he))
        have hel := List.find?_some he
        have hde : d ≠ e := fun hx => hd.1 (hx ▸ hqe)
        have hce : c ≠ e := by
          rintro rfl
          exact hd.2 ((eligible_iff s c).1 hel d hp)
        have halike := grantAndRamp_alike s e
        have hsame := grantAndRamp_rest_ne h hde
        have hrest : Resting d (s.grantAndRamp e) :=
          h.congr (deep_base (grantAndRamp_deep s e)) halike.sessions (by rw [hsame])
        refine ih (grantAndRamp_rampSound hr e hqe hf) hrest (by rw [hsame]; exact hd) (by rw [halike.entry]; exact hp) ?_
        unfold State.grantAndRamp
        dsimp only
        split
        · rw [enqueueArrivals_dom, demandChanged_dom]
          refine settle_down ?_
          rw [rampDone_dom_ne hce, grant_dom_ne hce]
          exact hc
        · rw [grant_dom_ne hce]
          exact hc
      · exact hc
    · exact hc

theorem rest_finish_down {v : State} (hr : RampHeld v) (h : Resting d v) (hw : v.work.resume = none)
    (hd : (v.dom d).state ≠ .queued ∧ (v.dom d).state ≠ .on) (hp : (v.dom c).entry.parent = some d) (hc : (v.dom c).state.enOn = false) :
    (v.demandChanged.finish.dom c).state.enOn = false := by
  obtain ⟨hsame, hrest⟩ := h.changed
  obtain ⟨hsettled, hsettledRest⟩ := settle_rest hrest
  have hsound := enqueueArrivals_rampSound (settle_rampHeld (RampHeld.closed.demandChanged hr))
  have hdown : (v.demandChanged.settle.enqueueArrivals.dom c).state.enOn = false := by
    rw [enqueueArrivals_dom]
    refine settle_down ?_
    rw [demandChanged_dom]
    exact settle_down hc
  have hentry : (v.demandChanged.settle.enqueueArrivals.dom c).entry.parent = some d := by
    rw [enqueueArrivals_dom, (settle_alike _).entry, base_entry (deep_base (demandChanged_deep v))]
    exact hp
  have hgrants := grants_down 12 hsound (enqueueArrivals_rest hsettledRest)
    (by rw [enqueueArrivals_dom, hsettled, hsame]; exact hd) hentry hdown
  have hfinish := finish_dom v.demandChanged c
  rw [State.ramped, resumeNow_none ((demandChanged_resume v).trans hw)] at hfinish
  rw [(fields_of_owner hfinish).1]
  exact hgrants

/-- After the event no child of a domain that is not ON is powered. -/
theorem quieted_children_down {v : State} (h : Quieted v d) (hr : RampHeld v) (hw : v.work.resume = none)
    (hd : (v.dom d).state ≠ .queued ∧ (v.dom d).state ≠ .on) (hp : (v.dom c).entry.parent = some d) (hc : (v.dom c).state.enOn = false) :
    (v.demandChanged.finish.dom c).en = false := by
  rw [((changed_rampSound hr).domains c).en]
  rcases h with h | hcalm
  · exact rest_finish_down hr h hw hd hp hc
  · have hpower := (finish_demandHeld hcalm.1.demandChanged).power
    have hentry : (v.demandChanged.finish.dom c).entry.parent = some d := by
      rw [base_entry (finish_base _), base_entry (deep_base (demandChanged_deep v))]
      exact hp
    refine hpower.childrenDown_of_not_on (fun hon => ?_) c hentry
    rw [(fields_of_owner (quieted_finish_dom (.inr hcalm) hr hw hd.1)).1] at hon
    exact hd.2 hon

end

end Sys2Proof.Machine
end

section
/-! The claim about a power-good loss, by the demand that the descendants leave (R30). Settles O36. -/

namespace Sys2Proof.Machine

theorem Domestic.sameResetDue (b : Bool) : Domestic (fun t => t.lnk.resetDue = b) where
  setState := setState_keeps (fun _ _ _ h => h) (fun _ _ h => h) (fun _ h => h) (fun _ h => h)
  dom _ _ _ _ h := h
  rmp _ _ h := h
  d0Held _ _ h := h
  work _ _ h := h
  record s k a b v _ h := by rw [record_lnk]; exact h
  sub _ _ h := h
  chm _ _ h := h

section
variable {s : State} {d : DomId}

theorem lapse_rooted (s : State) (n : Nat) (d : DomId) : (s.lapse n).rooted d ↔ s.rooted d := by
  have hsame := lapse_sameDemand s n
  unfold State.rooted State.setDemands
  simp only [withAncestors_congr fun e => (hsame.dom e).2, hsame.directHolders, (hsame.dom _).1]

/-- What the loss finds where the domain is wanted still: a direct holder, or calm domains of which enough are left. -/
theorem demand_of_wantedAtLoss (h : s.wantedAtLoss d) (hrun : s.held = false) (n : Nat) :
    ((s.lapse n).stripped d).demand d ≠ 0 ∧
      (((s.lapse n).mdc.mode ≠ .cutoff ∧ (s.lapse n).directHolders d ≠ 0) ∨
        (PowerHeld (s.lapse n) ∧ AllCalm (s.lapse n) ∧ ((s.lapse n).mdc.mode = .cutoff → (s.lapse n).sessionDemands d = true))) := by
  have hsame := lapse_sameDemand s n
  rcases h with ⟨hm, hdir⟩ | ⟨hsound, hroot, hsession⟩
  · rw [← hsame.directHolders] at hdir
    rw [← hsame.mode] at hm
    exact ⟨stripped_demand_of_direct hdir, .inl ⟨hm, hdir⟩⟩
  · obtain ⟨hpower, hcalm⟩ := hsound.lapse n
    rw [← hsame.mode, ← hsame.sessionDemands] at hsession
    refine ⟨?_, .inr ⟨hpower, hcalm, hsession⟩⟩
    by_cases hm : (s.lapse n).mdc.mode = .cutoff
    · exact stripped_demanded_by_session hcalm hpower (hsame.held.trans hrun) (hsession hm)
    · refine stripped_demanded hcalm hpower (fun x hx => ?_) ((lapse_rooted s n d).2 hroot)
      rw [(hsame.dom x).1] at hx
      rw [hsame.demand]
      refine (hsound.demand.off hrun x hx).resolve_right fun hc => hm ?_
      rw [hsame.mode]
      exact hc.1

theorem demand_of_unwantedAtLoss (h : s.unwantedAtLoss d) (n : Nat) :
    ((s.lapse n).stripped d).demand d = 0 ∧
      (((s.lapse n).mdc.mode ≠ .cutoff ∧ (s.lapse n).directHolders d = 0 ∧ ∀ e, ((s.lapse n).dom e).entry.parent ≠ some d) ∨
        (PowerHeld (s.lapse n) ∧ AllCalm (s.lapse n))) := by
  have hsame := lapse_sameDemand s n
  rcases h with ⟨hm, hdir, hchild⟩ | ⟨hsound, hroot⟩
  · rw [← hsame.directHolders] at hdir
    rw [← hsame.mode] at hm
    have hchildW : ∀ e, ((s.lapse n).dom e).entry.parent ≠ some d := fun e => by rw [lapse_entry_eq]; exact hchild e
    have halike := stripped_alike (s.lapse n) d
    refine ⟨?_, .inl ⟨hm, hdir, hchildW⟩⟩
    rw [State.demand, halike.directHolders, hdir, childless fun e => by rw [halike.entry]; exact hchildW e]
  · obtain ⟨hpower, hcalm⟩ := hsound.lapse n
    exact ⟨stripped_undemanded hcalm hpower (fun hx => hroot ((lapse_rooted s n d).1 hx)), .inr ⟨hpower, hcalm⟩⟩

end

section
variable {w : State} {d : DomId}

/-- A domain wanted still stays in FAULT_WAIT or LATCHED. -/
theorem pgLost_quieted (hdem : (w.stripped d).demand d ≠ 0) (hrun : w.held = false)
    (hw : (w.mdc.mode ≠ .cutoff ∧ w.directHolders d ≠ 0) ∨
      (PowerHeld w ∧ AllCalm w ∧ (w.mdc.mode = .cutoff → w.sessionDemands d = true)))
    (hr : RampHeld (w.pgLost d)) (hup : (w.dom d).state ≠ .off)
    (hnew : ((w.pgLost d).dom d).state = .faultWait ∨ ((w.pgLost d).dom d).state = .latched) : Quieted (w.pgLost d) d := by
  have halike := pgLost_alike w d
  rcases hw with ⟨hm, hdir⟩ | ⟨hpower, hcalm, hsession⟩
  · refine .inl ⟨halike.mode ▸ hm, .inl ⟨halike.directHolders d ▸ hdir, ?_⟩⟩
    rcases hnew with h | h
    · exact .inr (.inl h)
    · exact .inr (.inr (.inl h))
  · exact .inr ⟨⟨hr, hpower.pgLost d, halike.held.trans hrun⟩, pgLost_calm hcalm hpower hup hdem hsession hnew⟩

/-- The lost domain's children are not powered after the descendants have been dropped, nor after the failure. -/
theorem pgLost_child_down {c : DomId} (hp : (w.dom c).entry.parent = some d) (hne : c ≠ d) : ((w.pgLost d).dom c).state.enOn = false := by
  rw [pgLost_state_ne hne]
  exact drops_down _ w (child_mem_below' hp hne)

/-- The count as the failure finds it. -/
theorem pgLost_attempts (w : State) (d : DomId) : (((w.stripped d).countFault d 1).dom d).attempts = (w.dom d).attempts + 1 := by
  rw [countFault_attempts, stripped_dom_self]

theorem pgLost_holds {es : List Event} (h : Holds es w) (hlen : es.length < 24) :
    Holds (es ++ [w.recordOf .domainFault d.val 1 (some ((w.dom d).attempts + 1))]) ((w.stripped d).countFault d 1) := by
  have hcounted := (h.noted (stripped_noted w d)).countFault hlen d 1
  rwa [stripped_dom_self, recordOf_congr (frame_seconds (stripped_frame w d))] at hcounted

theorem pgLost_countFrame (w : State) (d : DomId) : ((w.stripped d).countFault d 1).frame = w.frame :=
  (countFault_frame ..).trans (stripped_frame w d)

/-- A child that was QUEUED and not reported is reported by the latch (R25). -/
theorem pgLost_reports (hp : Powering (w.pgLost d)) (hc : AllCalm (w.pgLost d)) (hresume : (w.pgLost d).work.resume = none)
    (hdem : ((w.stripped d).countFault d 1).demand d ≠ 0) (ha : (((w.stripped d).countFault d 1).dom d).attempts = 3)
    (hd : (w.dom d).state ≠ .queued) {es : List Event} (h : Holds es (w.pgLost d)) (hroom : es.length + 12 ≤ 24) {c : DomId}
    (hpar : (w.dom c).entry.parent = some d) (hq : (w.dom c).state = .queued) (hnot : (w.dom c).depReported = false) :
    ((w.pgLost d).demandChanged.finish.dom c).depReported = true ∧
      w.recordOf .dependencyBlocked c.val d.val none ∈ (w.pgLost d).demandChanged.finish.evq.events := by
  have hne : c ≠ d := by
    rintro rfl
    exact hd hq
  have hstripped : (w.stripped d).dom c = w.dom c := drops_dom_down _ w (by rw [hq]; rfl)
  have hdom : ((w.stripped d).countFault d 1).dom c = w.dom c := by rw [countFault_dom_eq, if_neg hne, hstripped]
  have hchild : ((w.stripped d).countFault d 1).queuedChild d c = true := by
    rw [State.queuedChild, hdom, hpar, hq]
    simp
  have hstateC : (((w.stripped d).countFault d 1).dom d).state ≠ .queued := by
    rw [(countFault_dom _ d d 1).1, stripped_dom_self]
    exact hd
  have hlatched : ((w.pgLost d).dom d).state = .latched := by
    rw [pgLost_eq, latch_dom hdem ha, enterLatched_dom_self]
  have hentry : ((w.pgLost d).dom c).entry.parent = some d := by
    rw [(pgLost_alike w d).entry]
    exact hpar
  have hflag : ((w.pgLost d).dom c).depReported = true := by
    rw [pgLost_eq, latch_dom hdem ha, enterLatched_dom_ne _ hne, if_pos hchild]
    rfl
  have hfinish := latch_children hp hc hresume hlatched hentry
  obtain ⟨-, -, -, -, hreported⟩ := fields_of_owner hfinish
  have hmark : c ∈ (w.pgLost d).work.blocked := by
    rw [pgLost_eq, latch_blocked hdem ha hstateC]
    exact .inr ⟨hchild, by rw [hdom]; exact hnot⟩
  have hcount : (domIds.filter (w.pgLost d).work.blocked.contains).length ≤ 12 := (List.length_filter_le _ _).trans (by decide)
  have hseconds : (w.pgLost d).wsc.seconds = w.wsc.seconds := by
    rw [pgLost_eq, frame_seconds (afterFault_frame ..), frame_seconds (pgLost_countFrame w d)]
  refine ⟨hreported.trans hflag, ?_⟩
  rw [calm_finish_events hp hc hresume h (by omega)]
  refine List.mem_append_right _ (List.mem_map.2 ⟨c, List.mem_filter.2 ⟨mem_domIds c, by simpa using hmark⟩, ?_⟩)
  unfold State.blockedRecord
  rw [hentry, recordOf_congr hseconds]

end

/-- Settles O36. -/
theorem powerGoodLossIsAFailure : Obligations.PowerGoodLossIsAFailure := by
  intro d s n h hr hd hpg hn hreset
  have hlive : (s.dom d).state.live = true := by rcases hd with hd | hd <;> rw [hd] <;> rfl
  have hleft : s.leftPgLoss d = some n := by
    rw [State.leftPgLoss, if_pos (by rw [hlive, hpg]; rfl), hn]
  have hrW : RampSound (s.lapse n) := lapse_rampSound n hr
  have hrun : (s.lapse n).held = false := (lapse_held s n).trans h.awake
  have hstateW := lapse_state s n d
  have hliveW : ((s.lapse n).dom d).state.live = true := hstateW ▸ hlive
  have hupW : ((s.lapse n).dom d).state ≠ .off := fun hx => by rw [hx] at hliveW; cases hliveW
  have hplainW : ((s.lapse n).dom d).state ≠ .queued := fun hx => by rw [hx] at hliveW; cases hliveW
  have hresetV : ((s.lapse n).pgLost d).demandChanged.lnk.resetDue = false :=
    (Domestic.sameResetDue false).demandChanged ((Domestic.sameResetDue false).pgLost d ((lapse_link s n).2.1.trans hreset))
  have hexec : exec (.pgLoss d) s = .next ((s.lapse n).pgLost d).demandChanged.finish := by
    have hraw : exec (.pgLoss d) s = .next (State.finish (if ((s.lapse n).pgLost d).demandChanged.lnk.resetDue &&
        ((s.lapse n).pgLost d).demandChanged.lnk.reply.isNone then ((s.lapse n).pgLost d).demandChanged.softwareReset
        else ((s.lapse n).pgLost d).demandChanged)) := timed_of_some h.awake hleft (fun s =>
      let s := (s.pgLost d).demandChanged
      if s.lnk.resetDue && s.lnk.reply.isNone then s.softwareReset else s)
    rw [hraw, if_neg (by rw [hresetV, Bool.false_and]; decide)]
  have hramp : RampHeld ((s.lapse n).pgLost d) := pgLost_rampHeld hrW.held d hliveW
  have hresumeC : (((s.lapse n).stripped d).countFault d 1).work.resume = none :=
    (countFault_resume ..).trans ((noted_resume (stripped_noted _ d)).trans (h.lapse_resume n))
  have hresumeV : ((s.lapse n).pgLost d).work.resume = none := (afterFault_resume ..).trans hresumeC
  have hframe : ((s.lapse n).pgLost d).demandChanged.finish.frame = (s.lapse n).frame :=
    (changed_finish_frame hresumeV).trans ((afterFault_frame ..).trans (pgLost_countFrame ..))
  have hattempts : ((((s.lapse n).stripped d).countFault d 1).dom d).attempts = (s.dom d).attempts + 1 := by
    rw [pgLost_attempts, lapse_attempts]
  have hdemandC : (((s.lapse n).stripped d).countFault d 1).demand d = ((s.lapse n).stripped d).demand d := countFault_demand ..
  have hretry : ((((s.lapse n).stripped d).countFault d 1).dom d).entry = (s.dom d).entry := by
    rw [(countFault_dom _ d d 1).2, stripped_dom_self, lapse_entry_eq]
  have hcount : s.roomFor 1 → Holds (s.evq.events ++ [(s.lapse n).recordOf .domainFault d.val 1 (some ((s.dom d).attempts + 1))])
      (((s.lapse n).stripped d).countFault d 1) := fun hroom => by
    have hcounted := pgLost_holds (d := d) (lapse_holds n (Holds.start hroom)) hroom.2
    rwa [lapse_attempts] at hcounted
  have hchildren : ∀ c, (s.dom c).entry.parent = some d → c ≠ d → (((s.lapse n).pgLost d).dom c).entry.parent = some d ∧
      (((s.lapse n).pgLost d).dom c).state.enOn = false := fun c hp hne => by
    rw [← lapse_entry_eq s n] at hp
    exact ⟨by rw [(pgLost_alike _ d).entry]; exact hp, pgLost_child_down hp hne⟩
  refine ⟨fun hwant ha => ?waits, fun hwant ha => ?latches, fun hun => ?off⟩
  case waits =>
    obtain ⟨hdem, hfound⟩ := demand_of_wantedAtLoss hwant h.awake n
    have hdemC := hdemandC ▸ hdem
    have hfew : ((((s.lapse n).stripped d).countFault d 1).dom d).attempts < 3 := hattempts ▸ ha
    have hwaits : (((s.lapse n).pgLost d).dom d).state = .faultWait := by
      rw [pgLost_eq, afterFault_wait hdemC hfew, setState_state, if_pos rfl]
    have hquiet := pgLost_quieted hdem hrun hfound hramp hupW (.inl hwaits)
    obtain ⟨hstate, hen, htimer, hkept⟩ := fault_waits hdemC hfew hquiet hramp hresumeC
    rw [hretry] at htimer
    rw [hattempts] at hkept
    refine ⟨_, hexec, hframe, hstate, hen, htimer, hkept, fun c hp hne => ?_, fun hroom => ?_⟩
    · obtain ⟨hpar, hdown⟩ := hchildren c hp hne
      exact quieted_children_down hquiet hramp hresumeV (by rw [hwaits]; exact ⟨by decide, by decide⟩) hpar hdown
    · have hholds := (hcount hroom).noted (afterFault_noted_of_plain (.inr hfew))
      exact Keeps.finish_recorded (s := s) hholds.demandChanged.keeps
  case latches =>
    obtain ⟨hdem, hfound⟩ := demand_of_wantedAtLoss hwant h.awake n
    have hdemC := hdemandC ▸ hdem
    have hthird : ((((s.lapse n).stripped d).countFault d 1).dom d).attempts = 3 := hattempts.trans ha
    have hlatched : (((s.lapse n).pgLost d).dom d).state = .latched := by
      rw [pgLost_eq, latch_dom hdemC hthird, enterLatched_dom_self]
    have hquiet := pgLost_quieted hdem hrun hfound hramp hupW (.inr hlatched)
    obtain ⟨hstate, hen, hkept⟩ := fault_latches hdemC hthird hquiet hramp hresumeC
    have hholds : s.roomFor 2 → Holds (s.evq.events ++ [(s.lapse n).recordOf .domainFault d.val 1 (some 3),
        (s.lapse n).recordOf .domainFault d.val 2 (some 3)]) ((s.lapse n).pgLost d) := fun hroom => by
      have hfirst := hcount (roomFor_mono hroom (by omega))
      rw [ha] at hfirst
      have hsecond := latch_holds hdemC hthird hfirst (by have := hroom.2; rw [List.length_append, List.length_singleton]; omega)
      rw [recordOf_congr (s := s.lapse n) (frame_seconds (pgLost_countFrame ..)), List.append_assoc] at hsecond
      exact hsecond
    refine ⟨_, hexec, hframe, hstate, hen, hkept, fun c hp hne => ?_, fun hroom =>
      Keeps.finish_recorded (s := s) (hholds hroom).demandChanged.keeps, fun hsound hroom c hp hq hnot => ?_⟩
    · obtain ⟨hpar, hdown⟩ := hchildren c hp hne
      exact quieted_children_down hquiet hramp hresumeV (by rw [hlatched]; exact ⟨by decide, by decide⟩) hpar hdown
    · obtain ⟨hpower, hcalm⟩ := hsound.lapse n
      have hsession : (s.lapse n).mdc.mode = .cutoff → (s.lapse n).sessionDemands d = true := fun hm => by
        rcases hfound with ⟨hne, -⟩ | ⟨-, -, hsession⟩
        · exact absurd hm hne
        · exact hsession hm
      have hpowering : Powering ((s.lapse n).pgLost d) := ⟨hramp, hpower.pgLost d, (pgLost_alike _ d).held.trans hrun⟩
      have hcalmV := pgLost_calm hcalm hpower hupW hdem hsession (.inr hlatched)
      rw [← lapse_entry_eq s n] at hp
      rw [← lapse_state s n] at hq
      rw [← lapse_depReported s n] at hnot
      rw [← lapse_recordOf s n]
      refine pgLost_reports hpowering hcalmV hresumeV hdemC hthird hplainW (hholds (roomFor_mono hroom (by omega))) ?_ hp hq hnot
      have := hroom.2
      rw [List.length_append]
      simp only [List.length_cons, List.length_nil]
      omega
  case off =>
    obtain ⟨hdem, hfound⟩ := demand_of_unwantedAtLoss hun n
    have hdemC : (((s.lapse n).stripped d).countFault d 1).demand d = 0 := hdemandC.trans hdem
    have hoff : (((s.lapse n).pgLost d).dom d).state = .off := by
      rw [pgLost_eq, afterFault_off hdemC, enterOff_state, if_pos rfl]
    have hstate : (((s.lapse n).pgLost d).demandChanged.finish.dom d).state = .off := by
      rcases hfound with ⟨hm, hdir, hchild⟩ | ⟨hpower, hcalm⟩
      · have halike := pgLost_alike (s.lapse n) d
        have hrest : Resting d ((s.lapse n).pgLost d) := ⟨halike.mode ▸ hm, .inr ⟨halike.directHolders d ▸ hdir,
          fun e => by rw [halike.entry]; exact hchild e, .inl hoff⟩⟩
        exact (fields_of_owner (rest_changed_finish_dom hramp hrest hresumeV (by rw [hoff]; decide))).1.trans hoff
      · exact pgLost_off hcalm hpower hrun hramp hresumeV hdem hoff
    obtain ⟨hen, hzero⟩ := off_fields (changed_rampSound hramp) hstate
    refine ⟨_, hexec, hframe, hstate, hen, hzero, fun hroom => ?_⟩
    have hholds := (hcount hroom).noted (afterFault_noted_of_plain (.inl hdemC))
    exact Keeps.finish_recorded (s := s) hholds.demandChanged.keeps

end Sys2Proof.Machine
end

section
/-! DOMAIN_CLEAR_FAULT (R34): nothing in the event's course counts a failure again or reports a child of the domain. Settles O33. -/

namespace Sys2Proof.Machine

/-! ### A domain without a failure keeps so through the work of the domains -/

/-- The domain has no failure counted and stands in no state of a failure; with `kids` no child of it is noted as blocked. -/
structure Cleared (d : DomId) (kids : Bool) (s : State) : Prop where
  attempts : (s.dom d).attempts = 0
  latched : (s.dom d).state ≠ .latched
  waits : (s.dom d).state ≠ .faultWait
  flags : kids = true → ∀ c, (s.dom c).entry.parent = some d → (s.dom c).depReported = false

section
variable {d : DomId} {kids : Bool} {s t : State}

theorem Cleared.same (h : Cleared d kids s) (hd : ∀ e, t.dom e = s.dom e) : Cleared d kids t := by
  obtain ⟨hattempts, hlatched, hwaits, hflags⟩ := h
  constructor <;> simpa only [hd]

theorem Cleared.updDom (h : Cleared d kids s) (e : DomId) (f : Domain → Domain) (hf : ∀ x, ((f x).state = x.state ∨
    ((f x).state ≠ .latched ∧ (f x).state ≠ .faultWait)) ∧ (x.attempts = 0 → (f x).attempts = 0) ∧ (f x).entry = x.entry ∧
    (f x).depReported = x.depReported) : Cleared d kids (s.updDom e f) := by
  obtain ⟨hattempts, hlatched, hwaits, hflags⟩ := h
  have hown := hf (s.dom e)
  obtain ⟨hstate, hcount, hentry, hflag⟩ := hown
  refine ⟨?_, ?_, ?_, fun hk c hc => ?_⟩
  · rw [dom_updDom]
    split
    · next hd =>
      subst hd
      exact hcount hattempts
    · exact hattempts
  · rw [dom_updDom]
    split
    · next hd =>
      subst hd
      rcases hstate with hs | hs
      · rw [hs]; exact hlatched
      · exact hs.1
    · exact hlatched
  · rw [dom_updDom]
    split
    · next hd =>
      subst hd
      rcases hstate with hs | hs
      · rw [hs]; exact hwaits
      · exact hs.2
    · exact hwaits
  · rw [dom_updDom] at hc ⊢
    split at hc
    · next hce =>
      subst hce
      rw [hentry] at hc
      rw [if_pos rfl, hflag]
      exact hflags hk c hc
    · next hce =>
      rw [if_neg hce]
      exact hflags hk c hc

theorem Cleared.setState (h : Cleared d kids s) (e : DomId) {n : DomState} (m : Nat) (hn : n ≠ .latched ∧ n ≠ .faultWait) :
    Cleared d kids (s.setState e n m) := by
  refine (h.updDom e (fun x => { x with state := n, en := n.enOn, timer := m }) fun x => ⟨.inr hn, id, rfl, rfl⟩).same fun c => ?_
  rw [setState_dom, dom_updDom]

theorem Cleared.enterOff (h : Cleared d kids s) (e : DomId) : Cleared d kids (s.enterOff e) :=
  (h.setState e 0 (n := .off) ⟨by decide, by decide⟩).updDom e _ fun _ => ⟨.inl rfl, fun _ => rfl, rfl, rfl⟩

theorem Cleared.enterQueued (h : Cleared d kids s) (e : DomId) : Cleared d kids (s.enterQueued e) := by
  have hset := h.setState e 0 (n := .queued) ⟨by decide, by decide⟩
  unfold State.enterQueued
  dsimp only
  generalize s.setState e .queued 0 = u at hset
  split
  · next hp =>
    obtain ⟨hattempts, hlatched, hwaits, hflags⟩ := hset
    have hdom : ∀ c, (u.noteBlocked e).dom c = if c = e then (u.dom e).reported else u.dom c := noteBlocked_dom u e
    have hself : ((u.noteBlocked e).dom d).attempts = (u.dom d).attempts ∧ ((u.noteBlocked e).dom d).state = (u.dom d).state := by
      rw [hdom]
      split
      · next hd =>
        subst hd
        exact ⟨rfl, rfl⟩
      · exact ⟨rfl, rfl⟩
    refine ⟨hself.1.trans hattempts, by rw [hself.2]; exact hlatched, by rw [hself.2]; exact hwaits, fun hk c hc => ?_⟩
    rw [hdom] at hc ⊢
    split at hc
    · next hce =>
      subst hce
      have hparent : (u.dom c).entry.parent = some d := hc
      rw [State.parentIs, hparent] at hp
      exact absurd (by simpa using hp) hlatched
    · next hce =>
      rw [if_neg hce]
      exact hflags hk c hc
  · exact hset

theorem Cleared.powerOff (h : Cleared d kids s) (e : DomId) (k : HeldCause) : Cleared d kids (s.powerOff e k) := by
  unfold State.powerOff
  split
  · exact (h.updDom 0 (fun x => { x with timer := 0 }) fun _ => ⟨.inl rfl, id, rfl, rfl⟩).same fun _ => rfl
  · exact h.enterOff e

theorem Cleared.forceOff (h : Cleared d kids s) (e : DomId) : Cleared d kids (s.forceOff e) := by
  unfold State.forceOff
  split
  · exact h
  · exact h
  · exact h.enterOff e
  · exact h.enterOff e
  · exact h.enterOff e
  · exact h.powerOff e _
  · exact h.powerOff e _

theorem Cleared.transition (h : Cleared d kids s) (e : DomId) : Cleared d kids (s.transition e) := by
  unfold State.transition
  split
  · refine foldl_closed State.forceStep (fun t x ht => ?_) domIdsDown h
    unfold State.forceStep
    split
    · exact ht
    · exact ht.forceOff x
  · split
    · split
      · exact h.enterQueued e
      · exact h
    · split
      · exact h.enterOff e
      · exact h
    · split
      · exact h.enterOff e
      · exact h
    · exact h
    · exact h
    · split
      · exact h
      · split
        · exact h.powerOff e _
        · exact h.setState e _ ⟨by decide, by decide⟩
    · split
      · exact h.setState e _ ⟨by decide, by decide⟩
      · exact h

theorem Cleared.settle (h : Cleared d kids s) : Cleared d kids s.settle := by
  refine foldl_closed State.transitionOf (fun t e ht => ?_) domIdsDown h
  unfold State.transitionOf
  split
  · split
    · exact ht
    · exact (ht.same (t := { t with dmc.d0Held := none }) fun _ => rfl).transition e
  · exact ht.transition e

theorem Cleared.demandChanged (h : Cleared d kids s) : Cleared d kids s.demandChanged := h.settle.same fun e => demandChanged_dom s e

theorem Cleared.rampDone (h : Cleared d kids s) (e : DomId) : Cleared d kids (s.rampDone e) := by
  unfold State.rampDone
  split
  · exact h.setState e _ ⟨by decide, by decide⟩
  · split
    · exact h.enterOff e
    · exact h.setState e _ ⟨by decide, by decide⟩

theorem Cleared.grant (h : Cleared d kids s) (e : DomId) : Cleared d kids (s.grant e) := by
  have hset := h.setState e (s.dom e).entry.rampTimeout (n := .ramping) ⟨by decide, by decide⟩
  unfold State.grant
  dsimp only
  split <;> exact hset.same fun _ => rfl

theorem Cleared.grants (h : Cleared d kids s) (n : Nat) : Cleared d kids (State.grants n s) := by
  induction n generalizing s with
  | zero => exact h
  | succ n ih =>
    unfold State.grants
    split
    · split
      · next e he =>
        refine ih ?_
        unfold State.grantAndRamp
        dsimp only
        split
        · exact ((h.grant e).rampDone e).demandChanged.same fun x => enqueueArrivals_dom _ x
        · exact h.grant e
      · exact h
    · exact h

theorem entry_of_owner {x y : Domain} (h : x = { y with owner := x.owner }) : x.entry = y.entry := by rw [h]

/-- The event's end keeps the domain without a failure, where no resumption waits. -/
theorem Cleared.finish (h : Cleared d kids s) (hw : s.work.resume = none) : Cleared d kids s.finish := by
  have hramped : Cleared d kids s.ramped := by
    unfold State.ramped
    rw [resumeNow_none hw]
    exact (h.settle.same fun e => enqueueArrivals_dom _ e).grants 12
  obtain ⟨hattempts, hlatched, hwaits, hflags⟩ := hramped
  have hdom : ∀ e, (s.finish.dom e).attempts = (s.ramped.dom e).attempts ∧ (s.finish.dom e).state = (s.ramped.dom e).state ∧
      (s.finish.dom e).depReported = (s.ramped.dom e).depReported := fun e => by
    obtain ⟨hs, -, -, ha, hf⟩ := fields_of_owner (finish_dom s e)
    exact ⟨ha, hs, hf⟩
  have hentry : ∀ e, (s.finish.dom e).entry = (s.ramped.dom e).entry := fun e => entry_of_owner (finish_dom s e)
  refine ⟨(hdom d).1.trans hattempts, by rw [(hdom d).2.1]; exact hlatched, by rw [(hdom d).2.1]; exact hwaits, fun hk c hc => ?_⟩
  rw [hentry] at hc
  rw [(hdom c).2.2]
  exact hflags hk c hc

end

/-! ### The request (R34) -/

section
variable {s : State} {d : DomId}

/-- The attempt count returned to 0. -/
def State.countCleared (s : State) (d : DomId) : State := s.updDom d (fun x => { x with attempts := 0 })

theorem clearFault_latched (h : (s.dom d).state = .latched) : s.clearFault d = (s.clearLatch d).demandChanged := by
  unfold State.clearFault
  rw [h]

theorem clearFault_waits (h : (s.dom d).state = .faultWait) : s.clearFault d = ((s.enterQueued d).countCleared d).demandChanged := by
  unfold State.clearFault
  rw [h]
  rfl

theorem clearFault_other (hl : (s.dom d).state ≠ .latched) (hw : (s.dom d).state ≠ .faultWait) : s.clearFault d = s.countCleared d := by
  unfold State.clearFault
  split
  · next h => exact absurd h hl
  · next h => exact absurd h hw
  · rfl

theorem countCleared_attempts (s : State) (d : DomId) :
    ((s.countCleared d).dom d).attempts = 0 ∧ ((s.countCleared d).dom d).state = (s.dom d).state := by
  rw [State.countCleared, dom_updDom, if_pos rfl]
  exact ⟨rfl, rfl⟩

theorem countCleared_states (s : State) (d e : DomId) :
    ((s.countCleared d).dom e).state = (s.dom e).state ∧ ((s.countCleared d).dom e).timer = (s.dom e).timer := by
  rw [State.countCleared, dom_updDom]
  split
  · next he =>
    subst he
    exact ⟨rfl, rfl⟩
  · exact ⟨rfl, rfl⟩

/-- A domain whose DEPENDENCY_BLOCKED flag is clear. -/
def Domain.unreported (x : Domain) : Domain := { x with depReported := false }

/-- The flag of one child of `d` cleared. -/
def State.clearFlag (d : DomId) (s : State) (c : DomId) : State :=
  if (s.dom c).entry.parent = some d then s.updDom c Domain.unreported else s

theorem clearFlag_dom (s : State) (d c e : DomId) :
    (s.clearFlag d c).dom e = if e = c ∧ (s.dom c).entry.parent = some d then (s.dom e).unreported else s.dom e := by
  unfold State.clearFlag
  split
  · next h =>
    rw [dom_updDom]
    by_cases he : e = c
    · subst he
      simp [h]
    · simp [he]
  · next h => simp [h]

theorem clearFlag_entry (s : State) (d c e : DomId) : ((s.clearFlag d c).dom e).entry = (s.dom e).entry := by
  rw [clearFlag_dom]
  split <;> rfl

/-- The flags of a domain's children cleared, one after the other. -/
theorem clearFlags_dom (l : List DomId) (u : State) (d e : DomId) :
    (l.foldl (State.clearFlag d) u).dom e = if e ∈ l ∧ (u.dom e).entry.parent = some d then (u.dom e).unreported else u.dom e := by
  induction l generalizing u with
  | nil => simp
  | cons x l ih =>
    rw [List.foldl_cons, ih, clearFlag_entry, clearFlag_dom]
    by_cases hp : (u.dom e).entry.parent = some d
    · by_cases hex : e = x
      · subst hex
        simp [hp, Domain.unreported]
      · simp [hp, hex]
    · have hnot : ¬ (e = x ∧ (u.dom x).entry.parent = some d) := fun hx => hp (hx.1 ▸ hx.2)
      simp [hp, hnot]

theorem clearLatch_flags (s : State) (d : DomId) : s.clearLatch d = domIds.foldl (State.clearFlag d) (s.enterOff d) := by
  unfold State.clearLatch
  dsimp only
  congr 1
  funext u c
  unfold State.clearFlag
  by_cases hp : (u.dom c).entry.parent = some d
  · rw [if_pos hp, if_pos (by simpa using hp)]
    rfl
  · rw [if_neg hp, if_neg (by simpa using hp)]

theorem clearLatch_cleared (s : State) (d : DomId) : Cleared d true (s.clearLatch d) := by
  have hdom : ∀ e, (s.clearLatch d).dom e =
      if e ∈ domIds ∧ ((s.enterOff d).dom e).entry.parent = some d then ((s.enterOff d).dom e).unreported
      else (s.enterOff d).dom e := fun e => by rw [clearLatch_flags, clearFlags_dom]
  have hself : ((s.clearLatch d).dom d).attempts = 0 ∧ ((s.clearLatch d).dom d).state = .off := by
    rw [hdom]
    split <;> rw [enterOff_dom, if_pos rfl] <;> exact ⟨rfl, rfl⟩
  obtain ⟨hattempts, hoff⟩ := hself
  refine ⟨hattempts, by rw [hoff]; decide, by rw [hoff]; decide, fun _ c hc => ?_⟩
  rw [hdom] at hc ⊢
  split at hc
  · next hx =>
    rw [if_pos hx]
    rfl
  · next hx => exact absurd ⟨mem_domIds c, hc⟩ hx

theorem clearFault_cleared (s : State) (d : DomId) : Cleared d (decide ((s.dom d).state = .latched)) (s.clearFault d) := by
  by_cases hl : (s.dom d).state = .latched
  · rw [clearFault_latched hl, decide_eq_true hl]
    exact (clearLatch_cleared s d).demandChanged
  · rw [decide_eq_false hl]
    have hof : ∀ u : State, (u.dom d).state ≠ .latched → (u.dom d).state ≠ .faultWait → Cleared d false (u.countCleared d) := fun u h1 h2 => by
      obtain ⟨ha, hs⟩ := countCleared_attempts u d
      exact ⟨ha, by rw [hs]; exact h1, by rw [hs]; exact h2, fun hk => by cases hk⟩
    by_cases hw : (s.dom d).state = .faultWait
    · rw [clearFault_waits hw]
      have hq : ((s.enterQueued d).dom d).state = .queued := by rw [enterQueued_state, if_pos rfl]
      exact (hof _ (by rw [hq]; decide) (by rw [hq]; decide)).demandChanged
    · rw [clearFault_other hl hw]
      exact hof s hl hw

theorem clearFault_frame (s : State) (d : DomId) : (s.clearFault d).frame = s.frame :=
  frame_of (clearFault_deep ..) (table_of_ssc ((Domestic.sameSessions s.ssc).clearFault d rfl)) ((Domestic.sameApproach s.apq).clearFault d rfl)

theorem countCleared_noted (s : State) (d : DomId) : (s.countCleared d).noted = s.noted := rfl

theorem clearLatch_noted (s : State) (d : DomId) : (s.clearLatch d).noted = s.noted := by
  unfold State.clearLatch
  dsimp only
  rw [foldl_keeps State.noted (fun s x => if (s.dom x).entry.parent == some d then s.updDom x (fun y => { y with depReported := false }) else s)
    (fun u x => by split <;> rfl)]
  exact enterOff_noted s d

theorem clearFault_noted (s : State) (d : DomId) : (s.clearFault d).noted = s.noted := by
  by_cases hl : (s.dom d).state = .latched
  · rw [clearFault_latched hl, demandChanged_noted, clearLatch_noted]
  · by_cases hw : (s.dom d).state = .faultWait
    · rw [clearFault_waits hw, demandChanged_noted, countCleared_noted, enterQueued_noted]
    · rw [clearFault_other hl hw, countCleared_noted]

theorem reqDomainClearFault_out (s : State) {i : Byte} (h : 11 < i.toNat) : reqDomainClearFault s [i] = refusal s .badField := by
  rw [reqDomainClearFault, readDom_eq_none h]

theorem reqDomainClearFault_taken (s : State) (d : DomId) : reqDomainClearFault s [byte d.val] = okay (s.clearFault d).finish := by
  rw [reqDomainClearFault, readDom_byte]

/-- A wanted domain that is up and not QUEUED stays as it is when its count is cleared. -/
theorem countCleared_quieted (h : Listening s) (hr : RampSound s) (hw : s.wanted d) (hup : (s.dom d).state = .on ∨ (s.dom d).state = .ramping) :
    Quieted (s.taken.countCleared d) d := by
  have hstate := (countCleared_attempts s.taken d).2
  rcases hw with ⟨hm, hdir⟩ | ⟨hsound, -⟩
  · have halike : Alike (s.taken.countCleared d) s := by
      refine alike_of_base ?_ rfl
      exact updDom_base s.taken d (fun x => { x with attempts := 0 }) fun _ => ⟨rfl, rfl, rfl⟩
    refine .inl ⟨halike.mode ▸ hm, .inl ⟨halike.directHolders d ▸ hdir, ?_⟩⟩
    rw [hstate]
    rcases hup with hup | hup
    · exact .inl hup
    · exact .inr (.inr (.inr (.inl hup)))
  · have hheld : DemandHeld s.taken := (hsound.demand.demandHeld hsound.tree).replying rfl
    have hcleared : DemandHeld (s.taken.countCleared d) := hheld.updDom d _ fun _ => ⟨rfl, rfl⟩
    exact .inr ⟨⟨clearAttempts_rampHeld d (hr.held.same rfl), hcleared.power, h.awake⟩, hcleared.calm⟩

end

/-- Settles O33. -/
theorem domainFaultIsCleared : Obligations.DomainFaultIsCleared := by
  intro d s h
  refine ⟨fun i hi => exec_of_free (c := .domainClearFault [i]) rfl rfl h (by decide) rfl rfl (reqDomainClearFault_out s.taken hi), ?_⟩
  have hexec := exec_of_free (c := .domainClearFault [byte d.val]) rfl rfl h (by decide) rfl rfl (reqDomainClearFault_taken s.taken d)
  have hresume : (s.taken.clearFault d).work.resume = none := (noted_resume (clearFault_noted s.taken d)).trans h.resume
  have hframe : (s.taken.clearFault d).finish.frame = s.frame := (finish_frame hresume).trans (clearFault_frame s.taken d)
  obtain ⟨hattempts, hlatched, hwaits, hflags⟩ := (clearFault_cleared s.taken d).finish hresume
  have hentry : ∀ c, ((s.taken.clearFault d).finish.dom c).entry = (s.dom c).entry := fun c => base_entry (frame_base hframe) c
  have hkept : RampSound s → s.wanted d → ((s.dom d).state = .on ∨ (s.dom d).state = .ramping) →
      ((s.taken.clearFault d).finish.dom d).state = (s.dom d).state ∧ ((s.taken.clearFault d).finish.dom d).timer = (s.dom d).timer := by
    intro hr hw hup
    have hne : (s.dom d).state ≠ .latched ∧ (s.dom d).state ≠ .faultWait ∧ (s.dom d).state ≠ .queued := by
      rcases hup with hup | hup <;> rw [hup] <;> exact ⟨by decide, by decide, by decide⟩
    obtain ⟨hl, hf, hq⟩ := hne
    have hwork : s.taken.clearFault d = s.taken.countCleared d := clearFault_other (s := s.taken) hl hf
    have hramp : RampHeld (s.taken.countCleared d) := clearAttempts_rampHeld d (hr.held.same rfl)
    obtain ⟨hstate, htimer⟩ := countCleared_states s.taken d d
    have hdom := quieted_finish (countCleared_quieted h hr hw hup) hramp (hwork ▸ hresume) (by rw [hstate]; exact hq)
    rw [hwork]
    obtain ⟨hs, -, ht, -⟩ := fields_of_owner hdom
    exact ⟨hs.trans hstate, ht.trans htimer⟩
  generalize (s.taken.clearFault d).finish = t at *
  exact ⟨_, hexec, sendReply_replies .., (sendReply_frame ..).trans hframe, hattempts, hlatched, hwaits,
    fun hl c hc => hflags (decide_eq_true hl) c ((congrArg DomainEntry.parent (hentry c)).trans hc), hkept⟩

end Sys2Proof.Machine
end

section
/-! D0's switch-off waits for the reply that is being sent (R35, R182): obligation O38. -/

namespace Sys2Proof.Machine

/-! ### A switch-off that is held stays held to the event's end -/

theorem refreshAttn_dmc (s : State) : s.refreshAttn.dmc = s.dmc := by
  obtain ⟨a, p, heq⟩ := refreshAttn_eq s
  rw [heq]

theorem refreshSessions_hold (s : State) : s.refreshSessions.hold = s.hold := rfl

theorem beforeAttn_hold (s : State) : s.beforeAttn.hold = s.ramped.hold := by
  rw [State.beforeAttn]
  generalize s.ramped = r
  exact (refreshSub_hold _).trans ((refreshOwners_hold _).trans ((refreshSessions_hold _).trans (recordBlocked_hold r)))

theorem finish_d0Held (s : State) : s.finish.dmc.d0Held = s.ramped.dmc.d0Held := by
  have hbefore : s.beforeAttn.dmc.d0Held = s.ramped.dmc.d0Held := by
    have hhold := beforeAttn_hold s
    generalize s.beforeAttn = b at hhold ⊢
    generalize s.ramped = r at hhold ⊢
    exact congrArg Prod.fst hhold
  have hended : s.finish.dmc = s.beforeAttn.dmc :=
    (congrArg State.dmc (finish_eq s)).trans ((endEvent_dmc s.beforeAttn.refreshAttn).trans (refreshAttn_dmc s.beforeAttn))
  rw [hended, hbefore]

/-- D0 stands in HOLDOFF at rest, its switch-off held until the reply's end. -/
structure Waiting (s : State) : Prop where
  rest : Resting 0 s
  state : (s.dom 0).state = .holdoff
  held : s.dmc.d0Held = some .demandGone

section
variable {s t : State}

theorem Resting.demand_zero {d : DomId} (h : Resting d s) (hs : (s.dom d).state = .holdoff) : s.demand d = 0 := by
  rcases h.state with ⟨-, hx⟩ | ⟨hdir, hchild, -⟩
  · rw [hs] at hx
    simp at hx
  · rw [State.demand, hdir, childless hchild]

theorem Waiting.stands (h : Waiting s) : s.heldStands = true := by
  rw [heldStands_demandGone h.held, h.rest.demand_zero h.state]
  rfl

theorem Waiting.congr (h : Waiting s) (ha : Alike t s) (hdom : (t.dom 0).state = (s.dom 0).state) (hheld : t.dmc.d0Held = s.dmc.d0Held) :
    Waiting t := by
  obtain ⟨⟨hmode, hrest⟩, hstate, hold⟩ := h
  refine ⟨⟨ha.mode ▸ hmode, ?_⟩, hdom.trans hstate, hheld.trans hold⟩
  rw [ha.directHolders, hdom]
  simp only [ha.entry]
  exact hrest

theorem Waiting.setState (h : Waiting s) {e : DomId} (he : e ≠ 0) (n : DomState) (x : Nat) : Waiting (s.setState e n x) :=
  h.congr (setState_alike s e n x) (by rw [setState_state, if_neg (Ne.symm he)]) (setState_d0Held_ne n x he)

theorem Waiting.enterOff (h : Waiting s) {e : DomId} (he : e ≠ 0) : Waiting (s.enterOff e) :=
  h.congr (enterOff_alike s e) (by rw [enterOff_state, if_neg (Ne.symm he)]) (enterOff_d0Held_ne he)

theorem Waiting.transitionOf (h : Waiting s) (e : DomId) : Waiting (s.transitionOf e) := by
  unfold State.transitionOf
  by_cases he : e = 0
  · rw [if_pos (by simp [he, h.held]), if_pos h.stands]
    exact h
  · rw [if_neg (by simp [he])]
    have hforces : s.forces e = false := by simp [State.forces, State.unwantedInCutoff, h.rest.mode]
    have hown := transition_ownChange hforces
    exact h.congr hown.alike (hown.state 0 (Ne.symm he)) (hown.held he)

theorem Waiting.settle (h : Waiting s) : Waiting s.settle := foldl_closed _ (fun _ e hu => hu.transitionOf e) _ h

theorem Waiting.refreshSub (h : Waiting s) : Waiting s.refreshSub :=
  h.congr (refreshSub_alike s) (by rw [refreshSub_dom]) (congrArg Prod.fst (refreshSub_hold s))

theorem Waiting.demandChanged (h : Waiting s) : Waiting s.demandChanged := h.settle.refreshSub

theorem Waiting.rampDone (h : Waiting s) {e : DomId} (he : e ≠ 0) : Waiting (s.rampDone e) := by
  unfold State.rampDone
  split
  · exact h.setState he _ _
  · split
    · exact h.enterOff he
    · exact h.setState he _ _

theorem grant_d0Held_ne {e : DomId} (he : e ≠ 0) : (s.grant e).dmc.d0Held = s.dmc.d0Held :=
  (congrArg Prod.fst (grant_hold s e)).trans (setState_d0Held_ne _ _ he)

theorem Waiting.grant (h : Waiting s) {e : DomId} (he : e ≠ 0) : Waiting (s.grant e) :=
  h.congr (grant_alike s e) (by rw [grant_dom_ne (Ne.symm he)]) (grant_d0Held_ne he)

theorem enqueueArrivals_alike (s : State) : Alike s.enqueueArrivals s := ⟨rfl, rfl, ⟨rfl, rfl, rfl⟩, fun _ => rfl, rfl⟩

theorem enqueueArrivals_d0Held (s : State) : s.enqueueArrivals.dmc.d0Held = s.dmc.d0Held := rfl

theorem Waiting.enqueueArrivals (h : Waiting s) : Waiting s.enqueueArrivals :=
  h.congr (enqueueArrivals_alike s) (by rw [enqueueArrivals_dom]) rfl

theorem Waiting.grantAndRamp (h : Waiting s) {e : DomId} (he : e ≠ 0) : Waiting (s.grantAndRamp e) := by
  unfold State.grantAndRamp
  dsimp only
  split
  · exact ((h.grant he).rampDone he).demandChanged.enqueueArrivals
  · exact h.grant he

theorem Waiting.grants (h : Waiting s) (hr : RampSound s) (n : Nat) : Waiting (State.grants n s) := by
  induction n generalizing s with
  | zero => exact h
  | succ n ih =>
    unfold State.grants
    split
    · next hf =>
      split
      · next e he =>
        have hqueued : (s.dom e).state = .queued := (hr.queued e).2 (mem_queueOrder (List.mem_of_find?_eq_some he))
        have hne : e ≠ 0 := fun h0 => by
          rw [h0, h.state] at hqueued
          cases hqueued
        exact ih (h.grantAndRamp hne) (grantAndRamp_rampSound hr e hqueued hf)
      · exact h
    · exact h

theorem Waiting.ramped (h : Waiting s) (hr : RampHeld s) (hw : s.work.resume = none) : Waiting s.ramped := by
  rw [State.ramped, resumeNow_none hw]
  exact h.settle.enqueueArrivals.grants (enqueueArrivals_rampSound (settle_rampHeld hr)) 12

/-- The grants to other domains hold nothing back and release nothing. -/
theorem ReadyToGrant.grants_d0Held (h : ReadyToGrant s) (n : Nat) (h0 : (s.dom 0).state ≠ .queued) :
    (State.grants n s).dmc.d0Held = s.dmc.d0Held := by
  induction n generalizing s with
  | zero => rfl
  | succ n ih =>
    unfold State.grants
    split
    · next hf =>
      split
      · next e he =>
        have hqueued : (s.dom e).state = .queued := (h.ramp.queued e).2 (mem_queueOrder (List.mem_of_find?_eq_some he))
        have hel := List.find?_some he
        have hne : e ≠ 0 := fun hx => h0 (hx ▸ hqueued)
        have hgrant := grant_d0Held_ne (s := s) hne
        have hstep : (s.grantAndRamp e).dmc.d0Held = s.dmc.d0Held := by
          rcases h.grantAndRamp_eq hqueued hel hf with heq | heq
          · rw [heq, hgrant]
          · have hsub : ((s.grant e).setState e .on 0).refreshSub.dmc.d0Held = ((s.grant e).setState e .on 0).dmc.d0Held :=
              congrArg Prod.fst (refreshSub_hold _)
            rw [heq]
            exact hsub.trans ((setState_d0Held_ne .on 0 hne).trans hgrant)
        have hdom := h.grantAndRamp_dom_ne hqueued hel hf (Ne.symm hne)
        rw [ih (h.grantAndRamp hqueued hel hf).1 (by rw [hdom]; exact h0), hstep]
      · rfl
    · rfl

end

/-! ### The hold-off's expiry while a reply is being sent -/

section
variable {w : State}

theorem powerOff_hold_state {s : State} (c : HeldCause) (hr : s.lnk.reply.isSome = true) (e : DomId) :
    ((s.powerOff 0 c).dom e).state = (s.dom e).state := by
  rw [powerOff_of_held c ⟨rfl, hr⟩]
  show ((s.updDom 0 (fun x => { x with timer := 0 })).dom e).state = _
  rw [dom_updDom]
  split
  · next he => rw [he]
  · rfl

/-- A calm unwanted D0 whose switch-off is then held leaves every domain calm. -/
theorem held_allCalm (hcalm : AllCalm w) (hr : w.lnk.reply.isSome = true) (hs : (w.dom 0).state = .holdoff) (hdem : w.demand 0 = 0) :
    AllCalm (w.powerOff 0 .demandGone) := by
  have halike := powerOff_alike w 0 .demandGone
  have hstate := powerOff_hold_state .demandGone hr
  have hdemand : ∀ e, (w.powerOff 0 .demandGone).demand e = w.demand e := fun e => halike.demand fun c _ => by rw [hstate]
  refine ⟨fun e => ?_, fun _ => ?_⟩
  · by_cases he : e = 0
    · subst he
      have hv : ((w.powerOff 0 .demandGone).dom 0).state = .holdoff := (hstate 0).trans hs
      have hzero := (hdemand 0).trans hdem
      refine calm_of_state (fun _ => hzero) (fun h => ?_) (fun h => ?_) (fun _ => hzero) (fun _ h => absurd hzero h)
      · rw [hv] at h
        simp at h
      · rw [hv] at h
        cases h
    · exact (hcalm.calm e).congr halike (hstate e) (hdemand e) (.inl he)
  · have hheld : (w.powerOff 0 .demandGone).dmc.d0Held = some .demandGone := by rw [powerOff_of_held .demandGone ⟨rfl, hr⟩]
    rw [heldStands_demandGone hheld, hdemand, hdem]
    rfl

/-- D0's switch-off, once held, is still held when the event ends, and D0 as it was but for its timer and its owner. -/
theorem held_finish (hw : w.undrawn 0) (hr : w.lnk.reply.isSome = true) (hs : (w.dom 0).state = .holdoff) (hramp : RampHeld w)
    (hrun : w.held = false) (hresume : (w.powerOff 0 .demandGone).work.resume = none) :
    (w.powerOff 0 .demandGone).demandChanged.finish.dmc.d0Held = some .demandGone ∧
      (w.powerOff 0 .demandGone).demandChanged.finish.dom 0 = { (w.powerOff 0 .demandGone).dom 0 with
        owner := ((w.powerOff 0 .demandGone).demandChanged.finish.dom 0).owner } := by
  have hstate : ((w.powerOff 0 .demandGone).dom 0).state = .holdoff := (powerOff_hold_state _ hr 0).trans hs
  have hheld : (w.powerOff 0 .demandGone).dmc.d0Held = some .demandGone := by rw [powerOff_of_held .demandGone ⟨rfl, hr⟩]
  have halike := powerOff_alike w 0 .demandGone
  have hrampV : RampHeld (w.powerOff 0 .demandGone) := powerOff_rampHeld hramp 0 .demandGone
  have hq : ((w.powerOff 0 .demandGone).dom 0).state ≠ .queued := by rw [hstate]; decide
  rw [finish_d0Held]
  rcases hw with ⟨hmode, hdir, hchild⟩ | ⟨hpower, hcalm, hdem⟩
  · have hrest : Resting 0 (w.powerOff 0 .demandGone) := by
      refine ⟨halike.mode ▸ hmode, .inr ⟨halike.directHolders 0 ▸ hdir, fun e => ?_, .inr (.inl hstate)⟩⟩
      rw [halike.entry]
      exact hchild e
    have hwait : Waiting (w.powerOff 0 .demandGone) := ⟨hrest, hstate, hheld⟩
    generalize w.powerOff 0 .demandGone = v at *
    exact ⟨(hwait.demandChanged.ramped (RampHeld.closed.demandChanged hrampV) ((demandChanged_resume v).trans hresume)).held,
      quieted_finish_dom (.inl hrest) hrampV hresume hq⟩
  · have hcalmV := held_allCalm hcalm hr hs hdem
    have hpowerV := hpower.powerOff (d := 0) .demandGone (by rw [hs]; rfl) (hpower.childrenDown_of_not_on (by rw [hs]; decide))
    have hrunV := halike.held.trans hrun
    generalize w.powerOff 0 .demandGone = v at *
    refine ⟨?_, quieted_finish_dom (.inr ⟨⟨hrampV, hpowerV, hrunV⟩, hcalmV⟩) hrampV hresume hq⟩
    have hpowering : Powering v := ⟨hrampV, hpowerV, hrunV⟩
    have hdom : v.demandChanged.enqueueArrivals.dom 0 = v.dom 0 := by
      rw [enqueueArrivals_dom, demandChanged_dom, settle_of_calm hcalmV hrunV]
    obtain ⟨hramped, hready⟩ := calm_ramped hpowering.demandChanged (demandChanged_calm hpowering) ((demandChanged_resume v).trans hresume)
    have hkept : v.demandChanged.dmc.d0Held = v.dmc.d0Held := by
      rw [demandChanged_of_calm hcalmV hrunV]
      exact congrArg Prod.fst (refreshSub_hold v)
    have hgranted := hready.grants_d0Held 12 (by rw [hdom]; exact hq)
    rw [← hramped] at hgranted
    exact (hgranted.trans (enqueueArrivals_d0Held _)).trans (hkept.trans hheld)

theorem powerOff_frame (s : State) (d : DomId) (c : HeldCause) : (s.powerOff d c).frame = s.frame :=
  frame_of (powerOff_deep ..) (table_of_ssc ((Domestic.sameSessions s.ssc).powerOff d c rfl))
    ((Domestic.sameApproach s.apq).powerOff d c rfl)

end

/-! ### The reply's end -/

section
variable {w : State}

/-- The reply has been sent and D0's switch-off is no longer held. -/
def State.unheld (w : State) : State := { w.clearReply with dmc.d0Held := none }

theorem unheld_undrawn (h : w.undrawn 0) (hs : (w.dom 0).state = .holdoff) : w.unheld.undrawn 0 := by
  rcases h with h | ⟨⟨htree, hparents, -, -, -⟩, ⟨hcalm, -⟩, hdem⟩
  · exact .inl h
  · refine .inr ⟨⟨htree, hparents, fun hx => absurd rfl hx, fun hx => absurd rfl hx, fun hx => absurd rfl hx⟩,
      ⟨fun e => ?_, fun hx => absurd rfl hx⟩, hdem⟩
    have halike : Alike w.unheld w := ⟨rfl, rfl, ⟨rfl, rfl, rfl⟩, fun _ => rfl, rfl⟩
    by_cases he : e = 0
    · subst he
      have hs' : (w.unheld.dom 0).state = .holdoff := hs
      refine calm_of_state (fun _ => hdem) (fun hx => ?_) (fun hx => ?_) (fun _ => hdem) (fun _ hx => absurd hdem hx)
      · rw [hs'] at hx
        simp at hx
      · rw [hs'] at hx
        cases hx
    · exact (hcalm e).congr halike rfl rfl (.inl he)

/-- D0's switch-off takes the link down with it (R182). -/
theorem enterOff_zero_linkSound {s : State} (h : (s.dom 0).state.live = true) : LinkSound (s.enterOff 0) := by
  have hlnk : (s.setState 0 .off 0).lnk = s.linkLoss.lnk := by
    rw [setState_lnk_zero, if_pos (by rw [h]; rfl)]
  have hdead : (s.setState 0 .off 0).linkLive = false := by
    rw [State.linkLive, setState_state, if_pos rfl]
    rfl
  refine updDom_linkSound 0 (fun x => { x with attempts := 0 }) (fun _ => rfl) ⟨?_, ?_, fun _ => ?_, fun hx => ?_⟩
  · rw [hlnk]
    exact Nat.zero_le _
  · rw [hlnk]
    exact Nat.zero_le _
  · rw [hlnk]
    exact ⟨rfl, rfl, rfl, rfl, rfl, rfl⟩
  · rw [hdead] at hx
    cases hx

theorem pulseAfterRead_resume (s : State) : s.pulseAfterRead.work.resume = s.work.resume := by
  obtain ⟨q, heq⟩ := pulseAfterRead_eq s
  rw [heq]

/-- What a state agrees on with another of which only the event queue differs. -/
theorem Quieted.evq {s : State} {d : DomId} (h : Quieted s d) (q : Evq) : Quieted { s with evq := q } d := by
  rcases h with ⟨hmode, hrest⟩ | ⟨⟨hramp, hpower, hrun⟩, hcalm⟩
  · exact .inl ⟨hmode, hrest⟩
  · have halike : Alike { s with evq := q } s := ⟨rfl, rfl, ⟨rfl, rfl, rfl⟩, fun _ => rfl, rfl⟩
    exact .inr ⟨⟨hramp.same rfl, hpower.congr (fun _ => ⟨rfl, rfl⟩) rfl, hrun⟩,
      ⟨fun e => (hcalm.calm e).congr halike rfl rfl (.inr rfl), hcalm.stands⟩⟩

theorem replySent_of_held (hreset : w.lnk.resetDue = false) (hstands : w.heldStands = true) :
    w.replySent = (w.unheld.enterOff 0).demandChanged.pulseAfterRead.finish := by
  have hs : w.clearReply.heldStands = true := hstands
  rw [State.replySent, if_neg (by rw [hreset]; decide), State.releaseD0, if_pos hs]
  rfl

/-- With D0 off the reply's end leaves the link dead and ATTN deasserted. -/
theorem replySent_off (hw : w.undrawn 0) (hs : (w.dom 0).state = .holdoff) (hramp : RampHeld w) (hrun : w.held = false)
    (hresume : w.work.resume = none) (hreset : w.lnk.resetDue = false) (hstands : w.heldStands = true) :
    LinkSound w.replySent ∧ RampSound w.replySent ∧ (w.replySent.dom 0).state = .off ∧ w.replySent.evq.attn = false ∧
      w.replySent.frame = w.frame := by
  have hundrawn := unheld_undrawn hw hs
  have hsY : (w.unheld.dom 0).state = .holdoff := hs
  have hrampY : RampHeld w.unheld := hramp.same rfl
  have hrunY : w.unheld.held = false := hrun
  have hresumeY : w.unheld.work.resume = none := hresume
  have hframeY : w.unheld.frame = w.frame := by
    have hbase : w.unheld.base = w.base := by simp only [State.base, State.unheld, State.clearReply, hreset]
    exact congrArg (fun b => ((b, w.wlu, w.wsc), w.table, w.apq)) hbase
  rw [replySent_of_held hreset hstands]
  generalize w.unheld = y at *
  have hrampOff := off_rampHeld hrampY 0
  have hoff : ((y.enterOff 0).dom 0).state = .off := by rw [enterOff_state, if_pos rfl]
  obtain ⟨hquiet, hstate⟩ := off_quieted hundrawn (changedAt_enterOff y 0) hrunY hrampOff
    (fun hp => hp.enterOff (hp.childrenDown_of_not_on (by simp [hsY]))) hoff (fun h0 => absurd rfl h0)
  have hlink : LinkSound (y.enterOff 0).demandChanged := LinkSound.closed.demandChanged (enterOff_zero_linkSound (by rw [hsY]; rfl))
  have hresumeOff : (y.enterOff 0).demandChanged.work.resume = none :=
    (demandChanged_resume _).trans ((noted_resume (enterOff_noted y 0)).trans hresumeY)
  have hrampV : RampHeld (y.enterOff 0).demandChanged := RampHeld.closed.demandChanged hrampOff
  have hframe : (y.enterOff 0).demandChanged.frame = w.frame := (demandChanged_frame _).trans ((enterOff_frame y 0).trans hframeY)
  generalize (y.enterOff 0).demandChanged = v at *
  have hframeP : v.pulseAfterRead.frame = w.frame := (pulseAfterRead_frame v).trans hframe
  have hresumeP := (pulseAfterRead_resume v).trans hresumeOff
  have hlinkP : LinkSound v.pulseAfterRead ∧ RampHeld v.pulseAfterRead ∧ Quieted v.pulseAfterRead 0 ∧
      (v.pulseAfterRead.dom 0).state = .off := by
    obtain ⟨q, heq⟩ := pulseAfterRead_eq v
    rw [heq]
    exact ⟨hlink.same rfl rfl, hrampV.same rfl, hquiet.evq q, hstate⟩
  generalize v.pulseAfterRead = p at *
  obtain ⟨hlinkP, hrampP, hquietP, hstateP⟩ := hlinkP
  have hdom := quieted_finish hquietP hrampP hresumeP (by rw [hstateP]; decide)
  have hfinal : (p.finish.dom 0).state = .off := (fields_of_owner hdom).1.trans hstateP
  obtain ⟨hderived, -⟩ := finish_settled p
  refine ⟨finish_linkSound hlinkP, finish_rampSound hrampP, hfinal, ?_, (finish_frame hresumeP).trans hframeP⟩
  rw [hderived.attn, State.attention, hfinal]
  rfl

end

/-- Settles O38: D0's hold-off expiry is held back while a reply is sent, and done at the reply's end. -/
theorem d0WaitsForTheReply : Obligations.D0WaitsForTheReply := by
  intro s n h hr hs hun hreply
  have hrW : RampSound (s.lapse n) := lapse_rampSound n hr
  have hrun : (s.lapse n).held = false := (lapse_held s n).trans h.awake
  have hresume := h.lapse_resume n
  have hunW := lapse_undrawn hun n
  have hsW : ((s.lapse n).dom 0).state = .holdoff := (lapse_state s n 0).trans hs
  have hreplyW : (s.lapse n).lnk.reply.isSome = true := by rw [lapse_reply]; exact hreply
  refine ⟨fun hn hheld => ?expiry, fun hn hheld hreset => ?replyEnd⟩
  case expiry =>
    have hleft : s.leftHoldoff 0 = some n := by
      rw [State.leftHoldoff, if_pos (by simp [hs, hheld]), hn]
    have hexec : exec (.holdoffExpiry 0) s = .next ((s.lapse n).powerOff 0 .demandGone).demandChanged.finish :=
      timed_of_some h.awake hleft (fun s => (s.powerOff 0 .demandGone).demandChanged)
    generalize s.lapse n = w at *
    have hdomV : (w.powerOff 0 .demandGone).dom 0 = { w.dom 0 with timer := 0 } := by
      rw [powerOff_of_held .demandGone ⟨rfl, hreplyW⟩]
      show (w.updDom 0 (fun x => { x with timer := 0 })).dom 0 = _
      rw [dom_updDom, if_pos rfl]
    have hresumeV : (w.powerOff 0 .demandGone).work.resume = none := (noted_resume (powerOff_noted w 0 .demandGone)).trans hresume
    have hrampV : RampHeld (w.powerOff 0 .demandGone) := powerOff_rampHeld hrW.held 0 .demandGone
    have hserving : Serving w.lnk w := ⟨by rw [State.linkLive, hsW]; rfl, rfl, hreplyW⟩
    have hserved := ((Serving.closed w.lnk).demandChanged (hserving.powerOff 0 .demandGone)).finish (RampHeld.closed.demandChanged hrampV)
    obtain ⟨hheldT, hdom⟩ := held_finish hunW hreplyW hsW hrW.held hrun hresumeV
    rw [hdomV] at hdom
    obtain ⟨hstate, hen, htimer, -⟩ := fields_of_owner hdom
    obtain ⟨henW, -⟩ := hrW.domains 0
    refine ⟨_, hexec, (changed_finish_frame hresumeV).trans (powerOff_frame w 0 .demandGone), hstate.trans hsW, hen.trans ?_, htimer,
      hheldT, hserved.lnk⟩
    rw [henW, hsW]
    rfl
  case replyEnd =>
    obtain ⟨-, hresetL, -, -, hheldL, -⟩ := lapse_link s n
    have hexec : exec .replyEnd s = .next (s.lapse n).replySent.takeNext := by
      rw [hn]
      exact exec_replyEnd h.awake hreply
    have hstands : (s.lapse n).heldStands = true := by
      have hdem : (s.lapse n).demand 0 = 0 := demand_of_undrawn hunW
      rw [heldStands_demandGone (hheldL.trans hheld), hdem]
      rfl
    obtain ⟨hlink, hrampT, hoff, hattn, hframe⟩ := replySent_off hunW hsW hrW.held hrun hresume (hresetL.trans hreset) hstands
    rw [hexec]
    generalize (s.lapse n).replySent = t at *
    have hdead : t.linkLive = false := by
      rw [State.linkLive, hoff]
      rfl
    obtain ⟨hreceiver, hinbound, -, -, -, hnone⟩ := hlink.dead hdead
    have hnext : t.takeNext = t := by
      rw [State.takeNext, if_neg (by rw [hnone]; decide), hinbound]
    rw [hnext]
    exact ⟨t, rfl, hframe, hoff, (off_fields hrampT hoff).1, hreceiver, hinbound, hnone, hattn⟩

end Sys2Proof.Machine
end

section
/-! In CUTOFF a domain that no session demands, once it is OFF or LATCHED, stays so; and the domain that comes to stand as R32 says takes all
of them off (R32, R33). -/

namespace Sys2Proof.Machine

/-! ### A domain shed in CUTOFF -/

/-- In CUTOFF the domain is OFF or LATCHED, and no session that is not SUSPENDED demands it. -/
structure Shed (d : DomId) (s : State) : Prop where
  mode : s.mdc.mode = .cutoff
  undemanded : s.sessionDemands d = false
  down : (s.dom d).state = .off ∨ (s.dom d).state = .latched

section
variable {d e : DomId} {s t : State}

theorem Shed.congr (h : Shed d s) (ha : Alike t s) (hd : (t.dom d).state = (s.dom d).state) : Shed d t :=
  ⟨ha.mode.trans h.mode, (ha.sessionDemands d).trans h.undemanded, by rw [hd]; exact h.down⟩

theorem Shed.change (h : Shed d s) (ha : Alike t s) (hd : (t.dom d).state = (s.dom d).state ∨ (t.dom d).state = .off) : Shed d t := by
  rcases hd with hd | hd
  · exact h.congr ha hd
  · exact ⟨ha.mode.trans h.mode, (ha.sessionDemands d).trans h.undemanded, .inl hd⟩

theorem Shed.setState (h : Shed d s) (hne : d ≠ e) (n : DomState) (x : Nat) : Shed d (s.setState e n x) :=
  h.congr (setState_alike s e n x) (by rw [setState_state, if_neg hne])

theorem Shed.enterOff (h : Shed d s) (e : DomId) : Shed d (s.enterOff e) := by
  refine h.change (enterOff_alike s e) ?_
  rw [enterOff_state]
  split
  · exact .inr rfl
  · exact .inl rfl

theorem Shed.forceStep (h : Shed d s) (e : DomId) : Shed d (s.forceStep e) := by
  refine ⟨(forceStep_alike s e).mode.trans h.mode, ((forceStep_alike s e).sessionDemands d).trans h.undemanded, ?_⟩
  unfold State.forceStep
  split
  · exact h.down
  · rw [forceOff_state]
    split
    · next hx =>
      subst hx
      rcases h.down with hs | hs <;> rw [hs]
      · exact .inl rfl
      · exact .inr rfl
    · exact h.down

theorem Shed.forceCutoff (h : Shed d s) : Shed d s.forceCutoff := foldl_closed State.forceStep (fun _ e ht => ht.forceStep e) domIdsDown h

/-- No transition takes it up. -/
theorem Shed.transition (h : Shed d s) (e : DomId) : Shed d (s.transition e) := by
  cases hf : s.forces e
  · have hown := transition_ownChange hf
    by_cases hde : d = e
    · subst hde
      have hplaced : s.holdsPlaced = false := by simp [State.holdsPlaced, h.mode]
      have hsame : s.transition d = s := by
        have hguard : ¬ (s.unwantedInCutoff d && (s.dom d).state != .off && (s.dom d).state != .latched) = true := by
          rw [show (s.unwantedInCutoff d && (s.dom d).state != .off && (s.dom d).state != .latched) = s.forces d from rfl, hf]
          decide
        unfold State.transition
        rw [if_neg hguard]
        rcases h.down with hs | hs <;> rw [hs]
        simp [hplaced, h.undemanded]
      rw [hsame]
      exact h
    · exact h.congr hown.alike (hown.state d hde)
  · rw [transition_of_forces hf]
    exact h.forceCutoff

theorem Shed.transitionOf (h : Shed d s) (e : DomId) : Shed d (s.transitionOf e) := by
  unfold State.transitionOf
  split
  · split
    · exact h
    · exact Shed.transition (s := { s with dmc.d0Held := none }) (h.congr ⟨rfl, rfl, ⟨rfl, rfl, rfl⟩, fun _ => rfl, rfl⟩ rfl) e
  · exact h.transition e

theorem Shed.settle (h : Shed d s) : Shed d s.settle := foldl_closed _ (fun _ e hu => hu.transitionOf e) _ h

theorem Shed.demandChanged (h : Shed d s) : Shed d s.demandChanged :=
  h.settle.congr (refreshSub_alike _) (by rw [demandChanged_dom])

theorem Shed.enqueueArrivals (h : Shed d s) : Shed d s.enqueueArrivals := h.congr (enqueueArrivals_alike s) (by rw [enqueueArrivals_dom])

theorem Shed.rampDone (h : Shed d s) (hne : d ≠ e) : Shed d (s.rampDone e) := by
  unfold State.rampDone
  split
  · exact h.setState hne _ _
  · split
    · exact h.enterOff e
    · exact h.setState hne _ _

theorem Shed.grant (h : Shed d s) (hne : d ≠ e) : Shed d (s.grant e) := h.congr (grant_alike s e) (by rw [grant_dom_ne hne])

theorem Shed.grantAndRamp (h : Shed d s) (hne : d ≠ e) : Shed d (s.grantAndRamp e) := by
  unfold State.grantAndRamp
  dsimp only
  split
  · exact ((h.grant hne).rampDone hne).demandChanged.enqueueArrivals
  · exact h.grant hne

theorem Shed.grants (h : Shed d s) (hr : RampSound s) (n : Nat) : Shed d (State.grants n s) := by
  induction n generalizing s with
  | zero => exact h
  | succ n ih =>
    unfold State.grants
    split
    · next hf =>
      split
      · next e he =>
        have hqueued : (s.dom e).state = .queued := (hr.queued e).2 (mem_queueOrder (List.mem_of_find?_eq_some he))
        have hne : d ≠ e := fun hx => by
          subst hx
          rcases h.down with hs | hs <;> rw [hs] at hqueued <;> cases hqueued
        exact ih (h.grantAndRamp hne) (grantAndRamp_rampSound hr e hqueued hf)
      · exact h
    · exact h

/-- At the end of an event whose settling sheds it its EN is off. -/
theorem shed_finish (h : Shed d s.settle) (hr : RampHeld s) (hw : s.work.resume = none) : (s.finish.dom d).en = false := by
  have hramped : Shed d s.ramped := by
    rw [State.ramped, resumeNow_none hw]
    exact h.enqueueArrivals.grants (enqueueArrivals_rampSound (settle_rampHeld hr)) 12
  rw [((finish_rampSound hr).domains d).en, (fields_of_owner (finish_dom s d)).1]
  rcases hramped.down with hs | hs <;> rw [hs] <;> rfl

theorem forceOff_hold_ne (s : State) (h : e ≠ 0) : (s.forceOff e).hold = s.hold := by
  have hoff : (s.enterOff e).hold = s.hold := setState_hold_ne s .off 0 h
  have hpower : (s.powerOff e .forced).hold = s.hold := by
    rw [powerOff_of_not_held _ fun hx => h hx.1]
    exact hoff
  unfold State.forceOff
  split
  · rfl
  · rfl
  · exact hoff
  · exact hoff
  · exact hoff
  · exact hpower
  · exact hpower

theorem forceOff_shed (hm : s.mdc.mode = .cutoff) (hs : s.sessionDemands d = false) (h0 : d = 0 → s.lnk.reply = none) :
    Shed d (s.forceOff d) := by
  refine ⟨(forceOff_alike s d).mode.trans hm, ((forceOff_alike s d).sessionDemands d).trans hs, ?_⟩
  rw [forceOff_state, if_pos rfl]
  split
  · exact .inr rfl
  · rw [if_neg]
    · exact .inl rfl
    · rintro ⟨-, hzero, hreply⟩
      rw [h0 hzero] at hreply
      cases hreply

/-- R33: in CUTOFF the forced switch-off sheds every domain that no session demands, D0 apart while a reply is sent. -/
theorem forceSteps_shed {l : List DomId} (hl : d ∈ l) (hm : s.mdc.mode = .cutoff) (hs : s.sessionDemands d = false)
    (h0 : d = 0 → s.lnk.reply = none) : Shed d (l.foldl State.forceStep s) := by
  induction l generalizing s with
  | nil => cases hl
  | cons e l ih =>
    rw [List.foldl_cons]
    by_cases he : d = e
    · subst he
      refine foldl_closed State.forceStep (fun _ x ht => ht.forceStep x) l ?_
      rw [State.forceStep, if_neg (by rw [hs]; decide)]
      exact forceOff_shed hm hs h0
    · have halike := forceStep_alike s e
      refine ih (List.mem_of_ne_of_mem he hl) (halike.mode.trans hm) ((halike.sessionDemands d).trans hs) fun hd => ?_
      have hkept : (s.forceStep e).hold = s.hold := by
        unfold State.forceStep
        split
        · rfl
        · exact forceOff_hold_ne s fun hx => he (hd.trans hx.symm)
      exact (congrArg Prod.snd hkept).trans (h0 hd)

theorem forceCutoff_shed (hm : s.mdc.mode = .cutoff) (hs : s.sessionDemands d = false) (h0 : d = 0 → s.lnk.reply = none) :
    Shed d s.forceCutoff := forceSteps_shed (mem_domIdsDown d) hm hs h0

/-! ### R32: a domain that stands for a LATCHED child alone -/

/-- The domain e is up in CUTOFF with a LATCHED child c, and no session demands it any more. -/
structure Stranded (c e : DomId) (s : State) : Prop where
  mode : s.mdc.mode = .cutoff
  parent : (s.dom c).entry.parent = some e
  latched : (s.dom c).state = .latched
  up : (s.dom e).state ≠ .off ∧ (s.dom e).state ≠ .latched
  undemanded : s.sessionDemands e = false
  free : s.dmc.d0Held = none

variable {c : DomId}

theorem Stranded.forces (h : Stranded c e s) : s.forces e = true := by
  obtain ⟨hoff, hlatched⟩ := h.up
  exact (forces_iff s e).2 ⟨⟨h.mode, (demand_ne_zero s e).2 (.inr ⟨c, h.parent, by rw [h.latched]; decide⟩), h.undemanded⟩, hoff, hlatched⟩

theorem transitionOf_free (h : s.dmc.d0Held = none) (d : DomId) : s.transitionOf d = s.transition d := if_neg (by simp [h])

theorem transition_latched (h : (s.dom d).state = .latched) : s.transition d = s := by
  have hguard : s.forces d = false := by
    rw [← Bool.not_eq_true]
    exact fun hx => ((forces_iff s d).1 hx).2.2 h
  unfold State.transition
  rw [show (s.unwantedInCutoff d && (s.dom d).state != .off && (s.dom d).state != .latched) = s.forces d from rfl, hguard, h]
  rfl

/-- A transition that forces nothing off leaves it stranded. -/
theorem Stranded.transition (h : Stranded c e s) {x : DomId} (hf : s.forces x = false) (h0 : x ≠ 0) : Stranded c e (s.transition x) := by
  have hne : e ≠ x := fun hx => by
    subst hx
    rw [h.forces] at hf
    cases hf
  by_cases hcx : c = x
  · subst hcx
    rw [transition_latched h.latched]
    exact h
  · have hown := transition_ownChange hf
    have hstate := hown.state e hne
    refine ⟨hown.alike.mode.trans h.mode, by rw [hown.alike.entry]; exact h.parent, (hown.state c hcx).trans h.latched, by
      rw [hstate]
      exact h.up, (hown.alike.sessionDemands e).trans h.undemanded, (hown.held h0).trans h.free⟩

/-- The settling reaches it, and sheds every domain that no session demands, D0 apart. -/
theorem Stranded.sheds (h : Stranded c e s) {l : List DomId} (hl : l.Pairwise (· > ·)) (he : e ∈ l) (hd : d ≠ 0)
    (hs : s.sessionDemands d = false) : Shed d (l.foldl State.transitionOf s) := by
  induction l generalizing s with
  | nil => cases he
  | cons x l ih =>
    obtain ⟨hfirst, hrest⟩ := List.pairwise_cons.1 hl
    rw [List.foldl_cons, transitionOf_free h.free]
    cases hf : s.forces x
    · have hne : e ≠ x := fun hx => by
        subst hx
        rw [h.forces] at hf
        cases hf
      have hmem := List.mem_of_ne_of_mem hne he
      have h0 : x ≠ 0 := fun hx => absurd (hx ▸ hfirst e hmem) (Fin.not_lt_zero e)
      exact ih (h.transition hf h0) hrest hmem (((transition_ownChange hf).alike.sessionDemands d).trans hs)
    · rw [transition_of_forces hf]
      exact foldl_closed _ (fun _ y ht => ht.transitionOf y) l (forceCutoff_shed h.mode hs fun hx => absurd hx hd)

theorem Stranded.settle (h : Stranded c e s) (hd : d ≠ 0) (hs : s.sessionDemands d = false) : Shed d s.settle :=
  h.sheds domIdsDown_sorted (mem_domIdsDown e) hd hs

end

end Sys2Proof.Machine
end

section
/-! The closing of a session by its release, its run time and its suspension limit (R106, R116, R117, R123): obligation O50. -/

namespace Sys2Proof.Machine

/-! ### A trigger of no use counted against the line of origin (R60, R62) -/

section
variable {s t : State} {l : LineId}

theorem countNuisance_off (h : ¬ ((s.line l).entry.enabled = true ∧ (s.line l).mute = none)) : s.countNuisance l = s :=
  if_neg (by simpa using h)

theorem countNuisance_on (h : (s.line l).entry.enabled = true ∧ (s.line l).mute = none) :
    s.countNuisance l = (s.updLine l Line.counted).muteIfReached l := by
  obtain ⟨henabled, hmute⟩ := h
  exact if_pos (by simp [henabled, hmute])

theorem countNuisance_below (h : (s.line l).entry.enabled = true ∧ (s.line l).mute = none) (hb : ¬ (s.line l).atLimit) :
    s.countNuisance l = s.updLine l Line.counted := by
  rw [countNuisance_on h]
  refine muteIfReached_of_below ?_
  rw [line_updLine_self]
  by_cases hz : (s.line l).entry.nuisanceLimit = 0
  · exact .inl hz
  · exact .inr (not_le.1 fun hle => hb ⟨hz, hle⟩)

theorem countNuisance_reached (h : (s.line l).entry.enabled = true ∧ (s.line l).mute = none) (ha : (s.line l).atLimit) :
    s.countNuisance l = (s.updLine l Line.counted).muteLine l := by
  rw [countNuisance_on h]
  obtain ⟨hz, hle⟩ := ha
  exact muteIfReached_of_reached (by rw [line_updLine_self]; exact hz) (by rw [line_updLine_self]; exact hle)

theorem countNuisance_resume (s : State) (l : LineId) : (s.countNuisance l).work.resume = s.work.resume := by
  by_cases h : (s.line l).entry.enabled = true ∧ (s.line l).mute = none
  · by_cases ha : (s.line l).atLimit
    · rw [countNuisance_reached h ha]
      exact muteLine_resume ..
    · rw [countNuisance_below h ha]
      rfl
  · rw [countNuisance_off h]

theorem countNuisance_frame_below (ht : t.frame = s.frame) (h : (s.line l).entry.enabled = true ∧ (s.line l).mute = none)
    (hb : ¬ (s.line l).atLimit) : (t.countNuisance l).frame = (s.updLine l Line.counted).frame := by
  have hline := frame_line ht l
  rw [← hline] at h hb
  rw [countNuisance_below h hb]
  exact updLine_frame ht l _

theorem countNuisance_frame_reached (ht : t.frame = s.frame) (h : (s.line l).entry.enabled = true ∧ (s.line l).mute = none)
    (ha : (s.line l).atLimit) : (t.countNuisance l).frame = (s.updLine l Line.countedOut).frame := by
  have hline := frame_line ht l
  rw [← hline] at h ha
  rw [countNuisance_reached h ha, muteLine_frame, updLine_updLine]
  exact updLine_frame ht l _

theorem Holds.countNuisance {es : List Event} (hs : Holds es t) (hlen : es.length < 24) (ht : t.frame = s.frame)
    (h : (s.line l).entry.enabled = true ∧ (s.line l).mute = none) (ha : (s.line l).atLimit) :
    Holds (es ++ [s.muting l]) (t.countNuisance l) := by
  have hline := frame_line ht l
  have hmuting : s.muting l = (t.updLine l Line.counted).recordOf .lineMuted l.val ((t.updLine l Line.counted).line l).nuisance
      (some ((t.updLine l Line.counted).line l).entry.muteTime) := by
    rw [line_updLine_self, hline]
    exact (recordOf_congr (frame_seconds ht) ..).symm
  rw [← hline] at h ha
  rw [countNuisance_reached h ha, hmuting]
  exact (Holds.same (t := t.updLine l Line.counted) hs rfl rfl).muteLine hlen l

theorem countNuisance_records {l' : List Event} (h : Keeps l' s) (l : LineId) : Keeps l' (s.countNuisance l) :=
  (Closed.records l').countNuisance l h

end

/-! ### What a closing leaves of a domain in CUTOFF (R32, R33) -/

section
variable {s : State} {x : Session}

/-- The Session Table without the records of this session's id. -/
def State.removed (s : State) (x : Session) : State := { s with ssc.sessions := s.ssc.sessions.filter (fun y => y.id != x.id) }

theorem left_alike (s : State) (x : Session) : Alike (s.left x) (s.removed x) :=
  alike_of_deep (idleLines_deep (s.removed x) x.listening) (congrArg Ssc.sessions (idleLines_ssc (s.removed x) x.listening))

theorem noteClosed_alike (s : State) (id : Nat) : Alike (s.noteClosed id) s := by
  unfold State.noteClosed
  dsimp only
  (repeat' split) <;> exact ⟨rfl, rfl, ⟨rfl, rfl, rfl⟩, fun _ => rfl, rfl⟩

theorem noteClosed_power (s : State) (id : Nat) : (s.noteClosed id).power = s.power := by
  unfold State.noteClosed
  dsimp only
  (repeat' split) <;> rfl

theorem noteClosed_dmc (s : State) (id : Nat) : (s.noteClosed id).dmc = s.dmc := by
  unfold State.noteClosed
  dsimp only
  (repeat' split) <;> rfl

theorem noteAppend_dmc (s : State) : s.noteAppend.dmc = s.dmc := by
  unfold State.noteAppend
  split <;> rfl

theorem record_dmc (s : State) (k : RecordKind) (a b : Nat) (v : Option Nat) : (s.record k a b v).dmc = s.dmc := by
  unfold State.record
  dsimp only
  split
  · exact noteAppend_dmc s
  · split
    · rfl
    · exact noteAppend_dmc s

theorem withdrawn_true (s : State) : s.withdrawn true = s.demandChanged := by
  rw [State.withdrawn, if_pos rfl]

theorem withdrawn_false (s : State) : s.withdrawn false = s.refreshSub := by
  rw [State.withdrawn, if_neg Bool.false_ne_true]

theorem closedRecord_alike (why : CloseReason) : Alike (s.closedRecord x why) (State.withdrawn (s.removed x) x.active) := by
  have hidle : Alike ((State.withdrawn (s.removed x) x.active).idleLines x.listening) (State.withdrawn (s.removed x) x.active) :=
    alike_of_deep (idleLines_deep ..) (congrArg Ssc.sessions (idleLines_ssc ..))
  exact (alike_of_base (record_base ..) (congrArg Ssc.sessions (record_ssc ..))).trans hidle

theorem closeSession_alike (h : s.session? x.id = some x) (why : CloseReason) :
    Alike (s.closeSession x.id why) (State.withdrawn (s.removed x) x.active) := by
  rw [closeSession_eq h]
  exact (noteClosed_alike ..).trans (closedRecord_alike why)

theorem closeSession_dmc (h : s.session? x.id = some x) (why : CloseReason) :
    (s.closeSession x.id why).dmc = (State.withdrawn (s.removed x) x.active).dmc := by
  have hidle : ((State.withdrawn (s.removed x) x.active).idleLines x.listening).dmc = (State.withdrawn (s.removed x) x.active).dmc :=
    foldl_keeps State.dmc State.idleLine (fun _ _ => rfl) _ _
  rw [closeSession_eq h, noteClosed_dmc]
  exact (record_dmc ..).trans hidle

theorem closeSession_dom (h : s.session? x.id = some x) (why : CloseReason) (d : DomId) :
    (s.closeSession x.id why).dom d = (State.withdrawn (s.removed x) x.active).dom d := by
  unfold State.dom
  rw [closeSession_dmc h]

/-- A closing in CUTOFF that leaves a domain up for a LATCHED child alone sheds what no session demands, D0 apart (R32). -/
theorem closeSession_sheds (h : s.session? x.id = some x) (why : CloseReason) {c e d : DomId} (hs : Stranded c e (s.removed x))
    (hd : d ≠ 0) (hn : (s.removed x).sessionDemands d = false) : Shed d (s.closeSession x.id why).settle := by
  have halike := closeSession_alike h why
  have hdom := closeSession_dom h why
  have hdmc := closeSession_dmc h why
  cases hx : x.active
  · rw [hx, withdrawn_false] at halike hdmc
    simp only [hx, withdrawn_false] at hdom
    have hsub := refreshSub_alike (s.removed x)
    have hclosed := halike.trans hsub
    have hstate : ∀ k, (s.closeSession x.id why).dom k = (s.removed x).dom k := fun k => (hdom k).trans (refreshSub_dom _ k)
    have hfree : (s.closeSession x.id why).dmc.d0Held = (s.removed x).dmc.d0Held :=
      (congrArg Dmc.d0Held hdmc).trans (congrArg Prod.fst (refreshSub_hold (s.removed x)))
    obtain ⟨hmode, hparent, hlatched, hup, hundemanded, hnone⟩ := hs
    refine Stranded.settle (c := c) (e := e) ⟨hclosed.mode.trans hmode, ?_, ?_, ?_, (hclosed.sessionDemands e).trans hundemanded,
      hfree.trans hnone⟩ hd ((hclosed.sessionDemands d).trans hn)
    · rw [hstate]
      exact hparent
    · rw [hstate]
      exact hlatched
    · rw [hstate]
      exact hup
  · rw [hx, withdrawn_true] at halike
    simp only [hx, withdrawn_true] at hdom
    have hshed : Shed d (s.removed x).demandChanged := (hs.settle hd hn).congr (refreshSub_alike _) (by rw [demandChanged_dom])
    exact (hshed.congr halike (by rw [hdom d])).settle

end

/-! ### The request (R116) -/

section
variable {s : State} {x : Session} {i v : Byte}

theorem reqSessionRelease_badField (h : i = 0 ∨ 1 < v.toNat) : reqSessionRelease s [i, v] = refusal s .badField := by
  rw [reqSessionRelease, if_pos (by simpa using h)]

theorem reqSessionRelease_notFound (hi : i ≠ 0) (hv : v.toNat ≤ 1) (hn : ∀ x ∈ s.ssc.sessions, x.id ≠ i.toNat) :
    reqSessionRelease s [i, v] = refusal s .notFound := by
  have hnone : s.session? i.toNat = none := by
    rw [State.session?, List.find?_eq_none]
    intro y hy
    simpa using hn y hy
  rw [reqSessionRelease, if_neg (by simpa using ⟨hi, hv⟩), hnone]

/-- The answer to a release that is taken. -/
def releaseAnswer (x : Session) : Answer := { result := .ok, payload := be16 (tenths16 x.drawn) }

theorem releaseFields (hlow : 1 ≤ x.id) (hhigh : x.id ≤ 255) (hv : v = 0 ∨ v = 1) :
    ¬ (byte x.id = 0 || decide (1 < v.toNat)) = true ∧ (byte x.id).toNat = x.id := by
  have hid : (byte x.id).toNat = x.id := toNat_byte (by omega)
  have hne : byte x.id ≠ 0 := fun h => by
    rw [h] at hid
    simp at hid
    omega
  refine ⟨?_, hid⟩
  rcases hv with rfl | rfl <;> simpa using hne

theorem reqSessionRelease_plain (hlow : 1 ≤ x.id) (hhigh : x.id ≤ 255) (h : s.session? x.id = some x)
    (hv : v = 0 ∨ (v = 1 ∧ ∀ l, x.origin ≠ .line l)) :
    reqSessionRelease s [byte x.id, v] = ((s.closeSession x.id .released).finish, releaseAnswer x) := by
  obtain ⟨hfields, hid⟩ := releaseFields hlow hhigh (hv.imp_right And.left)
  rw [reqSessionRelease, if_neg hfields, hid, h]
  dsimp only
  cases ho : x.origin with
  | line l =>
    rcases hv with rfl | ⟨-, hx⟩
    · rfl
    · exact absurd ho (hx l)
  | _ => rfl

theorem reqSessionRelease_spurious (hlow : 1 ≤ x.id) (hhigh : x.id ≤ 255) (h : s.session? x.id = some x) {l : LineId}
    (ho : x.origin = .line l) :
    reqSessionRelease s [byte x.id, 1] = (((s.closeSession x.id .released).countNuisance l).finish, releaseAnswer x) := by
  obtain ⟨hfields, hid⟩ := releaseFields (v := 1) hlow hhigh (.inr rfl)
  rw [reqSessionRelease, if_neg hfields, hid, h]
  dsimp only
  rw [ho]
  rfl

end

/-! ### A session that no other waits for closes -/

section
variable {s : State} {x : Session}

theorem taken_left_frame (s : State) (x : Session) : (s.taken.left x).frame = (s.left x).frame :=
  idleLines_frame (s := s.removed x) (t := s.taken.removed x) rfl x.listening

theorem session_lapse (hh : s.held = false) (n : Nat) (id : Nat) : (s.lapse n).session? id = (s.session? id).map (Session.lapse n) := by
  have hid : ∀ y : Session, (y.lapse n).id = y.id := fun y => by unfold Session.lapse; split <;> rfl
  rw [State.session?, lapse_sessions hh, List.find?_map]
  refine congrArg (Option.map (Session.lapse n)) (List.find?_congr fun y _ => ?_)
  simp [hid]

/-- A timed event that closes a session with EXPIRED. -/
theorem expires_closes {c : Instr} {n : Nat} (hready : Ready s) (hx : s.session? x.id = some x)
    (hnone : ∀ y ∈ s.ssc.sessions, y.suspendedBy ≠ some x.id)
    (hexec : exec c s = .next ((s.lapse n).closeSession x.id .expired).finish) :
    ∃ t, exec c s = .next t ∧ t.frame = ((s.lapse n).left x).frame ∧ (s.roomFor 1 → t.recorded s [s.closing 1 x]) := by
  have hkeep : (x.lapse n).id = x.id ∧ (x.lapse n).listening = x.listening := by
    unfold Session.lapse
    split <;> exact ⟨rfl, rfl⟩
  obtain ⟨hid, hlistening⟩ := hkeep
  have hleft : (s.lapse n).left (x.lapse n) = (s.lapse n).left x := by rw [State.left, hid, hlistening, State.left]
  have hfind : (s.lapse n).session? (x.lapse n).id = some (x.lapse n) := by
    rw [hid, session_lapse hready.awake, hx]
    rfl
  have hnone' : ∀ y ∈ (s.lapse n).ssc.sessions, y.suspendedBy ≠ some (x.lapse n).id := by
    intro y hy
    rw [lapse_sessions hready.awake] at hy
    obtain ⟨z, hz, rfl⟩ := List.mem_map.1 hy
    rw [hid, show (z.lapse n).suspendedBy = z.suspendedBy by unfold Session.lapse; split <;> rfl]
    exact hnone z hz
  have hframe := closeSession_frame hfind .expired
  have hresume := closeSession_resume hfind .expired (hready.lapse_resume n) hnone'
  have hholds : s.roomFor 1 → Holds (s.evq.events ++ [s.closing 1 x]) ((s.lapse n).closeSession (x.lapse n).id .expired) := fun hroom => by
    have hclosed := (lapse_holds n (Holds.start hroom)).closeSession hroom.2 hfind .expired
    rw [Session.lapse_closing, show (s.lapse n).closing CloseReason.expired.code x = s.closing 1 x from lapse_recordOf ..] at hclosed
    exact hclosed
  rw [hleft] at hframe
  rw [hid] at hframe hresume hholds
  exact ⟨_, hexec, (finish_frame hresume).trans hframe, fun hroom => Keeps.finish_recorded (hholds hroom).keeps⟩

theorem left_line (s : State) (x : Session) (l : LineId) : (s.left x).line l = s.line l := by
  have hwlu : (s.left x).wlu = s.wlu := congrArg (fun d => d.2.1) (idleLines_deep (s.removed x) x.listening)
  unfold State.line
  rw [hwlu]

theorem left_muting (s : State) (x : Session) (l : LineId) : (s.left x).muting l = s.muting l := by
  have hseconds : (s.left x).wsc.seconds = s.wsc.seconds :=
    congrArg (fun d => d.2.2.seconds) (idleLines_deep (s.removed x) x.listening)
  rw [State.muting, left_line]
  exact recordOf_congr hseconds ..

theorem removed_stranded {c e : DomId} (hm : s.mdc.mode = .cutoff) (hp : (s.dom c).entry.parent = some e) (hc : (s.dom c).state = .latched)
    (he : (s.dom e).state ≠ .off ∧ (s.dom e).state ≠ .latched) (hs : (s.left x).sessionDemands e = false) (hh : s.dmc.d0Held = none) :
    Stranded c e (s.taken.removed x) :=
  ⟨hm, hp, hc, he, ((left_alike s x).sessionDemands e).symm.trans hs, hh⟩

end

/-- Settles O50: each way to close is one closing, and a SPURIOUS release counts against the line. -/
theorem sessionCloses : Obligations.SessionCloses := by
  refine ⟨fun i v s h => ⟨fun hx => ?_, fun hi hv hn => ?_⟩, fun x s hx hnone => ⟨fun v h hlow hhigh hv => ?plain,
    fun l h hlow hhigh ho => ?spurious, fun n h hactive hprofile hn => ?run, fun n h hactive hlimit hn => ?limit⟩⟩
  · exact exec_of_free (c := .sessionRelease [i, v]) rfl rfl h (by decide) rfl rfl (reqSessionRelease_badField (s := s.taken) hx)
  · exact exec_of_free (c := .sessionRelease [i, v]) rfl rfl h (by decide) rfl rfl (reqSessionRelease_notFound (s := s.taken) hi hv hn)
  case plain =>
    have hexec := exec_of_free (c := .sessionRelease [byte x.id, v]) rfl rfl h (by decide) rfl rfl
      (reqSessionRelease_plain (s := s.taken) hlow hhigh hx hv)
    have hframe := (closeSession_frame (s := s.taken) hx .released).trans (taken_left_frame s x)
    have hresume := closeSession_resume (s := s.taken) hx .released h.resume hnone
    refine ⟨_, hexec, sendReply_replies .., (sendReply_frame ..).trans ((finish_frame hresume).trans hframe), fun hroom => ?_,
      fun hm hpower hramp hstrand d hd hen => ?_⟩
    · exact recorded_sendReply (Keeps.finish_recorded ((taken_holds hroom).closeSession hroom.2 hx .released).keeps) ..
    · obtain ⟨c, e, hparent, hlatched, hoff, hnotLatched, hdemand⟩ := hstrand
      by_contra h0
      have hfree : s.dmc.d0Held = none := by
        by_contra hheld
        have hreply := (hpower.demand.heldCause hheld).2
        rw [h.silent] at hreply
        cases hreply
      have hstranded := removed_stranded (x := x) hm hparent hlatched ⟨hoff, hnotLatched⟩ hdemand hfree
      have hshed := closeSession_sheds (s := s.taken) hx .released hstranded h0 (((left_alike s x).sessionDemands d).symm.trans hd)
      have hheld : RampHeld (s.taken.closeSession x.id .released) := RampHeld.closed.closeSession x.id .released (hramp.held.same rfl)
      have hdown := shed_finish hshed hheld hresume
      generalize (s.taken.closeSession x.id .released).finish = t at hen hdown
      exact Bool.noConfusion (hen.symm.trans hdown)
  case spurious =>
    have hexec := exec_of_free (c := .sessionRelease [byte x.id, 1]) rfl rfl h (by decide) rfl rfl
      (reqSessionRelease_spurious (s := s.taken) hlow hhigh hx ho)
    have hframe := (closeSession_frame (s := s.taken) hx .released).trans (taken_left_frame s x)
    have hresume := closeSession_resume (s := s.taken) hx .released h.resume hnone
    have hcounted := (countNuisance_resume (s.taken.closeSession x.id .released) l).trans hresume
    have hholds : ∀ n, s.roomFor (n + 1) → Holds (s.evq.events ++ [s.closing 0 x]) (s.taken.closeSession x.id .released) :=
      fun n hroom => (taken_holds hroom).closeSession (by have := hroom.2; omega) hx .released
    have hline := left_line s x l
    generalize hw : s.taken.closeSession x.id .released = w at *
    refine ⟨_, hexec, sendReply_replies .., fun hroom => ?_, fun hoff => ?_, fun hon hbelow => ?_, fun hon hlimit => ⟨?_, fun hroom => ?_⟩⟩
    · exact recorded_sendReply (Keeps.finish_recorded (countNuisance_records (hholds 0 hroom).keeps l)) ..
    · rw [← hline, ← frame_line hframe l] at hoff
      rw [countNuisance_off hoff] at hcounted ⊢
      exact (sendReply_frame ..).trans ((finish_frame hcounted).trans hframe)
    · rw [← hline] at hon hbelow
      exact (sendReply_frame ..).trans ((finish_frame hcounted).trans (countNuisance_frame_below hframe hon hbelow))
    · rw [← hline] at hon hlimit
      exact (sendReply_frame ..).trans ((finish_frame hcounted).trans (countNuisance_frame_reached hframe hon hlimit))
    · rw [← hline] at hon hlimit
      have hcount := (hholds 1 hroom).countNuisance (by have := hroom.2; rw [List.length_append, List.length_singleton]; omega) hframe hon hlimit
      rw [left_muting, List.append_assoc] at hcount
      exact recorded_sendReply (Keeps.finish_recorded hcount.keeps) ..
  case run =>
    have hleft : s.leftRun x.id = some n := by
      rw [State.leftRun, hx]
      dsimp only
      rw [if_pos (by simp [hactive, hprofile]), hn]
    exact expires_closes h hx hnone (timed_of_some h.awake hleft (fun s => s.closeSession x.id .expired))
  case limit =>
    have hleft : s.leftSuspension x.id = some n := by
      rw [State.leftSuspension, hx]
      dsimp only
      rw [if_pos (by simp [hactive, hlimit]), hn]
    exact expires_closes h hx hnone (timed_of_some h.awake hleft (fun s => s.closeSession x.id .expired))

end Sys2Proof.Machine
end

section
/-! The resumption of a SUSPENDED session when its suspender closes (R119 to R122): obligation O51. -/

namespace Sys2Proof.Machine

/-! ### The frame at the end of an event that resumes -/

theorem finish_frame_now (s : State) : s.finish.frame = s.resumeNow.frame := by
  have htable : s.finish.table = s.resumeNow.table := (Domestic.sameTable s.resumeNow.table).finish rfl
    (fun t ht => (refreshSessions_table t).trans ht) (fun t ht => by unfold State.table at *; rw [(refreshAttn_ssc t).1]; exact ht)
  have hapq : s.finish.apq = s.resumeNow.apq := (Domestic.sameApproach s.resumeNow.apq).finish rfl (fun _ h => h)
    (fun t ht => (refreshAttn_ssc t).2.trans ht)
  exact frame_of ((finish_deep s).trans (resumeNow_deep s).symm) htable hapq

theorem finish_recorded_now {s t : State} {m : List Event} (h : Keeps (s.evq.events ++ m) t.resumeNow) : t.finish.recorded s m :=
  ((Domestic.records (s.evq.events ++ m)).finish h (fun _ h => h) (fun _ h => refreshAttn_keeps h)).1

/-! ### One session of the table changed -/

theorem Session.shown_active (x : Session) : x.shown.active = x.active := by
  unfold Session.shown
  cases hx : x.active <;> rfl

section
variable {s t : State} {f g : Session → Session} {id : Nat}

theorem updSession_table (h : t.table = s.table) (hf : ∀ x, (f x).shown = (f x.shown).shown) :
    (t.updSession id f).table = (s.updSession id f).table := by
  rw [table_eq, table_eq, Prod.mk.injEq] at h
  obtain ⟨hsessions, hnext⟩ := h
  have hview : ∀ u : State, ((u.updSession id f).ssc.sessions.map Session.shown) =
      (u.ssc.sessions.map Session.shown).map (fun x => if x.id == id then (f x).shown else x) := by
    intro u
    unfold State.updSession
    rw [List.map_map, List.map_map]
    refine List.map_congr_left fun x _ => ?_
    simp only [Function.comp]
    have hid : x.shown.id = x.id := rfl
    rw [hid]
    split
    · exact hf x
    · rfl
  rw [table_eq, table_eq, hview, hview]
  exact Prod.ext (congrArg (List.map _) hsessions) hnext

theorem updSession_frame (h : t.frame = s.frame) (hf : ∀ x, (f x).shown = (f x.shown).shown) :
    (t.updSession id f).frame = (s.updSession id f).frame :=
  have hdeep := frame_deep h
  have hapq := frame_apq h
  frame_of (t := t.updSession id f) (s := s.updSession id f) hdeep (updSession_table (frame_table h) hf) hapq

/-- Changes that agree on the sessions of this id. -/
theorem updSession_congr (h : ∀ x ∈ s.ssc.sessions, x.id = id → f x = g x) : s.updSession id f = s.updSession id g := by
  have hsessions : s.ssc.sessions.map (fun x => if x.id == id then f x else x) = s.ssc.sessions.map (fun x => if x.id == id then g x else x) := by
    refine List.map_congr_left fun x hx => ?_
    split
    · next hid => exact h x hx (by simpa using hid)
    · rfl
  unfold State.updSession
  rw [hsessions]

end

/-! ### The sessions that have left the table -/

section
variable {s t : State} {v x : Session}

/-- The Session Table with these records. -/
def State.withSessions (s : State) (xs : List Session) : State := { s with ssc.sessions := xs }

theorem idleLines_append (s : State) (ls ms : List LineId) : s.idleLines (ls ++ ms) = (s.idleLines ls).idleLines ms := List.foldl_append ..

theorem idleLines_withSessions (s : State) (xs : List Session) (ls : List LineId) :
    (s.withSessions xs).idleLines ls = (s.idleLines ls).withSessions xs := by
  unfold State.idleLines
  induction ls generalizing s with
  | nil => rfl
  | cons l ls ih => exact ih (s.idleLine l)

theorem left_withSessions (s : State) (x : Session) :
    s.left x = (s.idleLines x.listening).withSessions (s.ssc.sessions.filter (fun y => y.id != x.id)) :=
  idleLines_withSessions s (s.ssc.sessions.filter (fun y => y.id != x.id)) x.listening

theorem without_withSessions (s : State) (gone : List Session) :
    s.without gone = (s.idleLines (gone.flatMap Session.listening)).withSessions (s.ssc.sessions.filter (fun y => !(gone.contains y))) :=
  idleLines_withSessions s (s.ssc.sessions.filter (fun y => !(gone.contains y))) (gone.flatMap Session.listening)

theorem without_sessions (s : State) (gone : List Session) :
    (s.without gone).ssc.sessions = s.ssc.sessions.filter (fun y => !(gone.contains y)) := by
  rw [without_withSessions]
  rfl

theorem without_nil (s : State) : s.without [] = s := by
  rw [without_withSessions]
  simp [State.idleLines, State.withSessions]

/-- The closing of one more session. -/
theorem without_left (hids : (s.ssc.sessions.map Session.id).Nodup) (hx : x ∈ s.ssc.sessions) (gone : List Session) :
    (s.without gone).left x = s.without (gone ++ [x]) := by
  have hfilter : (s.ssc.sessions.filter (fun y => !(gone.contains y))).filter (fun y => y.id != x.id) =
      s.ssc.sessions.filter (fun y => !((gone ++ [x]).contains y)) := by
    rw [List.filter_filter]
    refine List.filter_congr fun y hy => ?_
    by_cases hyx : y = x
    · simp [hyx]
    · have hne : y.id ≠ x.id := fun h => hyx (eq_of_id hids hy hx h)
      simp [hyx, hne]
  rw [left_withSessions, without_sessions, hfilter, without_withSessions, without_withSessions, idleLines_withSessions, List.flatMap_append,
    List.flatMap_singleton, idleLines_append]
  rfl

theorem left_eq_without (hids : (s.ssc.sessions.map Session.id).Nodup) (hv : v ∈ s.ssc.sessions) : s.left v = s.without [v] := by
  have hleft := without_left hids hv []
  rwa [without_nil] at hleft

theorem left_frame_congr (h : t.frame = s.frame) (x : Session) : (t.left x).frame = (s.left x).frame := by
  have hremoved : (t.removed x).frame = (s.removed x).frame := by
    have hdeep := frame_deep h
    have hapq := frame_apq h
    have htable := frame_table h
    refine frame_of (t := t.removed x) (s := s.removed x) hdeep ?_ hapq
    have hview : ∀ u : State, (u.removed x).ssc.sessions.map Session.shown = (u.ssc.sessions.map Session.shown).filter (fun y => y.id != x.id) := by
      intro u
      rw [List.filter_map]
      rfl
    rw [table_eq, table_eq, Prod.mk.injEq] at htable
    obtain ⟨hsessions, hnext⟩ := htable
    rw [table_eq, table_eq, hview, hview, hsessions]
    exact Prod.ext rfl hnext
  exact idleLines_frame hremoved x.listening

end

/-! ### The resumption (R121, R122) -/

section
variable {s t w : State} {x : Session} {r : Resume}

/-- What the resumption of the session costs (R121 step 3). -/
def State.resumeCost (s : State) (x : Session) : Nat :=
  ceilDiv (s.sumCurrent (s.enabledOf x.set) * s.runLeft x) 1000 + (s.cls x.cls).overhead

/-- The tier passes and the cost fits (R121). -/
def State.resumes (s : State) (x : Session) : Bool := tierPasses s.btm.tier (s.cls x.cls).minTier && s.fits (s.cls x.cls) (s.resumeCost x)

/-- The session re-admitted (R122). -/
def State.resumed (s : State) (x y : Session) : Session :=
  { y with state := .starting, set := s.enabledOf x.set, suspendedBy := none, suspendedFor := none, estimate := x.drawn + s.resumeCost x }

theorem resume_passes (hids : (s.ssc.sessions.map Session.id).Nodup) (hx : x ∈ s.ssc.sessions) (ha : x.active = false)
    (hr : r.suspended = x.id) (hp : s.resumes x = true) :
    s.resume r = (s.updSession x.id (s.resumed x)).demandChanged.record .sessionResumed x.id r.suspender none := by
  have hupd : s.updSession x.id (s.resumed x) = s.updSession x.id (fun y => { y with
      state := .starting, set := s.enabledOf x.set, suspendedBy := none, suspendedFor := none, estimate := y.drawn + s.resumeCost x }) :=
    updSession_congr fun y hy hid => by
      rw [eq_of_id hids hy hx hid]
      rfl
  have hpass : (tierPasses s.btm.tier (s.cls x.cls).minTier && s.fits (s.cls x.cls)
      (ceilDiv (s.sumCurrent (s.enabledOf x.set) * s.runLeft x) 1000 + (s.cls x.cls).overhead)) = true := hp
  rw [hupd, State.resume, hr, session_of_mem hids hx]
  dsimp only
  rw [if_neg (by rw [ha]; decide), if_pos hpass]
  rfl

/-- The session as it is priced before it is closed instead. -/
def State.priced (s : State) (x : Session) : State := s.updSession x.id (fun y => { y with set := s.enabledOf x.set })

theorem resume_refused (hids : (s.ssc.sessions.map Session.id).Nodup) (hx : x ∈ s.ssc.sessions) (ha : x.active = false)
    (hr : r.suspended = x.id) (hp : s.resumes x = false) : s.resume r = (s.priced x).closeSession x.id .resumeRefused := by
  have hpass : ¬ (tierPasses s.btm.tier (s.cls x.cls).minTier && s.fits (s.cls x.cls)
      (ceilDiv (s.sumCurrent (s.enabledOf x.set) * s.runLeft x) 1000 + (s.cls x.cls).overhead)) = true := by
    rw [show (tierPasses s.btm.tier (s.cls x.cls).minTier && s.fits (s.cls x.cls)
      (ceilDiv (s.sumCurrent (s.enabledOf x.set) * s.runLeft x) 1000 + (s.cls x.cls).overhead)) = s.resumes x from rfl, hp]
    decide
  rw [State.resume, hr, session_of_mem hids hx]
  dsimp only
  rw [if_neg (by rw [ha]; decide), if_neg hpass]
  rfl

/-- The re-admission leaves the frame as the change of the record leaves it. -/
theorem resume_passes_frame (hids : (s.ssc.sessions.map Session.id).Nodup) (hx : x ∈ s.ssc.sessions) (ha : x.active = false)
    (hr : r.suspended = x.id) (hp : s.resumes x = true) : (s.resume r).frame = (s.updSession x.id (s.resumed x)).frame := by
  rw [resume_passes hids hx ha hr hp]
  exact (record_frame ..).trans (demandChanged_frame _)

theorem Holds.resume_passes {es : List Event} (h : Holds es s) (hlen : es.length < 24) (hids : (s.ssc.sessions.map Session.id).Nodup)
    (hx : x ∈ s.ssc.sessions) (ha : x.active = false) (hr : r.suspended = x.id) (hp : s.resumes x = true) :
    Holds (es ++ [s.recordOf .sessionResumed x.id r.suspender none]) (s.resume r) := by
  have hchanged := (Holds.same (t := s.updSession x.id (s.resumed x)) h rfl rfl).noted (demandChanged_noted _)
  have hrecord := hchanged.record hlen .sessionResumed x.id r.suspender none
  rw [recordOf_congr (frame_seconds (demandChanged_frame _))] at hrecord
  rw [Machine.resume_passes hids hx ha hr hp]
  exact hrecord

theorem session_updSession {f : Session → Session} (hf : ∀ y, (f y).id = y.id) (id : Nat) :
    (s.updSession id f).session? id = (s.session? id).map f := by
  have hkept : (fun y : Session => y.id == id) ∘ (fun y => if y.id == id then f y else y) = fun y => y.id == id := by
    funext y
    simp only [Function.comp]
    split
    · rw [hf]
    · rfl
  unfold State.session? State.updSession
  rw [List.find?_map, hkept]
  cases hfound : s.ssc.sessions.find? (fun y => y.id == id) with
  | none => rfl
  | some y =>
    have hid := List.find?_some hfound
    rw [Option.map_some, Option.map_some, if_pos hid]

theorem priced_session (hids : (s.ssc.sessions.map Session.id).Nodup) (hx : x ∈ s.ssc.sessions) :
    (s.priced x).session? x.id = some { x with set := s.enabledOf x.set } := by
  have hfound := session_updSession (s := s) (f := fun y => { y with set := s.enabledOf x.set }) (fun _ => rfl) x.id
  rw [session_of_mem hids hx] at hfound
  exact hfound

/-- What is closed leaves no trace of how it was priced. -/
theorem priced_left_frame (s : State) (x : Session) : ((s.priced x).left { x with set := s.enabledOf x.set }).frame = (s.left x).frame := by
  have hsessions : (s.priced x).ssc.sessions.filter (fun y => y.id != x.id) = s.ssc.sessions.filter (fun y => y.id != x.id) := by
    show (s.ssc.sessions.map (fun y => if y.id == x.id then { y with set := s.enabledOf x.set } else y)).filter (fun y => y.id != x.id) = _
    induction s.ssc.sessions with
    | nil => rfl
    | cons y l ih =>
      rw [List.map_cons]
      by_cases hy : y.id = x.id
      · rw [if_pos (by simpa using hy), List.filter_cons_of_neg (by simp [hy]), List.filter_cons_of_neg (by simp [hy]), ih]
      · rw [if_neg (by simpa using hy), List.filter_cons_of_pos (by simp [hy]), List.filter_cons_of_pos (by simp [hy]), ih]
  refine idleLines_frame (s := s.removed x) (t := State.removed (s.priced x) { x with set := s.enabledOf x.set }) ?_ x.listening
  refine frame_of rfl ?_ rfl
  have hremoved : (State.removed (s.priced x) { x with set := s.enabledOf x.set }).ssc.sessions = (s.removed x).ssc.sessions := hsessions
  rw [table_eq, table_eq, hremoved]
  rfl

theorem resume_refused_frame (hids : (s.ssc.sessions.map Session.id).Nodup) (hx : x ∈ s.ssc.sessions) (ha : x.active = false)
    (hr : r.suspended = x.id) (hp : s.resumes x = false) : (s.resume r).frame = (s.left x).frame := by
  have hclosed := closeSession_frame (x := { x with set := s.enabledOf x.set }) (priced_session hids hx) .resumeRefused
  rw [resume_refused hids hx ha hr hp]
  exact hclosed.trans (priced_left_frame s x)

theorem Holds.resume_refused {es : List Event} (h : Holds es s) (hlen : es.length < 24) (hids : (s.ssc.sessions.map Session.id).Nodup)
    (hx : x ∈ s.ssc.sessions) (ha : x.active = false) (hr : r.suspended = x.id) (hp : s.resumes x = false) :
    Holds (es ++ [s.closing 6 x]) (s.resume r) := by
  have hpriced : Holds es (s.priced x) := h.same rfl rfl
  have hclosed := hpriced.closeSession hlen (x := { x with set := s.enabledOf x.set }) (priced_session hids hx) .resumeRefused
  rw [Machine.resume_refused hids hx ha hr hp]
  exact hclosed

/-! ### The pricing depends on the frame, the Session Table and the latches alone -/

theorem sumCurrent_congr (hb : t.base = s.base) (hl : SameLatches t s) (S : DomSet) : t.sumCurrent S = s.sumCurrent S := by
  have hentry := fun d => base_entry hb d
  unfold State.sumCurrent State.currentOf
  rw [pricedSet_congr hentry hl]
  simp only [hentry]

theorem headroom_congr (hb : t.base = s.base) (hs : t.ssc.sessions = s.ssc.sessions) (skip : List Nat) : t.headroom skip = s.headroom skip := by
  unfold State.headroom State.committed State.floorMas
  rw [base_reserve hb, base_floor hb, hs]

theorem exempt_congr (hb : t.base = s.base) (c : ClassEntry) : t.exempt c = s.exempt c := by
  unfold State.exempt
  rw [base_mode hb]

/-- The time left that a resumption prices is the run time or the longest window (R121 step 3). -/
theorem runLeft_eq (s : State) (x : Session) (window : LineId → Nat)
    (hw : ∀ l, window l = ((s.approach l).listen.map Listen.window).getD 0) :
    s.runLeft x = if x.profile = .listen then (x.listening.map window).foldr max 0 else x.remaining := by
  unfold State.runLeft
  split
  · refine (List.foldl_ext _ (fun m l => max m (window l)) 0 fun m l _ => ?_).trans ?_
    · rw [hw]
      cases (s.approach l).listen <;> simp
    have hfold : ∀ (ls : List LineId) (m : Nat), ls.foldl (fun m l => max m (window l)) m = max m ((ls.map window).foldr max 0) := by
      intro ls
      induction ls with
      | nil => simp
      | cons l ls ih =>
        intro m
        rw [List.foldl_cons, ih, List.map_cons, List.foldr_cons, max_assoc]
    rw [hfold, Nat.zero_max]
  · rfl

end

/-! ### The closing of a suspender -/

section
variable {s : State} {v x : Session}

theorem closeSession_latches (h : s.session? v.id = some v) (why : CloseReason) : SameLatches (s.closeSession v.id why) s := fun d => by
  rw [closeSession_dom h why]
  unfold State.withdrawn
  split
  · exact demandChanged_latches (s.removed v) d
  · exact refreshSub_latches (s.removed v) d

/-- R117 step 5: the closing puts off the resumption of the one session that waits for it. -/
theorem closeSession_puts_off (hids : (s.ssc.sessions.map Session.id).Nodup) (hv : v ∈ s.ssc.sessions) (hx : x ∈ s.ssc.sessions)
    (hne : x ≠ v) (hwait : x.suspendedBy = some v.id) (honly : ∀ y ∈ s.ssc.sessions, y.suspendedBy = some v.id → y = x)
    (hw : s.work.resume = none) (why : CloseReason) :
    (s.closeSession v.id why).work.resume = some { suspended := x.id, suspender := v.id } := by
  have hfound := session_of_mem hids hv
  have hresume : (s.closedRecord v why).work.resume = none := (closedRecord_resume why).trans hw
  have hmem : x ∈ s.ssc.sessions.filter (fun y => y.id != v.id) :=
    List.mem_filter.2 ⟨hx, by simpa using fun h => hne (eq_of_id hids hx hv h)⟩
  have hfind : (s.closedRecord v why).ssc.sessions.find? (fun y => y.suspendedBy == some v.id) = some x := by
    rw [closedRecord_sessions]
    cases hf : (s.ssc.sessions.filter (fun y => y.id != v.id)).find? (fun y => y.suspendedBy == some v.id) with
    | none => exact absurd (by simpa using hwait) (List.find?_eq_none.1 hf x hmem)
    | some y =>
      have hy := honly y (List.mem_of_mem_filter (List.mem_of_find?_eq_some hf)) (by simpa using List.find?_some hf)
      rw [hy]
  rw [closeSession_eq hfound]
  unfold State.noteClosed
  simp only [hresume, hfind]

end

/-- Settles O51: the resumption that the release puts off re-admits the session or closes it. -/
theorem suspendedSessionComesBack : Obligations.SuspendedSessionComesBack := by
  refine ⟨fun x n s hh hsound hx ha => ⟨?_, fun l r hr hrx => ?_⟩, fun v x s h hsound hv hx hne ha hwait honly => ?_⟩
  · rw [lapse_sessions hh]
    refine List.mem_map.2 ⟨x, hx, ?_⟩
    rw [Session.lapse, if_neg (by rw [ha]; decide)]
  · rw [approach_lapse hh, State.approachLapse, hr]
    have hcounts : s.windowCounts r = false := by
      rw [State.windowCounts, hrx, session_of_mem hsound.ids hx]
      exact ha
    rw [Option.map_some, if_neg (by rw [hcounts]; decide), ← hr]
  · intro u k set window left cost passes released
    obtain ⟨hlow, hhigh⟩ := hsound.idRange v hv
    have hfound : s.taken.session? v.id = some v := session_of_mem hsound.ids hv
    have hexec := exec_of_free (c := .sessionRelease [byte v.id, 0]) rfl rfl h (by decide) rfl rfl
      (reqSessionRelease_plain (s := s.taken) (v := 0) hlow hhigh hfound (.inl rfl))
    have hu : u = s.left v := (left_eq_without hsound.ids hv).symm
    have hframe : (s.taken.closeSession v.id .released).frame = u.frame := by
      rw [hu]
      exact (closeSession_frame hfound .released).trans (taken_left_frame s v)
    have hresume := closeSession_puts_off (s := s.taken) hsound.ids hv hx hne hwait honly h.resume .released
    have hlatches : SameLatches (s.taken.closeSession v.id .released) s := closeSession_latches hfound .released
    have hsessions : (s.taken.closeSession v.id .released).ssc.sessions = s.ssc.sessions.filter (fun y => y.id != v.id) :=
      closeSession_sessions s.taken v.id .released
    have hholds : s.roomFor 2 → Holds (s.evq.events ++ [released]) (s.taken.closeSession v.id .released) := fun hroom =>
      (taken_holds hroom).closeSession (by have := hroom.2; omega) hfound .released
    refine ⟨_, hexec, sendReply_replies .., ?_⟩
    generalize hw0 : s.taken.closeSession v.id .released = w0 at *
    have hnow : w0.resumeNow = State.resume { w0 with work.resume := none } { suspended := x.id, suspender := v.id } := by
      rw [State.resumeNow, hresume]
    have hframeW : ({ w0 with work.resume := none } : State).frame = u.frame := hframe
    have hsessionsW : ({ w0 with work.resume := none } : State).ssc.sessions = s.ssc.sessions.filter (fun y => y.id != v.id) := hsessions
    have hlatchesW : SameLatches { w0 with work.resume := none } s := hlatches
    have hholdsW : s.roomFor 2 → Holds (s.evq.events ++ [released]) { w0 with work.resume := none } := fun hroom =>
      (hholds hroom).same rfl rfl
    have hfinish := finish_frame_now w0
    have hrecorded : ∀ m, Keeps (s.evq.events ++ m) w0.resumeNow → w0.finish.recorded s m := fun m => finish_recorded_now
    rw [hnow] at hfinish hrecorded
    generalize ({ w0 with work.resume := none } : State) = w at *
    have hbase : w.base = s.base := by
      have hleft : u.base = s.base := by
        rw [hu]
        exact deep_base (idleLines_deep (s.removed v) v.listening)
      exact (frame_base hframeW).trans hleft
    have hidsW : (w.ssc.sessions.map Session.id).Nodup := by
      rw [hsessionsW]
      exact hsound.ids.sublist (List.filter_sublist.map _)
    have hxW : x ∈ w.ssc.sessions := by
      rw [hsessionsW]
      exact List.mem_filter.2 ⟨hx, by simpa using fun hid => hne (eq_of_id hsound.ids hx hv hid)⟩
    have hset : w.enabledOf x.set = set := enabledOf_congr (fun d => base_entry hbase d) x.set
    have hcls : w.cls x.cls = k := cls_congr hbase x.cls
    have hleft : w.runLeft x = left := runLeft_eq w x window fun l => by
      rw [approach_of_apq (frame_apq hframeW) l]
      show window l = _
      simp only [window]
      cases (u.approach l).listen <;> rfl
    have hcost : w.resumeCost x = cost := by
      rw [State.resumeCost, hset, hcls, hleft, sumCurrent_congr hbase hlatchesW]
    have hpasses : w.resumes x = true ↔ passes := by
      have hroom : w.headroom [] = u.headroom [] := headroom_congr (frame_base hframeW) (by rw [hsessionsW, hu, left_withSessions]; rfl) []
      rw [State.resumes, hcost, hcls, base_btm hbase, State.fits, hroom, exempt_congr hbase]
      simp [tierPasses, State.exempt, passes, or_assoc]
    have hresumed : w.resumed x = fun y => { y with
        state := .starting, set := set, suspendedBy := none, suspendedFor := none, estimate := x.drawn + cost } := by
      funext y
      rw [State.resumed, hset, hcost]
    have hseconds : w.wsc.seconds = s.wsc.seconds := base_seconds hbase
    refine ⟨fun hp => ⟨?_, fun hroom => ?_⟩, fun hp => ⟨?_, fun hroom => ?_⟩⟩
    · have hpass := resume_passes_frame (r := { suspended := x.id, suspender := v.id }) hidsW hxW ha rfl (hpasses.2 hp)
      rw [hresumed] at hpass
      exact (sendReply_frame ..).trans (hfinish.trans (hpass.trans (updSession_frame hframeW fun _ => rfl)))
    · have hpass := (hholdsW hroom).resume_passes (r := { suspended := x.id, suspender := v.id })
        (by have := hroom.2; rw [List.length_append, List.length_singleton]; omega) hidsW hxW ha rfl (hpasses.2 hp)
      rw [recordOf_congr hseconds, List.append_assoc] at hpass
      exact recorded_sendReply (hrecorded _ hpass.keeps) ..
    · have hrefused := resume_refused_frame (r := { suspended := x.id, suspender := v.id }) hidsW hxW ha rfl
        (by rw [← Bool.not_eq_true, hpasses]; exact hp)
      have hgone : (u.left x).frame = (s.without [v, x]).frame := congrArg State.frame (without_left hsound.ids hx [v])
      exact (sendReply_frame ..).trans (hfinish.trans (hrefused.trans ((left_frame_congr hframeW x).trans hgone)))
    · have hrefused := (hholdsW hroom).resume_refused (r := { suspended := x.id, suspender := v.id })
        (by have := hroom.2; rw [List.length_append, List.length_singleton]; omega) hidsW hxW ha rfl
        (by rw [← Bool.not_eq_true, hpasses]; exact hp)
      have hclosing : w.closing 6 x = s.closing 6 x := recordOf_congr hseconds ..
      rw [hclosing, List.append_assoc] at hrefused
      exact recorded_sendReply (hrecorded _ hrefused.keeps) ..

end Sys2Proof.Machine
end

section
/-! Which sessions make room for another one, and in what order (R88, R94, R96); several sessions closed one after the other. -/

namespace Sys2Proof.Machine

/-! ### The session of the lowest priority, the earliest of equals -/

section
variable {s : State} {x : Session} {l : List Session}

/-- The better of the best so far and one session more. -/
def State.betterOf (s : State) : Option Session → Session → Option Session
  | none, x => some x
  | some b, x => if s.priorityOf x < s.priorityOf b then some x else some b

theorem lowest_eq (s : State) (l : List Session) : s.lowest l = l.foldl s.betterOf none := by
  unfold State.lowest
  congr 1
  funext best x
  cases best <;> rfl

/-- Sessions all of a higher priority than x leave a best one of a higher priority. -/
theorem betterOf_higher (l : List Session) (best : Option Session) (hb : ∀ b ∈ best, s.priorityOf x < s.priorityOf b)
    (hl : ∀ y ∈ l, s.priorityOf x < s.priorityOf y) : ∀ b ∈ l.foldl s.betterOf best, s.priorityOf x < s.priorityOf b := by
  induction l generalizing best with
  | nil => exact hb
  | cons y l ih =>
    obtain ⟨hy, hl⟩ := List.forall_mem_cons.1 hl
    refine ih _ ?_ hl
    cases best with
    | none =>
      intro b hmem
      cases hmem
      exact hy
    | some c =>
      intro b hmem
      rw [State.betterOf] at hmem
      split at hmem <;> cases hmem
      · exact hy
      · exact hb c rfl

theorem betterOf_stays (l : List Session) (hl : ∀ y ∈ l, s.priorityOf x ≤ s.priorityOf y) : l.foldl s.betterOf (some x) = some x := by
  induction l with
  | nil => rfl
  | cons y l ih =>
    obtain ⟨hy, hl⟩ := List.forall_mem_cons.1 hl
    rw [List.foldl_cons, State.betterOf, if_neg (by omega)]
    exact ih hl

theorem lowest_of_ranksFirst (h : s.ranksFirst x l) : s.lowest l = some x := by
  obtain ⟨before, after, rfl, hbefore, hafter⟩ := h
  have hlead := betterOf_higher (s := s) (x := x) before none (fun b hb => by cases hb) hbefore
  rw [lowest_eq, List.foldl_append, List.foldl_cons]
  have hx : s.betterOf (before.foldl s.betterOf none) x = some x := by
    cases hbest : before.foldl s.betterOf none with
    | none => rfl
    | some b => exact if_pos (hlead b hbest)
  rw [hx]
  exact betterOf_stays after hafter

theorem mem_of_ranksFirst (h : s.ranksFirst x l) : x ∈ l := by
  obtain ⟨before, after, rfl, -, -⟩ := h
  simp

/-! ### The order of the exclusive candidates -/

theorem insertLowest_head (s : State) (x : Session) (l : List Session) : (s.insertLowest x l).head? = s.betterOf l.head? x := by
  cases l with
  | nil => rfl
  | cons y ys =>
    rw [State.insertLowest, List.head?_cons, State.betterOf]
    split <;> rfl

theorem insertLowest_perm (s : State) (x : Session) (l : List Session) : (s.insertLowest x l).Perm (x :: l) := by
  induction l with
  | nil => exact List.Perm.refl _
  | cons y ys ih =>
    rw [State.insertLowest]
    split
    · exact List.Perm.refl _
    · exact (ih.cons y).trans (List.Perm.swap x y ys)

theorem candidates_head (s : State) (p : Nat) : (s.exclusiveCandidates p).head? = s.lowest (s.yielding p) := by
  have hfold : ∀ (l acc : List Session), (l.foldl (fun acc x => s.insertLowest x acc) acc).head? = l.foldl s.betterOf acc.head? := by
    intro l
    induction l with
    | nil => exact fun _ => rfl
    | cons x l ih =>
      intro acc
      rw [List.foldl_cons, List.foldl_cons, ih, insertLowest_head]
  rw [lowest_eq]
  exact hfold (s.yielding p) []

theorem candidates_perm (s : State) (p : Nat) : (s.exclusiveCandidates p).Perm (s.yielding p) := by
  have hfold : ∀ (l acc : List Session), (l.foldl (fun acc x => s.insertLowest x acc) acc).Perm (acc ++ l) := by
    intro l
    induction l with
    | nil => exact fun acc => by rw [List.append_nil]; exact List.Perm.refl _
    | cons x l ih =>
      intro acc
      rw [List.foldl_cons]
      exact (ih _).trans (((insertLowest_perm s x acc).append_right l).trans (List.perm_middle.symm))
  exact hfold (s.yielding p) []

/-- The candidates are the one that ranks first and the others in some order. -/
theorem candidates_of_ranksFirst {p : Nat} (h : s.ranksFirst x (s.yielding p)) (hnodup : (s.yielding p).Nodup) :
    ∃ rest, s.exclusiveCandidates p = x :: rest ∧ rest.Perm ((s.yielding p).filter (· != x)) := by
  have hhead := candidates_head s p
  have hperm := candidates_perm s p
  rw [lowest_of_ranksFirst h] at hhead
  obtain ⟨rest, hrest⟩ : ∃ rest, s.exclusiveCandidates p = x :: rest := by
    cases hc : s.exclusiveCandidates p with
    | nil =>
      rw [hc] at hhead
      cases hhead
    | cons y ys =>
      rw [hc] at hhead
      cases hhead
      exact ⟨ys, rfl⟩
  refine ⟨rest, hrest, ?_⟩
  rw [hrest] at hperm
  rw [← hnodup.erase_eq_filter]
  have herase := hperm.erase x
  rwa [List.erase_cons_head] at herase

end

/-! ### Lines that return to IDLE in any order -/

section
variable {s t : State}

theorem approach_idleLines (s : State) (ls : List LineId) (l : LineId) :
    (s.idleLines ls).approach l = if l ∈ ls then { s.approach l with listen := none } else s.approach l := by
  unfold State.idleLines
  induction ls generalizing s with
  | nil => simp
  | cons k ls ih =>
    have hstep : (s.idleLine k).approach l = if l = k then { s.approach k with listen := none } else s.approach l :=
      approach_updApproach s k l _
    rw [List.foldl_cons, ih, hstep]
    by_cases hk : l = k
    · subst hk
      by_cases hl : l ∈ ls <;> simp [hl]
    · by_cases hl : l ∈ ls <;> simp [hk, hl]

theorem apq_ext (h : ∀ l, t.approach l = s.approach l) : t.apq = s.apq := by
  have hrecs : t.apq.recs = s.apq.recs := Vector.ext fun i hi => h ⟨i, hi⟩
  cases ht : t.apq
  cases hs : s.apq
  rw [ht, hs] at hrecs
  exact congrArg Apq.mk hrecs

theorem idleLines_apq (h : t.apq = s.apq) {ls ms : List LineId} (hl : ∀ l, l ∈ ls ↔ l ∈ ms) : (t.idleLines ls).apq = (s.idleLines ms).apq :=
  apq_ext fun l => by
    rw [approach_idleLines, approach_idleLines, approach_of_apq h l]
    simp only [hl]

end

/-! ### Several sessions closed -/

section
variable {s t z : State} {x : Session} {gone others : List Session}

theorem without_deep (s : State) (gone : List Session) : (s.without gone).deep = s.deep := by
  rw [without_withSessions]
  exact idleLines_deep s (gone.flatMap Session.listening)

theorem without_apq (s : State) (gone : List Session) : (s.without gone).apq = (s.idleLines (gone.flatMap Session.listening)).apq := by
  rw [without_withSessions]
  rfl

theorem without_nextId (s : State) (gone : List Session) : (s.without gone).ssc.nextId = s.ssc.nextId := by
  have hssc : (s.idleLines (gone.flatMap Session.listening)).ssc.nextId = s.ssc.nextId := congrArg Ssc.nextId (idleLines_ssc s _)
  rw [without_withSessions]
  exact hssc

theorem without_latches (s : State) (gone : List Session) : SameLatches (s.without gone) s := fun d => by
  have hdmc : (s.idleLines (gone.flatMap Session.listening)).dmc = s.dmc := foldl_keeps State.dmc State.idleLine (fun _ _ => rfl) _ s
  have hdom : (s.without gone).dom d = s.dom d := by
    rw [without_withSessions]
    exact congrArg (fun m : Dmc => m.domains[d.val]) hdmc
  rw [hdom]

theorem without_apq_congr (h : t.apq = s.apq) (hg : ∀ y, y ∈ gone ↔ y ∈ others) : (t.without gone).apq = (s.without others).apq := by
  rw [without_apq, without_apq]
  refine idleLines_apq h fun l => ?_
  simp only [List.mem_flatMap, hg]

/-- z is s once these sessions have been closed (R117). -/
structure Clears (z s : State) (gone : List Session) : Prop where
  frame : z.frame = (s.without gone).frame
  sessions : z.ssc.sessions = s.ssc.sessions.filter (fun y => !(gone.contains y))
  resume : z.work.resume = none
  latches : SameLatches z s

theorem Clears.start (h : s.work.resume = none) : Clears s s [] :=
  ⟨by rw [without_nil], by simp, h, .refl s⟩

/-- A closing of one more. -/
theorem Clears.close (h : Clears z s gone) (hids : (s.ssc.sessions.map Session.id).Nodup) (hx : x ∈ s.ssc.sessions) (hnew : x ∉ gone)
    (hwaits : ∀ y ∈ s.ssc.sessions, y.suspendedBy ≠ some x.id) (why : CloseReason) :
    Clears (z.closeSession x.id why) s (gone ++ [x]) ∧ z.session? x.id = some x := by
  obtain ⟨hframe, hsessions, hresume, hlatches⟩ := h
  have hidsZ : (z.ssc.sessions.map Session.id).Nodup := by
    rw [hsessions]
    exact hids.sublist (List.filter_sublist.map _)
  have hxZ : x ∈ z.ssc.sessions := by
    rw [hsessions]
    exact List.mem_filter.2 ⟨hx, by simpa using hnew⟩
  have hfound := session_of_mem hidsZ hxZ
  have hleft := without_left hids hx gone
  refine ⟨⟨?_, ?_, ?_, ?_⟩, hfound⟩
  · rw [← hleft]
    exact (closeSession_frame hfound why).trans (left_frame_congr hframe x)
  · have hfilter := congrArg (fun u : State => u.ssc.sessions) hleft
    rw [left_withSessions, without_sessions] at hfilter
    rw [closeSession_sessions, hsessions]
    exact hfilter.trans (without_sessions ..)
  · refine closeSession_resume hfound why hresume fun y hy => hwaits y ?_
    rw [hsessions] at hy
    exact List.mem_of_mem_filter hy
  · exact (closeSession_latches hfound why).trans hlatches

/-- Sessions closed one after the other, with a record of each in that order. -/
theorem Clears.closeAll (hids : (s.ssc.sessions.map Session.id).Nodup) (why : CloseReason) (hw : s.work.resume = none) (xs : List Session)
    (hmem : ∀ x ∈ xs, x ∈ s.ssc.sessions) (hnodup : xs.Nodup) (hwaits : ∀ x ∈ xs, ∀ y ∈ s.ssc.sessions, y.suspendedBy ≠ some x.id) :
    Clears (xs.foldl (fun s x => s.closeSession x.id why) s) s xs := by
  induction xs using List.reverseRecOn with
  | nil => exact .start hw
  | append_singleton xs x ih =>
    have hin : ∀ y ∈ xs, y ∈ xs ++ [x] := fun y hy => List.mem_append_left _ hy
    obtain ⟨hxs, -, hdisjoint⟩ := List.nodup_append.1 hnodup
    have hnew : x ∉ xs := fun hx => hdisjoint x hx x (List.mem_singleton_self x) rfl
    have hlast : x ∈ xs ++ [x] := by simp
    rw [List.foldl_append, List.foldl_cons, List.foldl_nil]
    exact ((ih (fun y hy => hmem y (hin y hy)) hxs fun y hy => hwaits y (hin y hy)).close hids (hmem x hlast) hnew (hwaits x hlast) why).1

end

end Sys2Proof.Machine
end

section
/-! An admission that evicts, suspends or clears away sessions to make room (R88, R94, R96): obligation O47. -/

namespace Sys2Proof.Machine

section
variable {s u v z : State} {c : ClassId} {w : Profile}

/-! ### A request admitted on a state with room made -/

theorem givesId_congr {id : Nat} (hs : v.ssc.sessions = u.ssc.sessions) (hn : v.ssc.nextId = u.ssc.nextId) (h : v.givesId id) :
    u.givesId id := by
  have hssc : v.ssc = u.ssc := by
    cases hv : v.ssc
    cases hu : u.ssc
    rw [hv, hu] at hs hn
    exact congrArg₂ Ssc.mk hs hn
  obtain ⟨hfresh, hnext⟩ := h
  refine ⟨by rw [← hs]; exact hfresh, fun hu => ?_⟩
  rw [← hssc]
  exact hnext (hu.congr hssc)

/-- A SESSION_OPEN whose decision ends in the creation of the session on z, which stands as u does, admits it on u. -/
theorem sessionOpen_placed (h : Listening s) (hw : w ≠ .listen) (hr : w = .reduced → (s.cls c).reduced.isSome = true)
    (hm : s.mdc.mode ≠ .drive) {id cost : Nat}
    (hd : s.taken.decideRequest (openRequest c w) = ((z.createSession (openRequest c w) id w cost).resumeNow, .admitted id))
    (hresume : z.work.resume = none) (hid : v.givesId id) (hnew : ∀ y ∈ z.ssc.sessions, y.id ≠ id) (hdeep : z.deep = u.deep)
    (hapq : z.apq = u.apq) (htable : z.table = (u.table.1, if id = 255 then 1 else id + 1)) (hbase : u.base = s.base)
    (hlatches : SameLatches u s) (hcost : cost = s.profileCost (s.cls c) w) :
    ∃ t, (exec (.sessionOpen [byte c.val, byte w.code]) s = .next t ∧ t.admitted u v (openRequest c w) id w u.apq ∧
      t.replies 0x40 .accepted (openPayload id w.code (tenths16 cost) 0)) ∧
      ∀ m, Holds (s.evq.events ++ m) z → (s.evq.events ++ m).length < 24 →
        t.recorded s (m ++ [s.recordOf .wakeAdmitted id w.code (some (tenths16 cost))]) := by
  have hcreated := (createSession_resume (z := z) (r := openRequest c w) (id := id) (cost := cost) hw).trans hresume
  rw [resumeNow_none hcreated] at hd
  have hexec := exec_sessionOpen_decided h hw hr hm hd
  rw [openAnswer_admitted (session_createSession (z := z) hw hnew)] at hexec
  have hframe := createSession_finish_frame (z := z) (r := openRequest c w) (id := id) (cost := cost) hw hresume
  have hprice : cost = u.profileCost (u.cls c) w := by
    rw [hcost, cls_congr hbase, profileCost_congr (fun d => base_entry hbase d) hlatches]
  have hadmitted := admitted_of_frame hw hid hframe hdeep hapq htable hprice
  have hseconds : z.wsc.seconds = s.wsc.seconds := base_seconds ((deep_base hdeep).trans hbase)
  have hrecords : ∀ m, Holds (s.evq.events ++ m) z → (s.evq.events ++ m).length < 24 →
      Keeps (s.evq.events ++ (m ++ [s.recordOf .wakeAdmitted id w.code (some (tenths16 cost))]))
        (z.createSession (openRequest c w) id w cost) := fun m hz hlen => by
    have hkept := (hz.createSession (r := openRequest c w) (id := id) (cost := cost) hlen hw).keeps
    rwa [recordOf_congr hseconds, List.append_assoc] at hkept
  generalize z.createSession (openRequest c w) id w cost = x at *
  exact ⟨_, ⟨hexec, admitted_sendReply hadmitted .., sendReply_replies ..⟩, fun m hz hlen =>
    recorded_sendReply (Keeps.finish_recorded (s := s) (hrecords m hz hlen)) ..⟩

end

/-! ### The three ways to make room -/

section
variable {s t : State} {c : ClassEntry} {r : Request} {x : Session} {p : Profile} {id n : Nat}

theorem fits_of_essential (h : c.essential = true) (n : Nat) : s.fits c n = true := by
  simp [State.fits, State.exempt, h]

theorem makePlace_evicts (hfull : s.ssc.sessions.length = 6) (hess : c.essential = true)
    (hfirst : s.ranksFirst x (s.ssc.sessions.filter (fun y => !(s.cls y.cls).essential))) :
    s.makePlace c = some (s.closeSession x.id .preempted) := by
  have hevictee : s.evictee = some x := lowest_of_ranksFirst hfirst
  rw [State.makePlace, if_neg (by omega), if_pos hess, hevictee]

theorem chargeSuspension_first {w : Profile} {skip : List Nat} (hactive : ∀ y ∈ s.ssc.sessions, y.active = true)
    (hfirst : s.ranksFirst x (s.yielding c.priority)) (hfits : s.profileCost c w ≤ s.headroom (x.id :: skip)) :
    s.chargeSuspension c w skip = some (x.id, w) := by
  have hslot : s.slotTaken = false := by
    rw [← Bool.not_eq_true, slotTaken_iff]
    rintro ⟨y, hy, hn⟩
    rw [hactive y hy] at hn
    cases hn
  have hlowest : s.lowest (s.suspendable c.priority) = some x := lowest_of_ranksFirst hfirst
  rw [State.chargeSuspension, if_neg (by rw [hslot]; decide), hlowest]
  dsimp only
  rw [firstFit_wanted hfits]
  rfl

theorem admission_suspends (hexcl : c.exclusive = false) :
    s.admission r c p (some n) = (s.takeId.1.suspend n s.takeId.2).createSession r s.takeId.2 p (s.profileCost c p) := by
  unfold State.admission
  dsimp only
  rw [if_neg (by rw [hexcl]; decide)]

theorem admission_excludes (hexcl : c.exclusive = true) :
    s.admission r c p none = (s.takeId.1.exclude c.priority s.takeId.2).createSession r s.takeId.2 p (s.profileCost c p) := by
  unfold State.admission
  dsimp only
  rw [if_pos hexcl]

/-- Sessions closed PREEMPTED in this order. -/
def State.preempted (s : State) (xs : List Session) : State := xs.foldl (fun s x => s.closeSession x.id .preempted) s

theorem exclude_suspends {q : Nat} {rest : List Session} (hc : s.exclusiveCandidates q = x :: rest)
    (hactive : ∀ y ∈ s.ssc.sessions, y.active = true) : s.exclude q id = (s.suspend x.id id).preempted rest := by
  have hslot : s.slotTaken = false := by
    rw [← Bool.not_eq_true, slotTaken_iff]
    rintro ⟨y, hy, hn⟩
    rw [hactive y hy] at hn
    cases hn
  unfold State.exclude
  rw [hc]
  dsimp only
  rw [if_neg (by rw [hslot]; decide)]
  rfl

theorem exclude_closes {q : Nat} (hslot : ∃ y ∈ s.ssc.sessions, y.active = false) :
    s.exclude q id = s.preempted (s.exclusiveCandidates q) := by
  unfold State.exclude
  cases hc : s.exclusiveCandidates q with
  | nil => rfl
  | cons x rest =>
    dsimp only
    rw [if_pos (slotTaken_iff.2 hslot)]
    rfl

/-! ### One session suspended -/

theorem suspend_eq (s : State) (n id : Nat) : s.suspend n id =
    (s.updSession n (·.suspendedUnder id)).demandChanged.record .sessionSuspended n id none := rfl

theorem suspend_frame (s : State) (n id : Nat) : (s.suspend n id).frame = (s.updSession n (·.suspendedUnder id)).frame := by
  rw [suspend_eq]
  exact (record_frame ..).trans (demandChanged_frame _)

theorem suspend_ssc (s : State) (n id : Nat) : (s.suspend n id).ssc = (s.updSession n (·.suspendedUnder id)).ssc := by
  rw [suspend_eq]
  exact (record_ssc ..).trans (demandChanged_ssc _)

theorem suspend_resume (s : State) (n id : Nat) : (s.suspend n id).work.resume = s.work.resume := by
  rw [suspend_eq]
  exact (record_resume ..).trans (demandChanged_resume _)

theorem suspend_latches (s : State) (n id : Nat) : SameLatches (s.suspend n id) s := by
  have hchanged : SameLatches (s.updSession n (·.suspendedUnder id)).demandChanged (s.updSession n (·.suspendedUnder id)) :=
    demandChanged_latches _
  rw [suspend_eq]
  exact SameLatches.trans (record_latches (s.updSession n (·.suspendedUnder id)).demandChanged .sessionSuspended n id none) hchanged

theorem Holds.suspend {es : List Event} (h : Holds es s) (hlen : es.length < 24) (n id : Nat) :
    Holds (es ++ [s.recordOf .sessionSuspended n id none]) (s.suspend n id) := by
  have hchanged := (Holds.same (t := s.updSession n (·.suspendedUnder id)) h rfl rfl).noted (demandChanged_noted _)
  have hrecord := hchanged.record hlen .sessionSuspended n id none
  rw [recordOf_congr (frame_seconds (demandChanged_frame _))] at hrecord
  rw [suspend_eq]
  exact hrecord

end

section
variable {s t : State} {x : Session} {gone : List Session}

theorem taken_without_frame (s : State) (gone : List Session) : (s.taken.without gone).frame = (s.without gone).frame := by
  rw [without_withSessions, without_withSessions]
  have hidle := idleLines_frame (s := s) (t := s.taken) rfl (gone.flatMap Session.listening)
  have hdeep := frame_deep hidle
  have hapq := frame_apq hidle
  have hnext := congrArg (fun q : List Session × Nat => ((s.ssc.sessions.filter (fun y => !(gone.contains y))).map Session.shown, q.2))
    (frame_table hidle)
  exact frame_of hdeep hnext hapq

theorem without_frame_congr (h : t.frame = s.frame) (hs : t.ssc.sessions = s.ssc.sessions) (gone : List Session) :
    (t.without gone).frame = (s.without gone).frame := by
  have hidle := idleLines_frame h (gone.flatMap Session.listening)
  have hdeep := frame_deep hidle
  have hapq := frame_apq hidle
  have hnext := congrArg (fun q : List Session × Nat => ((s.ssc.sessions.filter (fun y => !(gone.contains y))).map Session.shown, q.2))
    (frame_table hidle)
  rw [without_withSessions, without_withSessions, hs]
  exact frame_of hdeep hnext hapq

theorem updSession_sessions (s : State) (id : Nat) (f : Session → Session) :
    (s.updSession id f).ssc.sessions = s.ssc.sessions.map (fun y => if y.id == id then f y else y) := rfl

/-- The sessions that stay, with one of them suspended: whichever comes first (R96). -/
theorem suspended_filter {n : Nat} {rest others : List Session} {l : List Session} (hl : (l.map Session.id).Nodup) (hx : x ∈ l)
    (hrest : ∀ y, y ∈ rest ↔ y ∈ others) (hsub : ∀ y ∈ others, y ∈ l ∧ y ≠ x) :
    (l.map (fun y => if y.id == x.id then y.suspendedUnder n else y)).filter (fun y => !(rest.contains y)) =
      (l.filter (fun y => !(others.contains y))).map (fun y => if y.id == x.id then y.suspendedUnder n else y) := by
  rw [List.filter_map]
  refine congrArg (List.map _) (List.filter_congr fun y hy => ?_)
  have hmem : ∀ z, rest.contains z = decide (z ∈ others) := fun z => by
    rw [List.contains_eq_mem]
    simp only [hrest]
  have hmem' : others.contains y = decide (y ∈ others) := List.contains_eq_mem ..
  simp only [Function.comp, hmem, hmem']
  split
  · next hid =>
    have hyx : y = x := eq_of_id hl hy hx (by simpa using hid)
    have hout : y.suspendedUnder n ∉ others := fun hin => by
      obtain ⟨hin, hne⟩ := hsub _ hin
      exact hne (eq_of_id hl hin hx (by rw [hyx]; rfl))
    have hout' : y ∉ others := fun hin => (hsub y hin).2 hyx
    simp [hout, hout']
  · rfl

theorem nodup_of_ids {l : List Session} (h : (l.map Session.id).Nodup) : l.Nodup := List.Nodup.of_map _ h

/-- Sessions that none waits for, closed PREEMPTED one after the other. -/
theorem preempted_spec {xs : List Session} (hids : (s.ssc.sessions.map Session.id).Nodup) (hw : s.work.resume = none)
    (hmem : ∀ x ∈ xs, x ∈ s.ssc.sessions) (hnodup : xs.Nodup) (hwaits : ∀ x ∈ xs, ∀ y ∈ s.ssc.sessions, y.suspendedBy ≠ some x.id) :
    Clears (s.preempted xs) s xs ∧
      ∀ es, Holds es s → es.length + xs.length ≤ 24 → Holds (es ++ xs.map (s.closing 5)) (s.preempted xs) :=
  ⟨Clears.closeAll hids .preempted hw xs hmem hnodup hwaits, fun _ hs hroom =>
    hs.closeAll xs .preempted hids (hnodup.map_on fun a ha b hb => eq_of_id hids (hmem a ha) (hmem b hb)) hmem hroom⟩

theorem without_table (hs : t.ssc.sessions = s.ssc.sessions) {others : List Session} (hg : ∀ y, y ∈ gone ↔ y ∈ others) :
    (t.without gone).table = ((s.without others).table.1, t.ssc.nextId) := by
  have hfilter : (fun y : Session => !(gone.contains y)) = fun y => !(others.contains y) := by
    funext y
    rw [List.contains_eq_mem, List.contains_eq_mem]
    simp only [hg]
  rw [table_eq, table_eq, without_sessions, without_sessions, without_nextId, hs, hfilter]

theorem mem_events {m : List Event} {e : Event} (h : t.recorded s m) (he : e ∈ m) : e ∈ t.evq.events :=
  h.subset (List.mem_append_right _ he)

end

/-- Settles O47: each way to make room leaves a state on which the session is created. -/
theorem roomIsMadeForASession : Obligations.RoomIsMadeForASession := by
  intro c w s h hsound hw hr hm henabled htier hfresh ask k cost admits admission closing waiting noneWaitsFor
  have hnewClass := decideRequest_new (s := s.taken) (r := openRequest c w) henabled htier hfresh
  refine ⟨fun x hfull hess hexcl hfirst hnone => ?evict, fun x hplace hmode hess hexcl hcosts hactive hfirst hfits => ?suspend,
    fun x hplace hexcl hfits hactive hfirst hnone => ?exclude, fun hplace hexcl hfits hslot hnone => ?clear⟩
  case evict =>
    have hx : x ∈ s.ssc.sessions := List.mem_of_mem_filter (mem_of_ranksFirst hfirst)
    obtain ⟨hclears, hfound⟩ := (Clears.start (s := s.taken) h.resume).close hsound.ids hx (by simp) (hnone x (by simp)) .preempted
    have hdecided := hnewClass.trans (decideNew_eq (r := openRequest c w) (p := w) (suspendee := none) h.resume
      (makePlace_evicts (s := s.taken) hfull hess hfirst) (chooseProfile_fits (fits_of_essential hess _)))
    have hholds : s.roomFor 2 → Holds (s.evq.events ++ [closing x]) (s.taken.closeSession x.id .preempted) := fun hroom =>
      (taken_holds hroom).closeSession (by have := hroom.2; omega) hfound .preempted
    rw [show s.taken.cls (openRequest c w).cls = k from rfl, admission_plain (.inl hexcl)] at hdecided
    generalize s.taken.closeSession x.id .preempted = v at *
    obtain ⟨hframe, hsessions, hresume, hlatches⟩ := hclears
    have hframe' : v.frame = (s.without [x]).frame := hframe.trans (taken_without_frame s [x])
    have htable := frame_table hframe'
    have hdeep := frame_deep hframe'
    have hapq := frame_apq hframe'
    have hlen : v.ssc.sessions.length ≤ 6 := by
      rw [hsessions]
      exact (List.length_filter_le ..).trans hsound.count
    have hbaseU : (s.without [x]).base = s.base := deep_base (without_deep s [x])
    have hgives := takeId_givesId hlen
    have hid : (s.without [x]).givesId v.takeId.2 :=
      givesId_congr (hsessions.trans (without_sessions s [x]).symm) (congrArg Prod.snd htable) hgives
    have hprice : v.profileCost k w = cost :=
      profileCost_congr (fun d => base_entry ((frame_base hframe').trans hbaseU) d) hlatches k w
    obtain ⟨t, ht, hrecorded⟩ := sessionOpen_placed (z := v.takeId.1) (u := s.without [x]) h hw hr hm hdecided hresume hid hgives.1
      hdeep hapq (congrArg (fun q : List Session × Nat => (q.1, if v.takeId.2 = 255 then 1 else v.takeId.2 + 1)) htable)
      hbaseU (without_latches s [x]) hprice
    rw [hprice] at ht hrecorded
    exact ⟨t, v.takeId.2, ht, fun hroom => hrecorded [closing x] ((hholds hroom).same rfl rfl) (by
      have := hroom.2
      rw [List.length_append, List.length_singleton]
      omega)⟩
  case suspend =>
    have hx : x ∈ s.ssc.sessions := List.mem_of_mem_filter (mem_of_ranksFirst hfirst)
    have hchoice : s.taken.chooseProfile k w [] = some (w, some x.id) := by
      rw [chooseProfile_of_none (s := s.taken) (exempt_eq_false (s := s.taken) hmode hess) (firstFit_none (s := s.taken) hcosts),
        chargeSuspension_first (s := s.taken) hactive hfirst hfits]
      rfl
    have hdecided := hnewClass.trans (decideNew_eq (r := openRequest c w) (p := w) (suspendee := some x.id) h.resume
      (makePlace_room' (s := s.taken) hplace) hchoice)
    rw [show s.taken.cls (openRequest c w).cls = k from rfl, admission_suspends hexcl] at hdecided
    have hgives : s.taken.givesId s.taken.takeId.2 := takeId_givesId (Nat.le_of_lt hplace)
    have hid : s.givesId s.taken.takeId.2 := givesId_congr (v := s.taken) rfl rfl hgives
    have hresume := (suspend_resume s.taken.takeId.1 x.id s.taken.takeId.2).trans h.resume
    have hframe := suspend_frame s.taken.takeId.1 x.id s.taken.takeId.2
    have hssc := suspend_ssc s.taken.takeId.1 x.id s.taken.takeId.2
    have hholds : s.roomFor 2 → Holds (s.evq.events ++ [waiting s.taken.takeId.2 x]) (s.taken.takeId.1.suspend x.id s.taken.takeId.2) :=
      fun hroom => Holds.suspend (s := s.taken.takeId.1) ((taken_holds hroom).same rfl rfl) (by have := hroom.2; omega) x.id s.taken.takeId.2
    generalize s.taken.takeId.1.suspend x.id s.taken.takeId.2 = z at *
    have hids : ∀ y ∈ z.ssc.sessions, y.id ≠ s.taken.takeId.2 := by
      rw [hssc]
      intro y hy
      obtain ⟨q, hq, rfl⟩ := List.mem_map.1 hy
      split
      · exact hid.1 q hq
      · exact hid.1 q hq
    have hdeep := frame_deep hframe
    have hapq := frame_apq hframe
    obtain ⟨t, ht, hrecorded⟩ := sessionOpen_placed (z := z) (u := s.updSession x.id (·.suspendedUnder s.taken.takeId.2)) h hw hr hm hdecided
      hresume hid hids hdeep hapq (frame_table hframe) rfl (.refl _) rfl
    exact ⟨t, s.taken.takeId.2, ht, fun hroom => hrecorded [waiting s.taken.takeId.2 x] (hholds hroom) (by
      have := hroom.2
      rw [List.length_append, List.length_singleton]
      omega)⟩
  case exclude =>
    have hx : x ∈ s.ssc.sessions := List.mem_of_mem_filter (mem_of_ranksFirst hfirst)
    have hnodup : (s.yielding k.priority).Nodup := (nodup_of_ids hsound.ids).filter _
    obtain ⟨rest, hcandidates, hrest⟩ := candidates_of_ranksFirst (s := s.taken.takeId.1) hfirst hnodup
    have hdecided := hnewClass.trans (decideNew_eq (r := openRequest c w) (p := w) (suspendee := none) h.resume
      (makePlace_room' (s := s.taken) hplace) (chooseProfile_fits (s := s.taken) hfits))
    rw [show s.taken.cls (openRequest c w).cls = k from rfl, admission_excludes hexcl,
      exclude_suspends (s := s.taken.takeId.1) hcandidates hactive] at hdecided
    have hgives : s.taken.givesId s.taken.takeId.2 := takeId_givesId (Nat.le_of_lt hplace)
    have hid : s.givesId s.taken.takeId.2 := givesId_congr (v := s.taken) rfl rfl hgives
    have hmem : ∀ y, y ∈ rest ↔ y ∈ (s.yielding k.priority).filter (· != x) := fun y => hrest.mem_iff
    have hothers : ∀ y ∈ (s.yielding k.priority).filter (· != x), y ∈ s.yielding k.priority ∧ y ≠ x := fun y hy => by
      obtain ⟨hy, hne⟩ := List.mem_filter.1 hy
      exact ⟨hy, by simpa using hne⟩
    have hsub : ∀ y ∈ (s.yielding k.priority).filter (· != x), y ∈ s.ssc.sessions ∧ y ≠ x := fun y hy =>
      ⟨List.mem_of_mem_filter (hothers y hy).1, (hothers y hy).2⟩
    have hlen : rest.length + 1 ≤ 5 := by
      have hperm : (s.taken.takeId.1.exclusiveCandidates k.priority).Perm (s.yielding k.priority) :=
        candidates_perm s.taken.takeId.1 k.priority
      rw [hcandidates] at hperm
      rw [← List.length_cons, hperm.length_eq]
      exact (List.length_filter_le ..).trans (Nat.le_of_lt_succ hplace)
    have hresume := (suspend_resume s.taken.takeId.1 x.id s.taken.takeId.2).trans h.resume
    have hframe := suspend_frame s.taken.takeId.1 x.id s.taken.takeId.2
    have hssc := suspend_ssc s.taken.takeId.1 x.id s.taken.takeId.2
    have hholds : s.roomFor 7 → Holds (s.evq.events ++ [waiting s.taken.takeId.2 x]) (s.taken.takeId.1.suspend x.id s.taken.takeId.2) :=
      fun hroom => Holds.suspend (s := s.taken.takeId.1) ((taken_holds hroom).same rfl rfl) (by have := hroom.2; omega) x.id s.taken.takeId.2
    generalize s.taken.takeId.1.suspend x.id s.taken.takeId.2 = v at *
    have hsessions : v.ssc.sessions = s.ssc.sessions.map (fun y => if y.id == x.id then y.suspendedUnder s.taken.takeId.2 else y) :=
      congrArg Ssc.sessions hssc
    have hidsV : (v.ssc.sessions.map Session.id).Nodup := by
      have hkept : v.ssc.sessions.map Session.id = s.ssc.sessions.map Session.id := by
        rw [hsessions, List.map_map]
        refine List.map_congr_left fun y _ => ?_
        simp only [Function.comp]
        split <;> rfl
      rw [hkept]
      exact hsound.ids
    have hinV : ∀ y ∈ rest, y ∈ v.ssc.sessions := fun y hy => by
      obtain ⟨hin, hne⟩ := hsub y ((hmem y).1 hy)
      rw [hsessions]
      refine List.mem_map.2 ⟨y, hin, if_neg ?_⟩
      simpa using fun hid => hne (eq_of_id hsound.ids hin hx hid)
    have hwaits : ∀ y ∈ rest, ∀ q ∈ v.ssc.sessions, q.suspendedBy ≠ some y.id := fun y hy q hq => by
      obtain ⟨hyield, -⟩ := hothers y ((hmem y).1 hy)
      rw [hsessions] at hq
      obtain ⟨q', hq', rfl⟩ := List.mem_map.1 hq
      split
      · exact fun heq => hid.1 y (List.mem_of_mem_filter hyield) (Option.some.inj heq).symm
      · exact hnone y hyield q' hq'
    obtain ⟨⟨hframeZ, hsessionsZ, hresumeZ, -⟩, hclosings⟩ := preempted_spec (s := v) (xs := rest) hidsV hresume hinV
      (hrest.nodup_iff.2 (hnodup.filter _)) hwaits
    have hstamp := frame_seconds hframe
    have hseconds : v.wsc.seconds = s.wsc.seconds := hstamp
    have hrecord : v.closing 5 = closing := funext fun y => recordOf_congr hseconds ..
    have hholdsZ : s.roomFor 7 → Holds (s.evq.events ++ (waiting s.taken.takeId.2 x :: rest.map closing)) (v.preempted rest) := fun hroom => by
      have hall := hclosings _ (hholds hroom) (by
        have := hroom.2
        rw [List.length_append, List.length_singleton]
        omega)
      rwa [hrecord, List.append_assoc] at hall
    have hwithout := hframeZ.trans (without_frame_congr hframe (congrArg Ssc.sessions hssc) rest)
    have hidsZ : ∀ y ∈ (v.preempted rest).ssc.sessions, y.id ≠ s.taken.takeId.2 := fun y hy => by
      rw [hsessionsZ, hsessions] at hy
      obtain ⟨q, hq, rfl⟩ := List.mem_map.1 (List.mem_of_mem_filter hy)
      split
      · exact hid.1 q hq
      · exact hid.1 q hq
    generalize v.preempted rest = z at *
    have hapq : z.apq = (s.without ((s.yielding k.priority).filter (· != x))).apq :=
      (frame_apq hwithout).trans (without_apq_congr rfl hmem)
    have hdeep : z.deep = (s.without ((s.yielding k.priority).filter (· != x))).deep :=
      (frame_deep hwithout).trans ((without_deep _ rest).trans (without_deep s _).symm)
    have htable : z.table = (((s.without ((s.yielding k.priority).filter (· != x))).updSession x.id
        (·.suspendedUnder s.taken.takeId.2)).table.1, if s.taken.takeId.2 = 255 then 1 else s.taken.takeId.2 + 1) := by
      rw [frame_table hwithout, table_eq, table_eq, without_sessions, without_nextId, updSession_sessions, updSession_sessions, without_sessions]
      rw [← suspended_filter hsound.ids hx hmem hsub]
      rfl
    obtain ⟨t, ht, hrecorded⟩ := sessionOpen_placed (z := z)
      (u := (s.without ((s.yielding k.priority).filter (· != x))).updSession x.id (·.suspendedUnder s.taken.takeId.2)) h hw hr hm hdecided
      hresumeZ hid hidsZ hdeep hapq htable (deep_base (without_deep s _)) (without_latches s _) rfl
    refine ⟨t, s.taken.takeId.2, ht, fun hroom => ?_⟩
    have hall := hrecorded (waiting s.taken.takeId.2 x :: rest.map closing) (hholdsZ hroom) (by
      have := hroom.2
      rw [List.length_append, List.length_cons, List.length_map]
      omega)
    refine ⟨List.IsPrefix.trans ?_ hall, mem_events hall (List.mem_append_right _ (List.mem_singleton_self _)), fun y hy =>
      mem_events hall (List.mem_append_left _ (List.mem_cons_of_mem _ (List.mem_map_of_mem ((hmem y).2 hy))))⟩
    exact (List.prefix_append_right_inj s.evq.events).2 ⟨_, rfl⟩
  case clear =>
    have hperm : (s.taken.takeId.1.exclusiveCandidates k.priority).Perm (s.yielding k.priority) :=
      candidates_perm s.taken.takeId.1 k.priority
    have hdecided := hnewClass.trans (decideNew_eq (r := openRequest c w) (p := w) (suspendee := none) h.resume
      (makePlace_room' (s := s.taken) hplace) (chooseProfile_fits (s := s.taken) hfits))
    rw [show s.taken.cls (openRequest c w).cls = k from rfl, admission_excludes hexcl, exclude_closes (s := s.taken.takeId.1) hslot] at hdecided
    generalize s.taken.takeId.1.exclusiveCandidates k.priority = candidates at *
    have hnodup : candidates.Nodup := hperm.nodup_iff.2 ((nodup_of_ids hsound.ids).filter _)
    have hlen : candidates.length ≤ 5 := by
      rw [hperm.length_eq]
      exact (List.length_filter_le ..).trans (Nat.le_of_lt_succ hplace)
    have hmem : ∀ y ∈ candidates, y ∈ s.ssc.sessions := fun y hy => List.mem_of_mem_filter (hperm.mem_iff.1 hy)
    have hgives : s.taken.givesId s.taken.takeId.2 := takeId_givesId (Nat.le_of_lt hplace)
    have hid : s.givesId s.taken.takeId.2 := givesId_congr (v := s.taken) rfl rfl hgives
    obtain ⟨⟨hframe, hsessions, hresume, -⟩, hclosings⟩ := preempted_spec (s := s.taken.takeId.1) (xs := candidates) hsound.ids h.resume
      hmem hnodup fun y hy => hnone y (hperm.mem_iff.1 hy)
    have hholds : s.roomFor 6 → Holds (s.evq.events ++ candidates.map closing) (s.taken.takeId.1.preempted candidates) := fun hroom =>
      hclosings _ ((taken_holds hroom).same rfl rfl) (by have := hroom.2; omega)
    generalize s.taken.takeId.1.preempted candidates = z at *
    have hids : ∀ y ∈ z.ssc.sessions, y.id ≠ s.taken.takeId.2 := by
      rw [hsessions]
      exact fun y hy => hid.1 y (List.mem_of_mem_filter hy)
    have hdeep : z.deep = (s.without (s.yielding k.priority)).deep :=
      (frame_deep hframe).trans ((without_deep s.taken.takeId.1 candidates).trans (without_deep s _).symm)
    have hapq : z.apq = (s.without (s.yielding k.priority)).apq := (frame_apq hframe).trans (without_apq_congr rfl fun y => hperm.mem_iff)
    have htable := (frame_table hframe).trans (without_table (t := s.taken.takeId.1) (s := s) rfl fun y => hperm.mem_iff)
    obtain ⟨t, ht, hrecorded⟩ := sessionOpen_placed h hw hr hm hdecided hresume hid hids hdeep hapq htable
      (deep_base (without_deep s _)) (without_latches s _) rfl
    refine ⟨t, s.taken.takeId.2, ht, fun hroom => ?_⟩
    have hall := hrecorded (candidates.map closing) (hholds hroom) (by
      have := hroom.2
      rw [List.length_append, List.length_map]
      omega)
    exact ⟨mem_events hall (List.mem_append_right _ (List.mem_singleton_self _)), fun y hy =>
      mem_events hall (List.mem_append_left _ (List.mem_map_of_mem (hperm.mem_iff.2 hy)))⟩

end Sys2Proof.Machine
end

section
/-! A SESSION_OPEN whose class has a session (R108 to R113): the request coalesced with it. -/

namespace Sys2Proof.Machine

/-! ### The answer to a coalesced request -/

section
variable {s v u : State} {c : ClassId} {w : Profile} {x y : Session} {id n : Nat} {why : Result} {payload : List Byte}

theorem openAnswer_coalesced {o : CoalesceOutcome} (ho : o ≠ .noCharge) (h : s.session? id = some y) :
    s.openAnswer (.coalesced id o n) = { result := .ok, payload := openPayload id y.profile.code (tenths16 y.estimate) n } := by
  unfold State.openAnswer
  cases o with
  | noCharge => exact absurd rfl ho
  | lengthened | unchanged | held | joined =>
    dsimp only
    rw [h]

theorem openAnswer_noCharge : s.openAnswer (.coalesced id .noCharge n) = { result := .noCharge, payload := openPayload id 0 0 0 } := rfl

theorem openAnswer_upgraded (h : s.session? id = some y) :
    s.openAnswer (.upgraded id) = { result := .ok, payload := openPayload id y.profile.code (tenths16 y.estimate) 0 } := by
  unfold State.openAnswer
  dsimp only
  rw [h]

theorem sessionOf_some (h : s.sessionOf? c = some x) : x ∈ s.ssc.sessions ∧ x.cls = c :=
  ⟨List.mem_of_find?_eq_some h, by simpa using List.find?_some h⟩

theorem session_record (s : State) (k : RecordKind) (a b : Nat) (val : Option Nat) (id : Nat) :
    (s.record k a b val).session? id = s.session? id :=
  congrArg (fun q : Ssc => q.sessions.find? (fun y : Session => y.id == id)) (record_ssc s k a b val)

/-- A SESSION_OPEN whose decision leaves v, of u's frame, answers and records what v says. -/
theorem sessionOpen_does (h : Listening s) (hw : w ≠ .listen) (hr : w = .reduced → (s.cls c).reduced.isSome = true)
    (hm : s.mdc.mode ≠ .drive) {d : Decision} (hd : s.taken.decideRequest (openRequest c w) = (v, d)) (hresume : v.work.resume = none)
    (hframe : v.frame = u.frame) (hanswer : v.openAnswer d = { result := why, payload := payload }) {m : List Event}
    (hholds : s.roomFor n → Holds (s.evq.events ++ m) v) :
    ∃ t, exec (.sessionOpen [byte c.val, byte w.code]) s = .next t ∧ t.frame = u.frame ∧ t.replies 0x40 why payload ∧
      (s.roomFor n → t.recorded s m) := by
  have hexec := exec_sessionOpen_decided h hw hr hm hd
  rw [hanswer] at hexec
  exact ⟨_, hexec, (sendReply_frame ..).trans ((finish_frame hresume).trans hframe), sendReply_replies .., fun hroom =>
    recorded_sendReply (Keeps.finish_recorded (s := s) (hholds hroom).keeps) ..⟩

/-- The same where the decision ends with a record on z. -/
theorem sessionOpen_recording (h : Listening s) (hw : w ≠ .listen) (hr : w = .reduced → (s.cls c).reduced.isSome = true)
    (hm : s.mdc.mode ≠ .drive) {z : State} {d : Decision} {k : RecordKind} {a b : Nat} {val : Option Nat}
    (hd : s.taken.decideRequest (openRequest c w) = (z.record k a b val, d)) (hresume : z.work.resume = none) (hframe : z.frame = u.frame)
    (hbase : u.base = s.base) (hanswer : (z.record k a b val).openAnswer d = { result := why, payload := payload }) {m : List Event}
    (hlen : m.length = n) (hholds : s.roomFor (n + 1) → Holds (s.evq.events ++ m) z) :
    ∃ t, exec (.sessionOpen [byte c.val, byte w.code]) s = .next t ∧ t.frame = u.frame ∧ t.replies 0x40 why payload ∧
      (s.roomFor (n + 1) → t.recorded s (m ++ [s.recordOf k a b val])) := by
  refine sessionOpen_does h hw hr hm hd ((record_resume ..).trans hresume) ((record_frame ..).trans hframe) hanswer fun hroom => ?_
  have hrecord := (hholds hroom).record (by have := hroom.2; rw [List.length_append]; omega) k a b val
  have hseconds : z.wsc.seconds = s.wsc.seconds := base_seconds ((frame_base hframe).trans hbase)
  rwa [recordOf_congr hseconds, List.append_assoc] at hrecord

/-- The same where it is the only record. -/
theorem sessionOpen_recording_one (h : Listening s) (hw : w ≠ .listen) (hr : w = .reduced → (s.cls c).reduced.isSome = true)
    (hm : s.mdc.mode ≠ .drive) {z : State} {d : Decision} {k : RecordKind} {a b : Nat} {val : Option Nat}
    (hd : s.taken.decideRequest (openRequest c w) = (z.record k a b val, d)) (hresume : z.work.resume = none) (hframe : z.frame = u.frame)
    (hbase : u.base = s.base) (hanswer : (z.record k a b val).openAnswer d = { result := why, payload := payload })
    (hholds : ∀ es, Holds es s.taken → Holds es z) :
    ∃ t, exec (.sessionOpen [byte c.val, byte w.code]) s = .next t ∧ t.frame = u.frame ∧ t.replies 0x40 why payload ∧
      (s.roomFor 1 → t.recorded s [s.recordOf k a b val]) := by
  refine sessionOpen_recording (n := 0) (m := []) h hw hr hm hd hresume hframe hbase hanswer rfl fun hroom => ?_
  rw [List.append_nil]
  exact hholds _ (taken_holds hroom)

end

/-! ### Which way a request is coalesced (R108) -/

section
variable {s : State} {c : ClassId} {w : Profile} {x : Session}

theorem coalesce_held (hp : x.profile ≠ .listen) (ha : x.active = false) (r : Request) : s.coalesce r x = s.lengthenHeld x := by
  unfold State.coalesce
  cases hx : x.profile with
  | listen => exact absurd hx hp
  | full | reduced => simp [ha]

theorem coalesce_lengthen (hp : x.profile ≠ .listen) (ha : x.active = true)
    (h : x.profile = .full ∨ w = .reduced ∨ s.fits (s.cls x.cls) (s.widenCost (s.cls x.cls) x) = false) :
    s.coalesce (openRequest c w) x = s.lengthen x := by
  unfold State.coalesce
  cases hx : x.profile with
  | listen => exact absurd hx hp
  | full => simp [ha]
  | reduced =>
    rcases h with h | rfl | h
    · rw [hx] at h
      cases h
    · simp [ha, openRequest]
    · have hwiden : s.widen x = s.lengthen x := by
        unfold State.widen
        exact if_neg (by rw [h]; decide)
      rw [hwiden]
      simp [ha]

theorem coalesce_widen (hp : x.profile = .reduced) (ha : x.active = true) : s.coalesce (openRequest c .full) x = s.widen x := by
  unfold State.coalesce
  rw [hp]
  simp [ha, openRequest]

theorem coalesce_listen (hp : x.profile = .listen) : s.coalesce (openRequest c w) x = s.upgrade (openRequest c w) x := by
  have hjoiner : joiner (openRequest c w) x = none := by
    unfold joiner openRequest
    cases w <;> rfl
  unfold State.coalesce
  rw [hp]
  dsimp only
  rw [hjoiner]

theorem lengthenMs_eq (k : ClassEntry) (x : Session) :
    lengthenMs k x = (if x.profile = .reduced then (k.reduced.map (·.amount)).getD k.fullDuration else k.fullDuration) * 1000 := by
  unfold lengthenMs ClassEntry.profileMs
  by_cases hp : x.profile = .reduced <;> cases hr : k.reduced <;> simp [hp]

end

/-! ### A session that is not a LISTEN one (R109 to R112) -/

section
variable {s : State} {x : Session} {n : Nat}

theorem lengthen_unchanged (hn : addedTime (s.cls x.cls) x (lengthenMs (s.cls x.cls) x) = n) (h : n = 0) :
    s.lengthen x = s.recordCoalesced x.id .unchanged 0 := by
  subst hn
  unfold State.lengthen
  exact if_pos h

theorem lengthen_refused (hn : addedTime (s.cls x.cls) x (lengthenMs (s.cls x.cls) x) = n) (h : n ≠ 0)
    (hfits : s.fits (s.cls x.cls) (s.sumCurrent x.set * secondsUp n) = false) : s.lengthen x = s.recordCoalesced x.id .noCharge 0 := by
  subst hn
  unfold State.lengthen
  exact (if_neg h).trans (if_neg (by rw [hfits]; decide))

theorem lengthen_fits (hn : addedTime (s.cls x.cls) x (lengthenMs (s.cls x.cls) x) = n) (h : n ≠ 0)
    (hfits : s.fits (s.cls x.cls) (s.sumCurrent x.set * secondsUp n) = true) :
    s.lengthen x = (s.updSession x.id (fun y => { y with
      remaining := y.remaining + n, estimate := y.estimate + s.sumCurrent x.set * secondsUp n })).recordCoalesced
      x.id .lengthened (secondsUp n) := by
  subst hn
  unfold State.lengthen
  exact (if_neg h).trans (if_pos hfits)

theorem lengthenHeld_unchanged (hn : addedTime (s.cls x.cls) x (lengthenMs (s.cls x.cls) x) = n) (h : n = 0) :
    s.lengthenHeld x = s.recordCoalesced x.id .unchanged 0 := by
  subst hn
  unfold State.lengthenHeld
  exact if_pos h

theorem lengthenHeld_held (hn : addedTime (s.cls x.cls) x (lengthenMs (s.cls x.cls) x) = n) (h : n ≠ 0) :
    s.lengthenHeld x = (s.updSession x.id (fun y => { y with remaining := y.remaining + n })).recordCoalesced x.id .held (secondsUp n) := by
  subst hn
  unfold State.lengthenHeld
  exact if_neg h

theorem widen_fits {cost : Nat} {set : DomSet} (hcost : s.widenCost (s.cls x.cls) x = cost) (hset : s.enabledOf (s.cls x.cls).fullSet = set)
    (hn : addedTime (s.cls x.cls) x ((s.cls x.cls).profileMs .full) = n) (h : s.fits (s.cls x.cls) cost = true) :
    s.widen x = ((s.updSession x.id (fun y => { y with
        profile := .full, set := set, remaining := y.remaining + n, estimate := y.estimate + cost })).demandChanged.record .sessionUpgraded
        x.id Profile.full.code (some (tenths16 (x.estimate + cost))), .upgraded x.id) := by
  subst hcost hset hn
  unfold State.widen
  exact if_pos h

end

/-! ### A LISTEN session (R71, R100) -/

section
variable {s v : State} {c : ClassId} {w p : Profile} {x : Session} {cost : Nat}

theorem upgrade_plain (r : Request) (henabled : (s.cls x.cls).enabled = true) (htier : tierPasses s.btm.tier (s.cls x.cls).minTier = true)
    (hchoice : (if x.active then s.chooseProfile (s.cls x.cls) r.wanted [x.id] else some (r.wanted, none)) = some (p, none)) :
    s.upgrade r x = s.applyUpgrade x p (s.profileCost (s.cls x.cls) p) := by
  unfold State.upgrade
  dsimp only
  rw [if_neg (by rw [henabled]; decide), if_neg (by rw [htier]; decide), hchoice]

theorem upgrade_suspends (r : Request) (henabled : (s.cls x.cls).enabled = true) (htier : tierPasses s.btm.tier (s.cls x.cls).minTier = true)
    (hactive : x.active = true) {n : Nat} (hchoice : s.chooseProfile (s.cls x.cls) r.wanted [x.id] = some (p, some n)) :
    s.upgrade r x = (s.suspend n x.id).applyUpgrade x p (s.profileCost (s.cls x.cls) p) := by
  unfold State.upgrade
  dsimp only
  rw [if_neg (by rw [henabled]; decide), if_neg (by rw [htier]; decide), if_pos hactive, hchoice]

theorem upgrade_refused (r : Request) (henabled : (s.cls x.cls).enabled = true) (htier : tierPasses s.btm.tier (s.cls x.cls).minTier = true)
    (hactive : x.active = true) (hchoice : s.chooseProfile (s.cls x.cls) r.wanted [x.id] = none) :
    s.upgrade r x = s.refuse r .noCharge x.id := by
  unfold State.upgrade
  dsimp only
  rw [if_neg (by rw [henabled]; decide), if_neg (by rw [htier]; decide), if_pos hactive, hchoice]

/-- The state that an upgrade leaves before its record. -/
def State.madeUpgrade (s : State) (x : Session) (p : Profile) (cost : Nat) : State :=
  let v := s.updSession x.id (fun _ => s.upgradedSession x p cost)
  (if x.active then v.demandChanged else v).idleLines x.listening

/-- An upgrade of x, found in the table as it is, is made and recorded. -/
theorem applyUpgrade_eq (hx : ∀ y ∈ s.ssc.sessions, y.id = x.id → y = x) : s.applyUpgrade x p cost =
    ((s.madeUpgrade x p cost).record .sessionUpgraded x.id p.code (some (tenths16 (x.drawn + cost))), .upgraded x.id) := by
  have hcongr : s.updSession x.id (fun y => y.upgradedTo (s.cls x.cls) p (s.enabledOf ((s.cls x.cls).profileSet p)) cost) =
      s.updSession x.id (fun _ => s.upgradedSession x p cost) := updSession_congr fun y hy hid => by
    rw [hx y hy hid]
    rfl
  unfold State.applyUpgrade State.madeUpgrade
  dsimp only
  rw [hcongr]

theorem madeUpgrade_frame (s : State) (x : Session) (p : Profile) (cost : Nat) :
    (s.madeUpgrade x p cost).frame = ((s.updSession x.id (fun _ => s.upgradedSession x p cost)).idleLines x.listening).frame := by
  unfold State.madeUpgrade
  refine idleLines_frame ?_ _
  split
  · exact demandChanged_frame _
  · rfl

theorem madeUpgrade_noted (s : State) (x : Session) (p : Profile) (cost : Nat) : (s.madeUpgrade x p cost).noted = s.noted := by
  unfold State.madeUpgrade
  refine (idleLines_noted _ _).trans ?_
  split
  · exact demandChanged_noted _
  · rfl

theorem madeUpgrade_session (h : s.session? x.id = some x) (p : Profile) (cost : Nat) :
    (s.madeUpgrade x p cost).session? x.id = some (s.upgradedSession x p cost) := by
  have hssc : (s.madeUpgrade x p cost).ssc = (s.updSession x.id (fun _ => s.upgradedSession x p cost)).ssc := by
    unfold State.madeUpgrade
    refine (idleLines_ssc _ _).trans ?_
    split
    · exact demandChanged_ssc _
    · rfl
  have hcongr : s.updSession x.id (fun _ => s.upgradedSession x p cost) =
      s.updSession x.id (fun y => if y.id = x.id then s.upgradedSession x p cost else y) := updSession_congr fun y _ hid => (if_pos hid).symm
  have hfound : (s.updSession x.id (fun _ => s.upgradedSession x p cost)).session? x.id = some (s.upgradedSession x p cost) := by
    rw [hcongr, session_updSession (fun y => by split <;> simp_all [State.upgradedSession]), h]
    exact congrArg some (if_pos rfl)
  exact (congrArg (fun q : Ssc => q.sessions.find? (fun y : Session => y.id == x.id)) hssc).trans hfound

end

end Sys2Proof.Machine
end

section
/-! The outcomes of a coalesced SESSION_OPEN (R71, R100, R108 to R113): obligation O48. -/

namespace Sys2Proof.Machine

section
variable {s v : State} {w p : Profile} {x y : Session} {cost n : Nat}

/-- A SESSION_OPEN answered with the session as z has it, and recorded as coalesced. -/
theorem coalesced_does (h : Listening s) (hw : w ≠ .listen) (hr : w = .reduced → (s.cls x.cls).reduced.isSome = true)
    (hm : s.mdc.mode ≠ .drive) {z : State} {o : CoalesceOutcome} (ho : o ≠ .noCharge)
    (hd : s.taken.decideRequest (openRequest x.cls w) = z.recordCoalesced x.id o n) (hresume : z.work.resume = none)
    (hframe : z.frame = v.frame) (hbase : v.base = s.base) (hy : z.session? x.id = some y) (hholds : ∀ es, Holds es s.taken → Holds es z) :
    ∃ t, exec (.sessionOpen [byte x.cls.val, byte w.code]) s = .next t ∧ t.frame = v.frame ∧
      t.replies 0x40 .ok (openPayload x.id y.profile.code (tenths16 y.estimate) n) ∧
      (s.roomFor 1 → t.recorded s [s.recordOf .wakeCoalesced x.id o.code (some n)]) :=
  sessionOpen_recording_one h hw hr hm hd hresume hframe hbase (openAnswer_coalesced ho ((session_record ..).trans hy)) hholds

/-- The same where one change of the session is all that the decision makes. -/
theorem changed_does (h : Listening s) (hsession : s.session? x.id = some x) (hw : w ≠ .listen)
    (hr : w = .reduced → (s.cls x.cls).reduced.isSome = true) (hm : s.mdc.mode ≠ .drive) {o : CoalesceOutcome} (ho : o ≠ .noCharge)
    {f : Session → Session} (hf : ∀ y, (f y).id = y.id)
    (hd : s.taken.decideRequest (openRequest x.cls w) = (s.taken.updSession x.id f).recordCoalesced x.id o n) :
    ∃ t, exec (.sessionOpen [byte x.cls.val, byte w.code]) s = .next t ∧ t.frame = (s.updSession x.id f).frame ∧
      t.replies 0x40 .ok (openPayload x.id (f x).profile.code (tenths16 (f x).estimate) n) ∧
      (s.roomFor 1 → t.recorded s [s.recordOf .wakeCoalesced x.id o.code (some n)]) :=
  coalesced_does h hw hr hm ho hd h.resume rfl rfl ((session_updSession hf x.id).trans (congrArg (Option.map f) hsession))
    fun _ hs => hs.same rfl rfl

/-- A LISTEN session of v, which stands as s does but for the sessions, upgraded and answered with its new profile and estimate. -/
theorem upgraded_answer (hy : v.session? x.id = some x) (p : Profile) (cost : Nat) {k : RecordKind} {a b : Nat} {val : Option Nat} :
    ((v.madeUpgrade x p cost).record k a b val).openAnswer (.upgraded x.id) =
      { result := .ok, payload := openPayload x.id p.code (tenths16 (x.drawn + cost)) 0 } :=
  openAnswer_upgraded ((session_record ..).trans (madeUpgrade_session hy p cost))

/-- A SESSION_OPEN that upgrades its class's LISTEN session with no suspension. -/
theorem upgraded_does (h : Listening s) (hsound : SessionsSound s) (hx : x ∈ s.ssc.sessions) (hw : w ≠ .listen)
    (hr : w = .reduced → (s.cls x.cls).reduced.isSome = true) (hm : s.mdc.mode ≠ .drive)
    (hd : s.taken.decideRequest (openRequest x.cls w) = s.taken.applyUpgrade x p cost) :
    ∃ t, exec (.sessionOpen [byte x.cls.val, byte w.code]) s = .next t ∧
      t.frame = ((s.updSession x.id (fun _ => s.upgradedSession x p cost)).idleLines x.listening).frame ∧
      t.replies 0x40 .ok (openPayload x.id p.code (tenths16 (x.drawn + cost)) 0) ∧
      (s.roomFor 1 → t.recorded s [s.recordOf .sessionUpgraded x.id p.code (some (tenths16 (x.drawn + cost)))]) := by
  rw [applyUpgrade_eq (s := s.taken) fun y hy hid => eq_of_id hsound.ids hy hx hid] at hd
  have hnoted := madeUpgrade_noted s.taken x p cost
  have hframe := (madeUpgrade_frame s.taken x p cost).trans (idleLines_frame (s := s.updSession x.id (fun _ => s.upgradedSession x p cost))
    (updSession_frame (t := s.taken) (s := s) rfl fun _ => rfl) x.listening)
  have hanswer := upgraded_answer (v := s.taken) (session_of_mem hsound.ids hx) p cost (k := .sessionUpgraded) (a := x.id) (b := p.code)
    (val := some (tenths16 (x.drawn + cost)))
  generalize s.taken.madeUpgrade x p cost = z at *
  exact sessionOpen_recording_one h hw hr hm hd ((noted_resume hnoted).trans h.resume) hframe (deep_base (idleLines_deep _ _)) hanswer
    fun _ hs => hs.noted hnoted

/-- A SESSION_OPEN that widens its class's REDUCED session. -/
theorem widened_does (h : Listening s) (hsession : s.session? x.id = some x) (hw : w ≠ .listen)
    (hr : w = .reduced → (s.cls x.cls).reduced.isSome = true) (hm : s.mdc.mode ≠ .drive) {f : Session → Session}
    {b : Nat} {val : Option Nat} (hd : s.taken.decideRequest (openRequest x.cls w) =
      ((s.taken.updSession x.id f).demandChanged.record .sessionUpgraded x.id b val, .upgraded x.id)) (hf : ∀ y, (f y).id = y.id) :
    ∃ t, exec (.sessionOpen [byte x.cls.val, byte w.code]) s = .next t ∧ t.frame = (s.updSession x.id f).frame ∧
      t.replies 0x40 .ok (openPayload x.id (f x).profile.code (tenths16 (f x).estimate) 0) ∧
      (s.roomFor 1 → t.recorded s [s.recordOf .sessionUpgraded x.id b val]) := by
  have hfound : (s.taken.updSession x.id f).session? x.id = some (f x) :=
    (session_updSession hf x.id).trans (congrArg (Option.map f) hsession)
  have hframe : (s.taken.updSession x.id f).frame = (s.updSession x.id f).frame := rfl
  have hholds : ∀ es, Holds es s.taken → Holds es (s.taken.updSession x.id f) := fun _ hs => hs.same rfl rfl
  have hresume : (s.taken.updSession x.id f).work.resume = none := h.resume
  generalize s.taken.updSession x.id f = z at *
  have hssc : z.demandChanged.session? x.id = z.session? x.id :=
    congrArg (fun q : Ssc => q.sessions.find? (fun y : Session => y.id == x.id)) (demandChanged_ssc z)
  exact sessionOpen_recording_one h hw hr hm hd ((demandChanged_resume z).trans hresume) ((demandChanged_frame z).trans hframe) rfl
    (openAnswer_upgraded ((session_record ..).trans (hssc.trans hfound))) fun _ hs => (hholds _ hs).demandChanged

theorem updSession_ids {f : Session → Session} (hf : ∀ y, (f y).id = y.id) (s : State) (id : Nat) :
    (s.updSession id f).ssc.sessions.map Session.id = s.ssc.sessions.map Session.id := by
  rw [updSession_sessions, List.map_map]
  refine List.map_congr_left fun y _ => ?_
  simp only [Function.comp]
  split
  · exact hf y
  · rfl

theorem upgradedSession_congr (h : v.base = s.base) (x : Session) (p : Profile) (cost : Nat) :
    v.upgradedSession x p cost = s.upgradedSession x p cost := by
  unfold State.upgradedSession State.enabledOf
  simp only [cls_congr h, base_entry h]

/-- An exempt class, or a price within the headroom, has the profile asked for with no suspension (R92, R93). -/
theorem chooseProfile_exempt_or_fits {k : ClassEntry} {skip : List Nat} (h : s.exempt k = true ∨ s.profileCost k w ≤ s.headroom skip) :
    s.chooseProfile k w skip = some (w, none) := by
  cases hexempt : s.exempt k with
  | true =>
    unfold State.chooseProfile
    exact if_pos hexempt
  | false => exact chooseProfile_of_fit hexempt (firstFit_wanted (h.resolve_left (by rw [hexempt]; decide)))

/-- A SESSION_OPEN that suspends a session to upgrade its class's LISTEN session. -/
theorem upgraded_suspending_does (h : Listening s) (hsound : SessionsSound s) (hx : x ∈ s.ssc.sessions) (hw : w ≠ .listen)
    (hr : w = .reduced → (s.cls x.cls).reduced.isSome = true) (hm : s.mdc.mode ≠ .drive) (hne : x.id ≠ y.id)
    (hd : s.taken.decideRequest (openRequest x.cls w) = (s.taken.suspend y.id x.id).applyUpgrade x p cost) :
    ∃ t, exec (.sessionOpen [byte x.cls.val, byte w.code]) s = .next t ∧
      t.replies 0x40 .ok (openPayload x.id p.code (tenths16 (x.drawn + cost)) 0) ∧
      t.frame = (((s.updSession y.id (·.suspendedUnder x.id)).updSession x.id (fun _ =>
        s.upgradedSession x p cost)).idleLines x.listening).frame ∧
      (s.roomFor 2 → t.recorded s [s.recordOf .sessionSuspended y.id x.id none,
        s.recordOf .sessionUpgraded x.id p.code (some (tenths16 (x.drawn + cost)))]) := by
  have hsuspended : (s.taken.suspend y.id x.id).frame = (s.updSession y.id (·.suspendedUnder x.id)).frame := suspend_frame ..
  have hssc : (s.taken.suspend y.id x.id).ssc = (s.updSession y.id (·.suspendedUnder x.id)).ssc := suspend_ssc ..
  have hresume : (s.taken.suspend y.id x.id).work.resume = none := (suspend_resume ..).trans h.resume
  have hholds : s.roomFor 2 → Holds (s.evq.events ++ [s.recordOf .sessionSuspended y.id x.id none]) (s.taken.suspend y.id x.id) :=
    fun hroom => (taken_holds hroom).suspend (roomFor_lt hroom) y.id x.id
  generalize s.taken.suspend y.id x.id = v at *
  have hids : (v.ssc.sessions.map Session.id).Nodup := by
    rw [hssc, updSession_ids (f := (·.suspendedUnder x.id)) fun _ => rfl]
    exact hsound.ids
  have hmem : x ∈ v.ssc.sessions := by
    rw [hssc]
    refine List.mem_map.2 ⟨x, hx, if_neg ?_⟩
    simpa using hne
  rw [applyUpgrade_eq fun z hz hid => eq_of_id hids hz hmem hid] at hd
  have hnoted := madeUpgrade_noted v x p cost
  have hchanged := updSession_frame (f := fun _ => v.upgradedSession x p cost) (id := x.id) hsuspended fun _ => rfl
  have hupgraded : v.upgradedSession x p cost = s.upgradedSession x p cost := upgradedSession_congr (frame_base hsuspended) x p cost
  have hframe := (madeUpgrade_frame v x p cost).trans (idleLines_frame hchanged x.listening)
  rw [hupgraded] at hframe
  have hanswer := upgraded_answer (session_of_mem hids hmem) p cost (k := .sessionUpgraded) (a := x.id) (b := p.code)
    (val := some (tenths16 (x.drawn + cost)))
  generalize v.madeUpgrade x p cost = z at *
  obtain ⟨t, ht, hframe, hreplies, hrecorded⟩ := sessionOpen_recording (n := 1) h hw hr hm hd ((noted_resume hnoted).trans hresume) hframe
    (deep_base (idleLines_deep _ _)) hanswer rfl fun hroom => (hholds hroom).noted hnoted
  exact ⟨t, ht, hreplies, hframe, hrecorded⟩

end

/-- Settles O48: each outcome is one branch of the coalescing. -/
theorem requestsAreCoalesced : Obligations.RequestsAreCoalesced := by
  intro c w x s h hsound hw hr hm henabled htier hfound ask k does coalesced upgraded towards added seconds cost payload full now wider
  obtain ⟨hx, rfl⟩ := sessionOf_some hfound
  have hsession := session_of_mem hsound.ids hx
  have hpresent := decideRequest_present (s := s.taken) (r := openRequest x.cls w) henabled htier hfound
  have hadded : addedTime (s.cls x.cls) x (lengthenMs (s.cls x.cls) x) = added := by
    rw [addedTime, lengthenMs_eq]
  refine ⟨fun hp ha hcase => ?lengthen, fun hp ha => ?held, fun hp ha hfull hfits => ?widen,
    fun hp => ⟨fun hfree => ?upgrade, fun ha hexempt hfull hreduced hover hfits => ?reduced, fun y ha hexempt hover hactive hfirst hfits => ?suspend,
      fun ha hexempt hover hnone => ?refuse⟩⟩
  case lengthen =>
    have hdecided := hpresent.trans (coalesce_lengthen (s := s.taken) hp ha hcase)
    refine ⟨fun hzero => ?_, fun hsome hfits => ?_, fun hsome hfits => ?_⟩
    · have hlengthen := hdecided.trans (lengthen_unchanged (s := s.taken) (x := x) (n := added) hadded hzero)
      exact coalesced_does (z := s.taken) (v := s) (o := .unchanged) h hw hr hm (by decide) hlengthen h.resume rfl rfl hsession fun _ hs => hs
    · have hlengthen := hdecided.trans (lengthen_fits (s := s.taken) (x := x) (n := added) hadded hsome hfits)
      exact changed_does (o := .lengthened) h hsession hw hr hm (by decide) (fun _ => rfl) hlengthen
    · have hlengthen := hdecided.trans (lengthen_refused (s := s.taken) (x := x) (n := added) hadded hsome hfits)
      exact sessionOpen_recording_one h hw hr hm hlengthen h.resume rfl rfl openAnswer_noCharge fun _ hs => hs
  case held =>
    have hdecided := hpresent.trans (coalesce_held (s := s.taken) hp ha (openRequest x.cls w))
    refine ⟨fun hzero => ?_, fun hsome => ?_⟩
    · have hlengthen := hdecided.trans (lengthenHeld_unchanged (s := s.taken) (x := x) (n := added) hadded hzero)
      exact coalesced_does (z := s.taken) (v := s) (o := .unchanged) h hw hr hm (by decide) hlengthen h.resume rfl rfl hsession fun _ hs => hs
    · have hlengthen := hdecided.trans (lengthenHeld_held (s := s.taken) (x := x) (n := added) hadded hsome)
      exact changed_does (o := .held) h hsession hw hr hm (by decide) (fun _ => rfl) hlengthen
  case widen =>
    subst hfull
    have hdecided := (hpresent.trans (coalesce_widen (s := s.taken) hp ha)).trans (widen_fits (s := s.taken) (x := x)
      (cost := wider) (set := s.enabledOf k.fullSet) (n := towards k.fullDuration) rfl rfl rfl hfits)
    exact widened_does h hsession hw hr hm hdecided fun _ => rfl
  case upgrade =>
    have hchoice : (if x.active then s.taken.chooseProfile k w [x.id] else some (w, none)) = some (w, none) := by
      split
      · next ha =>
        exact chooseProfile_exempt_or_fits (s := s.taken) (hfree.resolve_left (by rw [ha]; decide))
      · rfl
    exact upgraded_does h hsound hx hw hr hm
      ((hpresent.trans (coalesce_listen (s := s.taken) hp)).trans (upgrade_plain (s := s.taken) (openRequest x.cls w) henabled htier hchoice))
  case reduced =>
    subst hfull
    have hchoice := chooseProfile_of_fit (s := s.taken) (skip := [x.id]) hexempt (firstFit_reduced (s := s.taken) hreduced hover hfits)
    exact upgraded_does h hsound hx hw hr hm ((hpresent.trans (coalesce_listen (s := s.taken) hp)).trans
      (upgrade_plain (s := s.taken) (openRequest x.cls .full) henabled htier ((if_pos ha).trans hchoice)))
  case suspend =>
    have hchoice : s.taken.chooseProfile k w [x.id] = some (w, some y.id) := by
      rw [chooseProfile_of_none (s := s.taken) hexempt (firstFit_none (s := s.taken) hover),
        chargeSuspension_first (s := s.taken) hactive hfirst hfits]
      rfl
    have hne : x.id ≠ y.id := fun hid => by
      have hy := mem_of_ranksFirst hfirst
      rw [← eq_of_id hsound.ids hx (List.mem_of_mem_filter hy) hid] at hy
      simpa [k] using (List.mem_filter.1 hy).2
    exact upgraded_suspending_does h hsound hx hw hr hm hne ((hpresent.trans (coalesce_listen (s := s.taken) hp)).trans
      (upgrade_suspends (s := s.taken) (openRequest x.cls w) henabled htier ha hchoice))
  case refuse =>
    have hchoice : s.taken.chooseProfile k w [x.id] = none := by
      rw [chooseProfile_of_none (s := s.taken) hexempt (firstFit_none (s := s.taken) hover), chargeSuspension_none (s := s.taken) hnone]
      rfl
    have hdecided := (hpresent.trans (coalesce_listen (s := s.taken) hp)).trans
      (upgrade_refused (s := s.taken) (openRequest x.cls w) henabled htier ha hchoice)
    exact sessionOpen_recording_one h hw hr hm hdecided h.resume rfl rfl rfl fun _ hs => hs

end Sys2Proof.Machine
end

section
/-! The event that leaves reset: D0, demanded by the mode's hold alone, is queued, granted a slot, and ON at once where its PG is good (R14,
R26, R47). -/

namespace Sys2Proof.Machine

/-! ### Sets that hold D0 alone -/

theorem hasDom_foldl_select (p : DomId → Bool) (d : DomId) (l : List DomId) (S : DomSet) :
    hasDom (l.foldl (fun S e => if p e then addDom S e else S) S) d = (hasDom S d || (p d && decide (d ∈ l))) := by
  induction l generalizing S with
  | nil => simp
  | cons e l ih =>
    rw [List.foldl_cons, ih]
    by_cases hp : p e = true
    · rw [if_pos hp, hasDom_addDom]
      by_cases hde : d = e
      · subst hde
        simp [hp]
      · simp [hde]
    · rw [if_neg hp]
      by_cases hde : d = e
      · subst hde
        simp [hp]
      · simp [hde]

theorem hasDom_domSetOf (p : DomId → Bool) (d : DomId) : hasDom (domSetOf p) d = p d := by
  have hmem : d ∈ domIds := mem_domIds d
  have hempty : hasDom 0 d = false := by
    unfold hasDom
    simp
  unfold domSetOf
  rw [hasDom_foldl_select, hempty]
  simp [hmem]

/-- The mode's hold stands, no session does, D0 alone is enabled, and no domain but D0 is up. -/
structure Starting (v : State) : Prop where
  mode : v.mdc.mode = .drive ∧ v.mdc.driveHold = true ∨ v.mdc.mode = .handover ∧ v.mdc.driveHold = false ∧ v.mdc.handoverHold = true
  always : v.mdc.alwaysHold = true
  sub : v.mdc.sub = none
  period : v.chm.period = 250
  sessions : v.ssc.sessions = []
  unheld : v.dmc.d0Held = none
  entry : ∀ d, (v.dom d).entry = if d = 0 then DomainEntry.powerOnD0 else DomainEntry.powerOn
  off : ∀ d, d ≠ 0 → (v.dom d).state = .off

section
variable {v : State}

namespace Starting

theorem parent (h : Starting v) (d : DomId) : (v.dom d).entry.parent = none := by
  rw [h.entry]
  split <;> rfl

theorem enabled (h : Starting v) (d : DomId) : (v.dom d).entry.enabled = decide (d = 0) := by
  rw [h.entry]
  split
  · next hd => exact (decide_eq_true hd).symm
  · next hd => exact (decide_eq_false hd).symm

theorem withAncestors (h : Starting v) (S : DomSet) : v.withAncestors S = S := by
  unfold State.withAncestors
  simp only [h.parent, ite_self]
  induction domIdsDown with
  | nil => rfl
  | cons d l ih => exact ih

theorem driveSet (h : Starting v) (d : DomId) : hasDom v.driveSet d = decide (d = 0) := by
  unfold State.driveSet
  rw [hasDom_domSetOf, h.enabled]
  by_cases hd : d = 0 <;> simp [hd]

theorem handoverSet (h : Starting v) (d : DomId) : hasDom v.handoverSet d = decide (d = 0) := by
  unfold State.handoverSet
  rw [hasDom_domSetOf, h.enabled]
  by_cases hd : d = 0 <;> simp [hd]

theorem alwaysSet (h : Starting v) (d : DomId) : hasDom v.alwaysSet d = false := by
  unfold State.alwaysSet
  rw [hasDom_domSetOf, h.entry]
  split <;> exact Bool.and_false _

theorem sessionSets (h : Starting v) : v.sessionSets = [] := by
  unfold State.sessionSets
  rw [h.sessions]
  rfl

theorem demand_other (h : Starting v) {d : DomId} (hd : d ≠ 0) : v.demand d = 0 := by
  have hholders : v.directHolders d = 0 := by
    unfold State.directHolders State.holdSets
    rw [h.sessionSets, List.append_nil, List.countP_eq_zero]
    intro S hS
    rw [List.mem_append, List.mem_append] at hS
    rcases hS with (hS | hS) | hS <;> split at hS <;> simp only [List.mem_singleton, List.not_mem_nil] at hS <;> subst hS
    · simp [h.driveSet, hd]
    · simp [h.handoverSet, hd]
    · simp [h.alwaysSet]
  have hchildren : v.childrenUp d = 0 := by
    unfold State.childrenUp
    rw [List.countP_eq_zero]
    intro e _
    simp [h.parent]
  rw [State.demand, hholders, hchildren]

theorem demand_zero (h : Starting v) : v.demand 0 ≠ 0 := by
  have hpos : 0 < v.directHolders 0 := by
    unfold State.directHolders State.holdSets
    rw [List.countP_pos_iff]
    rcases h.mode with ⟨-, hdrive⟩ | ⟨-, -, hhandover⟩
    · exact ⟨v.driveSet, by simp [hdrive], by simp [h.driveSet]⟩
    · exact ⟨v.handoverSet, by simp [hhandover], by simp [h.handoverSet]⟩
  unfold State.demand
  omega

theorem awake (h : Starting v) : (v.mdc.mode == .cutoff) = false := by
  rcases h.mode with ⟨hm, -⟩ | ⟨hm, -⟩ <;> rw [hm] <;> rfl

theorem transitionOf_other (h : Starting v) {d : DomId} (hd : d ≠ 0) : v.transitionOf d = v := by
  unfold State.transitionOf State.transition State.unwantedInCutoff
  rw [h.awake, h.unheld, h.off d hd, h.demand_other hd]
  simp

theorem settle (h : Starting v) : v.settle = v.transitionOf 0 := by
  have hfold : ∀ l : List DomId, 0 ∉ l → l.foldl State.transitionOf v = v := by
    intro l
    induction l with
    | nil => exact fun _ => rfl
    | cons d l ih =>
      intro hl
      rw [List.mem_cons, not_or] at hl
      rw [List.foldl_cons, h.transitionOf_other (Ne.symm hl.1)]
      exact ih hl.2
  have hsplit : domIdsDown = [11, 10, 9, 8, 7, 6, 5, 4, 3, 2, 1] ++ [0] := rfl
  unfold State.settle
  rw [hsplit, List.foldl_append, hfold _ (by decide)]
  rfl

theorem transitionOf_zero (h : Starting v) : v.transitionOf 0 = v.transition 0 := by
  unfold State.transitionOf
  exact if_neg (by rw [h.unheld]; decide)

theorem settle_queues (h : Starting v) (h0 : (v.dom 0).state = .off) : v.settle = v.setState 0 .queued 0 := by
  have hparent : (v.setState 0 .queued 0).parentIs 0 .latched = false := by
    unfold State.parentIs
    rw [setState_dom_self]
    dsimp only
    rw [h.parent]
  have hplaced : v.holdsPlaced = true := by
    unfold State.holdsPlaced
    rw [h.always, bne, h.awake]
    rfl
  have hentered : v.enterQueued 0 = v.setState 0 .queued 0 := if_neg (by rw [hparent]; decide)
  rw [h.settle, h.transitionOf_zero]
  unfold State.transition State.unwantedInCutoff
  rw [h.awake, h0, hplaced]
  simp [h.demand_zero, hentered]

theorem settle_stays (h : Starting v) (h0 : (v.dom 0).state = .ramping ∨ (v.dom 0).state = .on) : v.settle = v := by
  rw [h.settle, h.transitionOf_zero]
  unfold State.transition State.unwantedInCutoff
  rw [h.awake]
  rcases h0 with h0 | h0 <;> rw [h0] <;> simp [h.demand_zero]

theorem refreshSub (h : Starting v) : v.refreshSub = v := by
  have hsub : v.subNow = v.mdc.sub := by
    unfold State.subNow
    rw [h.sub]
    rcases h.mode with ⟨hm, -⟩ | ⟨hm, -⟩ <;> rw [hm] <;> rfl
  have hperiod : samplePeriod v.mdc.mode v.mdc.sub = v.chm.period := by
    rw [h.period]
    rcases h.mode with ⟨hm, -⟩ | ⟨hm, -⟩ <;> rw [hm] <;> rfl
  unfold State.refreshSub
  dsimp only
  rw [hsub]
  exact if_pos hperiod

/-- What the event's steps leave of a state from which only D0 starts. -/
theorem congr {t : State} (h : Starting v) (hm : t.mdc = v.mdc) (hc : t.chm = v.chm) (hs : t.ssc = v.ssc) (hh : t.dmc.d0Held = none)
    (he : ∀ d, (t.dom d).entry = (v.dom d).entry) (ho : ∀ d, d ≠ 0 → (t.dom d).state = (v.dom d).state) : Starting t where
  mode := by rw [hm]; exact h.mode
  always := by rw [hm]; exact h.always
  sub := by rw [hm]; exact h.sub
  period := by rw [hc]; exact h.period
  sessions := by rw [hs]; exact h.sessions
  unheld := hh
  entry d := (he d).trans (h.entry d)
  off d hd := (ho d hd).trans (h.off d hd)

theorem ownerOf_zero (h : Starting v) : v.ownerOf 0 = if v.mdc.driveHold then .driveHold else .handoverHold := by
  unfold State.ownerOf State.setDemands
  rw [h.withAncestors, h.withAncestors, h.driveSet, h.handoverSet]
  rcases h.mode with ⟨-, hdrive⟩ | ⟨-, hdrive, hhandover⟩
  · rw [hdrive]
    rfl
  · rw [hdrive, hhandover]
    rfl

theorem ownerOf_other (h : Starting v) {d : DomId} (hd : d ≠ 0) : v.ownerOf d = .nobody := by
  unfold State.ownerOf State.setDemands
  rw [h.withAncestors, h.withAncestors, h.withAncestors, h.driveSet, h.handoverSet, h.alwaysSet, h.sessions]
  simp [hd]

end Starting

/-! ### The steps of the event -/

/-- D0 taken into a state, with the Ramp Arbiter and the link as they then are. -/
def State.withD0 (v : State) (st : DomState) (timer : Nat) (r : Rmp) (l : Lnk) : State :=
  { v.updDom 0 (fun x => { x with state := st, en := st.enOn, timer := timer }) with rmp := r, lnk := l }

theorem withD0_dom (st : DomState) (timer : Nat) (r : Rmp) (l : Lnk) (d : DomId) :
    (v.withD0 st timer r l).dom d = if d = 0 then { v.dom 0 with state := st, en := st.enOn, timer := timer } else v.dom d :=
  dom_updDom (s := v) 0 d (fun x => { x with state := st, en := st.enOn, timer := timer })

theorem withD0_dom_zero (st : DomState) (timer : Nat) (r : Rmp) (l : Lnk) :
    (v.withD0 st timer r l).dom 0 = { v.dom 0 with state := st, en := st.enOn, timer := timer } :=
  (withD0_dom st timer r l 0).trans (if_pos rfl)

theorem starting_withD0 (h : Starting v) (st : DomState) (timer : Nat) (r : Rmp) (l : Lnk) : Starting (v.withD0 st timer r l) :=
  h.congr rfl rfl rfl h.unheld
    (fun d => by
      rw [withD0_dom]
      split
      · next hd => rw [hd]
      · rfl)
    (fun d hd => by rw [withD0_dom, if_neg hd])

theorem withD0_withD0 (st st' : DomState) (timer timer' : Nat) (r r' : Rmp) (l l' : Lnk) :
    (v.withD0 st timer r l).withD0 st' timer' r' l' = v.withD0 st' timer' r' l' := by
  have hdom := withD0_dom_zero (v := v) st timer r l
  unfold State.withD0 State.updDom at *
  rw [hdom]
  simp only [Vector.set_set]

/-- D0, not live, enters a state. -/
theorem setState_withD0 (h : (v.dom 0).state.live = false) (st : DomState) (timer : Nat) :
    v.setState 0 st timer = v.withD0 st timer (v.setState 0 st timer).rmp (v.setState 0 st timer).lnk := by
  unfold State.setState State.linkFollows
  dsimp only
  rw [h]
  simp only [Bool.false_and, Bool.not_false, Bool.true_and, if_pos, if_false, Bool.false_eq_true]
  (repeat' split) <;> rfl

/-- The state that the event leaves when D0 ramps. -/
def State.ramping0 (v : State) : State :=
  v.withD0 .ramping DomainEntry.powerOnD0.rampTimeout { queue := [], slotA := some 0, slotB := none } v.lnk

/-- The state that the event leaves when D0's PG is good. -/
def State.on0 (v : State) : State :=
  v.withD0 .on 0 { queue := [], slotA := none, slotB := none } { v.lnk with receiver := .hunting, gap := 0 }

theorem queued0_eq (h : Starting v) (h0 : (v.dom 0).state = .off) (hr : v.rmp = { queue := [], slotA := none, slotB := none }) :
    v.settle.enqueueArrivals = v.withD0 .queued 0 { queue := [0], slotA := none, slotB := none } v.lnk := by
  have hdark : (v.dom 0).state.live = false := by rw [h0]; rfl
  have hset : v.settle = v.withD0 .queued 0 v.rmp v.lnk := by
    rw [h.settle_queues h0, setState_withD0 hdark, setState_lnk_zero, setState_rmp, h0, hr]
    rfl
  have hfilter : domIds.filter (fun d => ((v.withD0 .queued 0 v.rmp v.lnk).dom d).state == .queued &&
      !(v.withD0 .queued 0 v.rmp v.lnk).rmp.queue.contains d) = domIds.filter (fun d => d == 0) :=
    List.filter_congr fun d _ => by
      have hqueue : (v.withD0 .queued 0 v.rmp v.lnk).rmp.queue = [] := congrArg Rmp.queue hr
      rw [withD0_dom, hqueue]
      split
      · next hd => rw [hd]; rfl
      · next hd => rw [h.off d hd, beq_eq_false_iff_ne.2 hd]; rfl
  rw [hset]
  unfold State.enqueueArrivals
  rw [hfilter]
  unfold State.withD0
  rw [hr]
  rfl

theorem starting_ramping0 (h : Starting v) : Starting v.ramping0 := starting_withD0 h ..

theorem starting_on0 (h : Starting v) : Starting v.on0 := starting_withD0 h ..

theorem grants_of_empty (h : v.rmp.queue = []) (n : Nat) : State.grants n v = v := by
  have hnone : v.nextGrant = none := by
    unfold State.nextGrant State.queueOrder
    rw [h]
    rfl
  cases n with
  | zero => rfl
  | succ n =>
    unfold State.grants
    rw [hnone]
    split <;> rfl

theorem arrivals_none (h : ∀ d, (v.dom d).state ≠ .queued) : v.enqueueArrivals = v := by
  have hfilter : domIds.filter (fun d => (v.dom d).state == .queued && !v.rmp.queue.contains d) = [] :=
    List.filter_eq_nil_iff.2 fun d _ => by simp [h d]
  unfold State.enqueueArrivals
  rw [hfilter, List.append_nil]

theorem grant0_eq (h : Starting v) :
    (v.withD0 .queued 0 { queue := [0], slotA := none, slotB := none } v.lnk).grant 0 = v.ramping0 := by
  have hdom := withD0_dom_zero (v := v) .queued 0 { queue := [0], slotA := none, slotB := none } v.lnk
  have hset := setState_withD0 (v := v.withD0 .queued 0 { queue := [0], slotA := none, slotB := none } v.lnk)
    (by rw [hdom]; rfl) .ramping DomainEntry.powerOnD0.rampTimeout
  rw [setState_lnk_zero, setState_rmp, hdom, withD0_withD0] at hset
  unfold State.grant
  rw [hdom]
  dsimp only
  rw [h.entry, if_pos rfl, hset]
  rfl

theorem ramp0_done (h : Starting v) : (v.ramping0.rampDone 0).demandChanged.enqueueArrivals = v.on0 := by
  have hdom := withD0_dom_zero (v := v) .ramping DomainEntry.powerOnD0.rampTimeout { queue := [], slotA := some 0, slotB := none } v.lnk
  have hset := setState_withD0 (v := v.ramping0) (by rw [State.ramping0, hdom]; rfl) .on 0
  rw [setState_lnk_zero, setState_rmp, State.ramping0, hdom, withD0_withD0] at hset
  have hdone : v.ramping0.rampDone 0 = v.on0 := by
    unfold State.rampDone
    rw [if_pos (by simpa using (starting_ramping0 h).demand_zero), State.ramping0, hset]
    rfl
  have hdom' := withD0_dom (v := v) .on 0 { queue := [], slotA := none, slotB := none } { v.lnk with receiver := .hunting, gap := 0 }
  have hsettle := (starting_on0 h).settle_stays (.inr (congrArg Domain.state (hdom' 0)))
  rw [hdone, State.demandChanged, hsettle, (starting_on0 h).refreshSub]
  refine arrivals_none fun d => ?_
  rw [State.on0, hdom']
  split
  · exact fun hq => DomState.noConfusion hq
  · next hd =>
    rw [h.off d hd]
    decide

/-- The state that the event leaves before it ends. -/
def State.started (v : State) : State := if (v.dom 0).pgGood then v.on0 else v.ramping0

theorem starting_started (h : Starting v) : Starting v.started := by
  unfold State.started
  split
  · exact starting_on0 h
  · exact starting_ramping0 h

theorem grants_started (h : Starting v) (h0 : (v.dom 0).state = .off) (hr : v.rmp = { queue := [], slotA := none, slotB := none }) :
    State.grants 12 v.settle.enqueueArrivals = v.started := by
  have hqueue : v.started.rmp.queue = [] := by
    unfold State.started
    split <;> rfl
  have hnext : (v.withD0 .queued 0 { queue := [0], slotA := none, slotB := none } v.lnk).nextGrant = some 0 := by
    have horder : (v.withD0 .queued 0 { queue := [0], slotA := none, slotB := none } v.lnk).queueOrder = [0] := rfl
    have heligible : (v.withD0 .queued 0 { queue := [0], slotA := none, slotB := none } v.lnk).eligible 0 = true := by
      unfold State.eligible
      rw [(starting_withD0 h ..).parent]
    unfold State.nextGrant
    rw [horder, List.find?_cons_of_pos heligible]
  have hgood : (v.ramping0.dom 0).pgGood = (v.dom 0).pgGood := by
    rw [State.ramping0, withD0_dom_zero]
    rfl
  have hramp : (v.withD0 .queued 0 { queue := [0], slotA := none, slotB := none } v.lnk).grantAndRamp 0 = v.started := by
    unfold State.grantAndRamp State.started
    rw [grant0_eq h]
    dsimp only
    rw [hgood, ramp0_done h]
  rw [queued0_eq h h0 hr]
  have hstep : State.grants 12 (v.withD0 .queued 0 { queue := [0], slotA := none, slotB := none } v.lnk) =
      State.grants 11 ((v.withD0 .queued 0 { queue := [0], slotA := none, slotB := none } v.lnk).grantAndRamp 0) := by
    rw [State.grants]
    refine (if_pos rfl).trans ?_
    rw [hnext]
  rw [hstep, hramp, grants_of_empty hqueue]

theorem refreshAttn_level (hlevel : v.evq.attnMode = .level) (hp : v.evq.pulse = none) :
    v.refreshAttn = { v with evq.attn := v.attention } := by
  have hevq : { v.evq with pulse := none } = v.evq := by rw [← hp]
  have hstart : (if v.evq.attnMode = .pulse && v.work.condFirst = some true then v.startPulse else v) = v := if_neg (by simp [hlevel])
  have hstop : (if (v.dom 0).state != .on || v.evq.attnMode = .level then { v with evq.pulse := none } else v) = v := by
    rw [if_pos (by simp [hlevel]), hevq]
  unfold State.refreshAttn
  rw [hstart]
  dsimp only
  rw [hstop, hp, Option.isNone_none, Bool.and_true]

/-- The end of an event of a state that has nothing to record and no session. -/
theorem ending_eq (h : Starting v) (hw : v.work = Work.none) (hlevel : v.evq.attnMode = .level) (hp : v.evq.pulse = none) :
    v.recordBlocked.refreshSessions.refreshOwners.refreshSub.refreshAttn.endEvent =
      { v.refreshOwners with evq.attn := v.attention } := by
  have hblocked : v.recordBlocked = v := by
    have hwork : { v.work with blocked := [] } = v.work := by rw [hw]; rfl
    have hfold : ∀ (l : List DomId) (u : State), l.foldl (State.recordMark []) u = u := fun l => by
      induction l with
      | nil => exact fun _ => rfl
      | cons d l ih => exact fun u => ih u
    rw [recordBlocked_eq, hwork, hw]
    exact (hfold domIds _).trans (by rw [← hw])
  have hsessions : v.refreshSessions = v := by
    have hmap : v.ssc.sessions.map (fun x => { x with state := v.stateOf x }) = v.ssc.sessions := by rw [h.sessions]; rfl
    unfold State.refreshSessions
    rw [hmap]
  obtain ⟨m, hm⟩ := refreshOwners_same v
  have hdom := refreshOwners_dom v
  have hhold := refreshOwners_hold v
  rw [hblocked, hsessions]
  rw [hm] at hdom hhold ⊢
  have hstarting : Starting { v with dmc := m } := h.congr rfl rfl rfl ((congrArg Prod.fst hhold).trans h.unheld) (fun d => by rw [hdom]) fun d _ => by rw [hdom]
  have hattention : ({ v with dmc := m } : State).attention = v.attention := attention_congr (by rw [hdom]) rfl rfl
  have hattn : ({ v with dmc := m } : State).refreshAttn = { v with dmc := m, evq.attn := v.attention } := by
    rw [refreshAttn_level (v := { v with dmc := m }) hlevel hp, hattention]
  rw [hstarting.refreshSub, hattn]
  unfold State.endEvent
  rw [← hw]

end

end Sys2Proof.Machine
end

section
/-! Power-on reset and the leaving of reset (R14): obligation O29. -/

namespace Sys2Proof.Machine

section
variable {s v : State}

/-- The event that leaves reset, from the state whose D0 alone starts. -/
theorem finish_started (h : Starting v) (h0 : (v.dom 0).state = .off) (hr : v.rmp = { queue := [], slotA := none, slotB := none })
    (hw : v.work = Work.none) (hlevel : v.evq.attnMode = .level) (hp : v.evq.pulse = none) :
    v.finish = { v.started.refreshOwners with evq.attn := v.started.attention } := by
  have hresume : v.work.resume = none := by rw [hw]; rfl
  have hsame : v.started.work = v.work ∧ v.started.evq = v.evq := by
    unfold State.started
    split <;> exact ⟨rfl, rfl⟩
  unfold State.finish
  rw [resumeNow_none hresume, grants_started h h0 hr]
  exact ending_eq (starting_started h) (hsame.1.trans hw) (by rw [hsame.2]; exact hlevel) (by rw [hsame.2]; exact hp)

/-! ### Every block at its power-on values -/

theorem powerOn_line (s : State) (l : LineId) : s.powerOn.line l = Line.powerOn (s.line l).pin := getElem_mapVec ..

theorem powerOn_cls (s : State) (c : ClassId) : s.powerOn.cls c = ClassEntry.powerOn := Vector.getElem_replicate ..

theorem powerOn_lapse (h : s.held = true) (n : Nat) : (s.lapse n).powerOn = s.powerOn := by
  unfold State.lapse
  rw [if_pos h]
  split <;> rfl

theorem starting_powerOn (s : State) : Starting s.powerOn where
  mode := by
    have hmdc : s.powerOn.mdc = Mdc.powerOn s.mdc.ign.pin s.mdc.service.pin := rfl
    rw [hmdc]
    cases s.mdc.ign.pin
    · exact .inr ⟨rfl, rfl, rfl⟩
    · exact .inl ⟨rfl, rfl⟩
  always := rfl
  sub := rfl
  period := rfl
  sessions := rfl
  unheld := rfl
  entry d := by rw [powerOn_dom]; rfl
  off d _ := by rw [powerOn_dom]; rfl

theorem exec_leaveReset (h : s.held = true) : exec .leaveReset s = .next s.powerOn.finish := by
  have hleft : s.leftReset = some (max (s.mdc.ign.interval.getD 0) (s.mdc.service.interval.getD 0)) := if_pos h
  have hexec : exec .leaveReset s = execLeaveReset s := rfl
  rw [hexec, execLeaveReset, hleft]
  dsimp only
  rw [powerOn_lapse h]

theorem finish_powerOn (s : State) :
    s.powerOn.finish = { s.powerOn.started.refreshOwners with evq.attn := s.powerOn.started.attention } :=
  finish_started (starting_powerOn s) (by rw [powerOn_dom]; rfl) rfl rfl rfl rfl

theorem started_dom_zero (v : State) : (v.started.dom 0).state = if (v.dom 0).pgGood then .on else .ramping := by
  unfold State.started
  split
  · exact congrArg Domain.state (withD0_dom_zero ..)
  · exact congrArg Domain.state (withD0_dom_zero ..)

/-- What the event leaves besides D0, the Ramp Arbiter and the link. -/
theorem started_rest (v : State) : v.started.held = v.held ∧ v.started.mdc = v.mdc ∧ v.started.evq = v.evq ∧ v.started.wlu = v.wlu ∧
    v.started.adm = v.adm ∧ v.started.chm = v.chm ∧ v.started.btm = v.btm ∧ v.started.wsc = v.wsc ∧ v.started.ssc = v.ssc := by
  unfold State.started
  split <;> exact ⟨rfl, rfl, rfl, rfl, rfl, rfl, rfl, rfl, rfl⟩

/-! ### Every input low -/

theorem reset_dom : ∀ d : DomId, State.reset.dom d = if d = 0 then Domain.d0AtReset else Domain.powerOn DomainEntry.powerOn false := by
  decide

/-- The blocks but the domains and the arbiter stand as in the state after reset. -/
theorem powerOn_low (hign : s.mdc.ign.pin = false) (hservice : s.mdc.service.pin = false) (hlow : ∀ l, (s.line l).pin = false) :
    s.powerOn = { State.reset with pending := s.pending, freeIdx := s.freeIdx, dmc := s.powerOn.dmc, rmp := s.powerOn.rmp } := by
  have hlines : mapVec (fun x => Line.powerOn x.pin) s.wlu.lines = Vector.replicate 16 (Line.powerOn false) :=
    Vector.ext fun i hi => by
      rw [getElem_mapVec, Vector.getElem_replicate]
      exact congrArg Line.powerOn (hlow ⟨i, hi⟩)
  unfold State.powerOn
  rw [hign, hservice, hlines]
  rfl

theorem started_low (h : (s.dom 0).pgPin = false) : s.powerOn.started = s.powerOn.ramping0 := by
  have hgood : (s.powerOn.dom 0).pgGood = (s.dom 0).pgPin := by rw [powerOn_dom]; rfl
  exact if_neg (by rw [hgood, h]; decide)

/-- The domains as the event leaves them. -/
theorem ramping0_domains (hign : s.mdc.ign.pin = false) (hpg : ∀ d, (s.dom d).pgPin = false) :
    s.powerOn.ramping0.refreshOwners.dmc = State.reset.dmc := by
  have hstarting : Starting s.powerOn.ramping0 := starting_ramping0 (starting_powerOn s)
  have hheld := refreshOwners_hold s.powerOn.ramping0
  have hdrive : s.powerOn.ramping0.mdc.driveHold = false := hign
  have hdom : ∀ d, s.powerOn.ramping0.refreshOwners.dom d = State.reset.dom d := fun d => by
    rw [refreshOwners_dom, reset_dom]
    split
    · next hd =>
      rw [hd, hstarting.ownerOf_zero, hdrive, State.ramping0, withD0_dom_zero, powerOn_dom, hpg]
      rfl
    · next hd =>
      rw [hstarting.ownerOf_other hd, State.ramping0, withD0_dom, if_neg hd, powerOn_dom, if_neg hd, hpg]
      rfl
  generalize s.powerOn.ramping0.refreshOwners = t at *
  have hdomains : t.dmc.domains = State.reset.dmc.domains := Vector.ext fun i hi => hdom ⟨i, hi⟩
  have hunheld : t.dmc.d0Held = State.reset.dmc.d0Held := (congrArg Prod.fst hheld).trans hstarting.unheld
  cases ht : t.dmc
  rw [ht] at hdomains hunheld
  exact congrArg₂ Dmc.mk hdomains hunheld

theorem finish_low (hign : s.mdc.ign.pin = false) (hservice : s.mdc.service.pin = false) (hpg : ∀ d, (s.dom d).pgPin = false)
    (hlow : ∀ l, (s.line l).pin = false) : s.powerOn.finish = { State.reset with pending := s.pending, freeIdx := s.freeIdx } := by
  have hattention : s.powerOn.ramping0.attention = false := by
    have hstate : (s.powerOn.ramping0.dom 0).state = .ramping := congrArg Domain.state (withD0_dom_zero ..)
    unfold State.attention
    rw [hstate]
    rfl
  have hdomains := ramping0_domains hign hpg
  have hpower := powerOn_low hign hservice hlow
  obtain ⟨m, hm⟩ := refreshOwners_same s.powerOn.ramping0
  rw [hm] at hdomains
  have hmdmc : m = State.reset.dmc := hdomains
  rw [finish_powerOn, started_low (hpg 0), hattention, hm, hmdmc]
  unfold State.ramping0 State.withD0 State.updDom
  rw [hpower]
  rfl

end

/-- Settles O29: the event that leaves reset starts D0 and nothing else. -/
theorem powerOnSetsEveryBlock : Obligations.PowerOnSetsEveryBlock := by
  intro s
  refine ⟨⟨s.holdInReset, rfl, rfl, fun d => ?_, rfl, rfl, rfl, rfl, rfl, rfl, rfl, rfl, rfl⟩, fun hheld => ?leave, fun hheld hign hservice hpg hlow => ?low⟩
  · have hdom : s.holdInReset.dom d = s.powerOn.dom d := rfl
    rw [hdom, powerOn_dom]
    exact ⟨rfl, rfl⟩
  case leave =>
    refine ⟨_, exec_leaveReset hheld, ?_⟩
    rw [finish_powerOn]
    obtain ⟨hheld', hmdc, hevq, hwlu, hadm, hchm, hbtm, hwsc, hssc⟩ := started_rest s.powerOn
    have hstarting := starting_started (starting_powerOn s)
    have hzero := started_dom_zero s.powerOn
    have hgood : (s.powerOn.dom 0).pgGood = (s.dom 0).pgPin := by rw [powerOn_dom]; rfl
    have hdom := refreshOwners_dom s.powerOn.started
    rw [hgood] at hzero
    generalize s.powerOn.started = u at *
    obtain ⟨m, hm⟩ := refreshOwners_same u
    rw [hm] at hdom ⊢
    have hdom' : ∀ d, ({ u with dmc := m, evq.attn := u.attention } : State).dom d = { u.dom d with owner := u.ownerOf d } := hdom
    refine ⟨hheld', hmdc, congrArg Evq.events hevq, ?_, fun d hd => ?_, fun d => ?_, fun l => ?_, fun c => ?_, hchm, hbtm, hwsc, hssc⟩
    · rw [hdom']
      exact hzero
    · rw [hdom']
      exact hstarting.off d hd
    · rw [hdom']
      exact hstarting.entry d
    · exact (congrArg (fun w : Wlu => w.lines[l.val]) hwlu).trans (powerOn_line s l)
    · exact (congrArg (fun a : Adm => a.classes[c.val]) hadm).trans (powerOn_cls s c)
  case low =>
    rw [exec_leaveReset hheld, finish_low hign hservice hpg hlow]

end Sys2Proof.Machine
end

section
/-! A sample's work in its stages (R128): the readings and the charges, then the closings for cap and reserve, then the voltage. -/

namespace Sys2Proof.Machine

/-! ### The stages -/

/-- A sample's readings kept, the excess attributed and the reserve decremented (R127, R130, R132 to R135). -/
def State.measured (s : State) (i v p : Nat) : State :=
  let t := { s with chm.current := i, chm.voltage := v, chm.elapsed := 0, chm.earlyDue := false }
  let t := if s.mdc.mode = .drive then t else t.attribute i p
  if s.mdc.mode == .parked || s.mdc.mode == .cutoff then t.decrement i p else t

/-- The cap check, outside DRIVE (R136). -/
def State.capChecked (s : State) (mode : Mode) : State := if mode = .drive then s else s.capCheck

/-- The exhaustion where the decrement has taken the reserve from above 0 to 0 (R131). -/
def State.drained (s : State) (mode : Mode) (before : Nat) : State :=
  if (mode == .parked || mode == .cutoff) && before != 0 && s.chm.reserve = 0 then s.exhaust 0 else s

theorem sampleWork_eq (s : State) (i v : Int) (p : Nat) : s.sampleWork i v p =
    (((s.measured (saturate 65535 i) (saturate 20000 v) p).capChecked s.mdc.mode).drained s.mdc.mode s.chm.reserve).reading
      (saturate 20000 v) := rfl

/-- A session as the attribution leaves it (R134, R135). -/
def State.chargedSession (s : State) (cur p : Nat) (x : Session) : Session :=
  if s.excess cur = 0 || s.weight = 0 then x else x.charge (s.sessionSum (s.excess cur) x.id) p

section
variable {s t : State} {x y : Session} {cur v p : Nat}

theorem charge_total (x : Session) (sum p : Nat) : (x.charge sum p).drawn * 1000 + (x.charge sum p).drawnRem =
    x.drawn * 1000 + x.drawnRem + sum * p := by
  unfold Session.charge
  split
  · next h =>
    rw [h, Nat.zero_mul, Nat.add_zero]
  · dsimp only
    have hdiv := Nat.div_add_mod (x.drawnRem + sum * p) 1000
    omega

theorem chargedSession_total (s : State) (cur p : Nat) (x : Session) :
    (s.chargedSession cur p x).drawn * 1000 + (s.chargedSession cur p x).drawnRem = s.chargedTo cur p x := by
  unfold State.chargedSession State.chargedTo
  have hexcess : s.excess cur = cur - s.chm.baseline := rfl
  dsimp only
  rw [hexcess]
  split
  · next h =>
    rw [if_pos (by simpa using h), Nat.add_zero]
  · next h =>
    rw [if_neg (by simpa using h)]
    exact charge_total ..

theorem charge_rem (h : x.drawnRem ≤ 999) (sum p : Nat) : (x.charge sum p).drawnRem ≤ 999 := by
  unfold Session.charge
  split
  · exact h
  · exact Nat.le_of_lt_succ (Nat.mod_lt _ (by decide))

theorem chargedSession_drawn (h : x.drawnRem ≤ 999) (s : State) (cur p : Nat) :
    (s.chargedSession cur p x).drawn = s.chargedTo cur p x / 1000 := by
  have hrem : (s.chargedSession cur p x).drawnRem ≤ 999 := by
    unfold State.chargedSession
    split
    · exact h
    · exact charge_rem h ..
  have htotal := chargedSession_total s cur p x
  omega

/-- A charge changes nothing of a session but the charge drawn. -/
theorem chargedSession_same (s : State) (cur p : Nat) (x : Session) : (s.chargedSession cur p x).id = x.id ∧
    (s.chargedSession cur p x).cls = x.cls ∧ (s.chargedSession cur p x).active = x.active := by
  unfold State.chargedSession Session.charge
  (repeat' split) <;> exact ⟨rfl, rfl, rfl⟩

theorem attribute_sessions (s : State) (cur p : Nat) :
    (s.attribute cur p).ssc.sessions = s.ssc.sessions.map (s.chargedSession cur p) := by
  have hcharged : ∀ x, s.chargedSession cur p x =
      if s.excess cur = 0 || s.weight = 0 then x else x.charge (s.sessionSum (s.excess cur) x.id) p := fun _ => rfl
  unfold State.attribute
  dsimp only
  split
  · next hnone =>
    rw [List.map_congr_left fun x _ => (hcharged x).trans (if_pos hnone), List.map_id']
  · next hsome => exact (List.map_congr_left fun x _ => (hcharged x).trans (if_neg hsome)).symm

theorem measured_sessions (h : s.mdc.mode ≠ .drive) (cur v p : Nat) :
    (s.measured cur v p).ssc.sessions = s.ssc.sessions.map (s.chargedSession cur p) := by
  have hattributed := attribute_sessions { s with chm.current := cur, chm.voltage := v, chm.elapsed := 0, chm.earlyDue := false } cur p
  unfold State.measured
  dsimp only
  rw [if_neg h]
  split
  · exact hattributed
  · exact hattributed

/-- What the measuring leaves. -/
theorem measured_rest (s : State) (cur v p : Nat) : (s.measured cur v p).mdc = s.mdc ∧ (s.measured cur v p).btm = s.btm ∧
    (s.measured cur v p).adm = s.adm ∧ (s.measured cur v p).wlu = s.wlu ∧ (s.measured cur v p).dmc = s.dmc ∧
    (s.measured cur v p).lnk = s.lnk ∧ (s.measured cur v p).evq = s.evq ∧ (s.measured cur v p).wsc = s.wsc ∧
    (s.measured cur v p).work = s.work := by
  unfold State.measured State.attribute State.decrement
  dsimp only
  (repeat' split) <;> exact ⟨rfl, rfl, rfl, rfl, rfl, rfl, rfl, rfl, rfl⟩

end

end Sys2Proof.Machine
end

section
/-! The charge drawn by each session through an event's closings and its end, and the room that the records of closings take. -/

namespace Sys2Proof.Machine

/-- Of each session its id, its class and the charge it has drawn. -/
def State.dues (s : State) : List (Nat × ClassId × Nat × Nat) := s.ssc.sessions.map (fun x => (x.id, x.cls, x.drawn, x.drawnRem))

section
variable {s t u : State} {y : Session}

theorem dues_of_ssc (h : t.ssc = s.ssc) : t.dues = s.dues := by
  unfold State.dues
  rw [h]

theorem updSession_dues {f : Session → Session} (hf : ∀ x, ((f x).id, (f x).cls, (f x).drawn, (f x).drawnRem) = (x.id, x.cls, x.drawn, x.drawnRem))
    (s : State) (id : Nat) : (s.updSession id f).dues = s.dues := by
  unfold State.dues State.updSession
  rw [List.map_map]
  refine List.map_congr_left fun x _ => ?_
  simp only [Function.comp]
  split
  · exact hf x
  · rfl

theorem closeSession_dues (s : State) (id : Nat) (why : CloseReason) : (s.closeSession id why).dues.Sublist s.dues := by
  unfold State.dues
  rw [closeSession_sessions]
  exact List.filter_sublist.map _

theorem closeWhere_dues (s : State) (q : Session → Bool) (why : CloseReason) : (s.closeWhere q why).dues.Sublist s.dues := by
  unfold State.closeWhere State.dues
  rw [closeAll_sessions]
  exact List.filter_sublist.map _

theorem resume_dues (s : State) (r : Resume) : (s.resume r).dues.Sublist s.dues := by
  unfold State.resume
  split
  · exact List.Sublist.refl _
  · next x _ =>
    split
    · exact List.Sublist.refl _
    · dsimp only
      split
      · rw [dues_of_ssc ((record_ssc ..).trans (demandChanged_ssc _)), updSession_dues ?_ s x.id]
        exact fun _ => rfl
      · refine (closeSession_dues ..).trans ?_
        rw [updSession_dues ?_ s x.id]
        exact fun _ => rfl

theorem resumeNow_dues (s : State) : s.resumeNow.dues.Sublist s.dues := by
  unfold State.resumeNow
  split
  · exact resume_dues { s with work.resume := none } _
  · exact List.Sublist.refl _

theorem Domestic.duesWithin (l : List (Nat × ClassId × Nat × Nat)) : Domestic (fun t => t.dues.Sublist l) where
  setState := setState_keeps (fun _ _ _ h => h) (fun _ _ h => h) (fun _ h => h) (fun _ h => h)
  dom _ _ _ _ h := h
  rmp _ _ h := h
  d0Held _ _ h := h
  work _ _ h := h
  record s k a b v _ h := by
    rw [dues_of_ssc (record_ssc s k a b v)]
    exact h
  sub _ _ h := h
  chm _ _ h := h

theorem refreshSessions_dues (s : State) : s.refreshSessions.dues = s.dues := by
  unfold State.dues State.refreshSessions
  rw [List.map_map]
  rfl

/-- An event's end charges nothing, and brings no session into the table. -/
theorem finish_dues (s : State) : s.finish.dues.Sublist s.dues :=
  (Domestic.duesWithin s.dues).finish (resumeNow_dues s)
    (fun t ht => by rw [refreshSessions_dues]; exact ht)
    (fun t ht => by rw [dues_of_ssc (refreshAttn_ssc t).1]; exact ht)

theorem exists_of_dues (h : t.dues.Sublist s.dues) (hy : y ∈ t.ssc.sessions) :
    ∃ x ∈ s.ssc.sessions, x.id = y.id ∧ x.cls = y.cls ∧ x.drawn = y.drawn ∧ x.drawnRem = y.drawnRem := by
  obtain ⟨x, hx, heq⟩ := List.mem_map.1 (h.subset (List.mem_map.2 ⟨y, hy, rfl⟩))
  simp only [Prod.mk.injEq] at heq
  exact ⟨x, hx, heq⟩

/-! ### The room that the records take -/

/-- The records of z are these, and there is room for one of each session's closing and n more. -/
def Fitted (es : List Event) (n : Nat) (z : State) : Prop := Holds es z ∧ es.length + z.ssc.sessions.length + n ≤ 24

theorem Fitted.start {n : Nat} (hs : SessionsSound s) (hroom : s.roomFor (6 + n)) : Fitted s.evq.events n s := by
  obtain ⟨hpolicy, hlen⟩ := hroom
  have := hs.count
  exact ⟨⟨rfl, hpolicy⟩, by omega⟩

theorem Fitted.record {es : List Event} {n : Nat} (h : Fitted es (n + 1) s) (k : RecordKind) (a b : Nat) (v : Option Nat) :
    Fitted (es ++ [s.recordOf k a b v]) n (s.record k a b v) := by
  obtain ⟨hs, hroom⟩ := h
  refine ⟨hs.record (by omega) k a b v, ?_⟩
  rw [record_ssc, List.length_append, List.length_singleton]
  omega

theorem Fitted.same {es : List Event} {n : Nat} (h : Fitted es n s) (he : t.evq = s.evq) (hl : t.ssc.sessions.length = s.ssc.sessions.length) :
    Fitted es n t :=
  ⟨h.1.same (by rw [he]) (by rw [he]), by rw [hl]; exact h.2⟩

theorem closeWhere_length (s : State) (q : Session → Bool) (why : CloseReason) :
    (s.closeWhere q why).ssc.sessions.length + (s.ssc.sessions.filter q).length ≤ s.ssc.sessions.length := by
  have hleft : (s.closeWhere q why).ssc.sessions.length ≤ (s.ssc.sessions.filter (fun y => !(q y))).length := by
    unfold State.closeWhere
    rw [closeAll_sessions, ← List.countP_eq_length_filter, ← List.countP_eq_length_filter]
    refine List.countP_mono_left fun y hy hout => ?_
    by_contra hq
    have hin : y.id ∈ (s.ssc.sessions.filter q).map Session.id := List.mem_map.2 ⟨y, List.mem_filter.2 ⟨hy, by simpa using hq⟩, rfl⟩
    simp only [Bool.not_eq_true', List.contains_eq_mem, decide_eq_false_iff_not] at hout
    exact hout hin
  have hsplit := List.length_eq_length_filter_add (l := s.ssc.sessions) q
  omega

theorem Fitted.closeWhere {es : List Event} {n : Nat} (h : Fitted es n s) (hs : SessionsSound s) (q : Session → Bool) (why : CloseReason) :
    Fitted (es ++ (s.ssc.sessions.filter q).map (s.closing why.code)) n (s.closeWhere q why) := by
  obtain ⟨hholds, hroom⟩ := h
  have hlen := closeWhere_length s q why
  refine ⟨hholds.closeWhere hs q why (by omega), ?_⟩
  rw [List.length_append, List.length_map]
  omega

/-- The sessions that the closings leave are those that did not have to close. -/
theorem mem_closeWhere_of_not {q : Session → Bool} (hs : SessionsSound s) (hy : y ∈ s.ssc.sessions) (hq : q y = false) (why : CloseReason) :
    y ∈ (s.closeWhere q why).ssc.sessions := by
  unfold State.closeWhere
  rw [closeAll_sessions, List.mem_filter]
  refine ⟨hy, ?_⟩
  simp only [Bool.not_eq_true', List.contains_eq_mem, decide_eq_false_iff_not]
  intro hin
  obtain ⟨x, hx, hid⟩ := List.mem_map.1 hin
  obtain ⟨hmem, hqx⟩ := List.mem_filter.1 hx
  rw [eq_of_id hs.ids hmem hy hid, hq] at hqx
  cases hqx

end

end Sys2Proof.Machine
end

section
/-! A sample has begun the next interval: no whole millisecond of it has passed, so that no change of period in the same event ends it early
(R126). -/

namespace Sys2Proof.Machine

/-! ### Transitions leave CHM -/

section
variable (s : State) (d : DomId)

theorem setState_chm (n : DomState) (t : Nat) : (s.setState d n t).chm = s.chm :=
  setState_keeps (P := fun u => u.chm = s.chm) (fun _ _ _ h => h) (fun _ _ h => h) (fun _ h => h) (fun _ h => h) s d n t rfl

theorem enterOff_chm : (s.enterOff d).chm = s.chm := setState_chm s d .off 0

theorem enterQueued_chm : (s.enterQueued d).chm = s.chm := by
  have hmark : ∀ u : State, (u.noteBlocked d).chm = u.chm := fun u => by
    unfold State.noteBlocked
    split <;> rfl
  unfold State.enterQueued
  dsimp only
  split
  · exact (hmark _).trans (setState_chm s d .queued 0)
  · exact setState_chm s d .queued 0

theorem powerOff_chm (c : HeldCause) : (s.powerOff d c).chm = s.chm := by
  unfold State.powerOff
  split
  · rfl
  · exact enterOff_chm s d

theorem forceOff_chm : (s.forceOff d).chm = s.chm := by
  unfold State.forceOff
  split
  · rfl
  · rfl
  · exact enterOff_chm s d
  · exact enterOff_chm s d
  · exact enterOff_chm s d
  · exact powerOff_chm s d _
  · exact powerOff_chm s d _

theorem forceCutoff_chm : s.forceCutoff.chm = s.chm :=
  foldl_keeps State.chm _ (fun t e => by
    split
    · rfl
    · exact forceOff_chm t e) _ s

theorem transition_chm : (s.transition d).chm = s.chm := by
  unfold State.transition
  split
  · exact forceCutoff_chm s
  · split
    · split
      · exact enterQueued_chm s d
      · rfl
    · split
      · exact enterOff_chm s d
      · rfl
    · split
      · exact enterOff_chm s d
      · rfl
    · rfl
    · rfl
    · split
      · rfl
      · split
        · exact powerOff_chm s d _
        · exact setState_chm s d _ _
    · split
      · exact setState_chm s d _ _
      · rfl

theorem settle_chm : s.settle.chm = s.chm :=
  foldl_keeps State.chm _ (fun t e => by
    unfold State.transitionOf
    split
    · split
      · rfl
      · exact (transition_chm { t with dmc.d0Held := none } e).trans rfl
    · exact transition_chm t e) _ s

theorem rampDone_chm : (s.rampDone d).chm = s.chm := by
  unfold State.rampDone
  split
  · exact setState_chm s d _ _
  · split
    · exact enterOff_chm s d
    · exact setState_chm s d _ _

theorem grant_chm : (s.grant d).chm = s.chm := by
  unfold State.grant
  dsimp only
  split
  · exact setState_chm s d .ramping _
  · exact setState_chm s d .ramping _

theorem record_chm (k : RecordKind) (a b : Nat) (v : Option Nat) : (s.record k a b v).chm = s.chm := by
  obtain ⟨q, w, heq⟩ := record_eq s k a b v
  rw [heq]

theorem noteClosed_chm (id : Nat) : (s.noteClosed id).chm = s.chm := by
  unfold State.noteClosed
  dsimp only
  (repeat' split) <;> rfl

theorem idleLines_chm (ls : List LineId) : (s.idleLines ls).chm = s.chm := foldl_keeps State.chm State.idleLine (fun _ _ => rfl) ls s

end

/-! ### The interval that has just begun -/

/-- No whole millisecond of the interval in progress has passed, and no change of period has ended it. -/
def Begun (s : State) : Prop := s.chm.elapsed = 0 ∧ s.chm.earlyDue = false

theorem Begun.congr {s t : State} (h : Begun s) (ht : t.chm = s.chm) : Begun t := by
  unfold Begun
  rw [ht]
  exact h

section
variable {s : State} (h : Begun s)
include h

theorem Begun.refreshSub : Begun s.refreshSub := by
  obtain ⟨helapsed, hearly⟩ := h
  unfold State.refreshSub State.takePeriod
  dsimp only
  split
  · exact ⟨helapsed, hearly⟩
  · rw [if_pos (by simp [helapsed, hearly])]
    exact ⟨helapsed, hearly⟩

theorem Begun.demandChanged : Begun s.demandChanged := (h.congr (settle_chm s)).refreshSub

theorem Begun.record (k : RecordKind) (a b : Nat) (v : Option Nat) : Begun (s.record k a b v) := h.congr (record_chm s k a b v)

theorem Begun.closeSession (id : Nat) (why : CloseReason) : Begun (s.closeSession id why) := by
  unfold State.closeSession
  split
  · exact h
  · next x _ =>
    dsimp only
    refine Begun.congr (Begun.record (Begun.congr ?_ (idleLines_chm ..)) _ _ _ _) (noteClosed_chm ..)
    have hremoved : Begun { s with ssc.sessions := s.ssc.sessions.filter (fun y => y.id != id) } := h
    split
    · exact hremoved.demandChanged
    · exact hremoved.refreshSub

theorem Begun.closeWhere (q : Session → Bool) (why : CloseReason) : Begun (s.closeWhere q why) :=
  foldl_closed _ (fun _ x ht => ht.closeSession x.id why) _ h

theorem Begun.updSession (id : Nat) (f : Session → Session) : Begun (s.updSession id f) := h

theorem Begun.suspend (a b : Nat) : Begun (s.suspend a b) :=
  ((h.updSession a (·.suspendedUnder b)).demandChanged).record .sessionSuspended a b none

theorem Begun.resume (r : Resume) : Begun (s.resume r) := by
  unfold State.resume
  split
  · exact h
  · split
    · exact h
    · dsimp only
      split
      · exact (h.updSession _ _).demandChanged.record _ _ _ _
      · exact Begun.closeSession (s := s.updSession _ _) h _ _

theorem Begun.resumeNow : Begun s.resumeNow := by
  unfold State.resumeNow
  split
  · exact Begun.resume (s := { s with work.resume := none }) h _
  · exact h

theorem Begun.resumeUnless (b : Bool) : Begun (if b then s else s.resumeNow) := by
  cases b
  · exact h.resumeNow
  · exact h

theorem Begun.enqueueArrivals : Begun s.enqueueArrivals := h

theorem Begun.preempted (xs : List Session) : Begun (s.preempted xs) := foldl_closed _ (fun _ x ht => ht.closeSession x.id .preempted) xs h

theorem Begun.exclude (p id : Nat) : Begun (s.exclude p id) := by
  unfold State.exclude
  dsimp only
  split
  · exact h
  · split
    · exact h.preempted _
    · exact (h.suspend _ _).preempted _

theorem Begun.makePlace {t : State} {c : ClassEntry} (ht : s.makePlace c = some t) : Begun t := by
  unfold State.makePlace at ht
  (repeat' split at ht) <;> cases ht
  · exact h
  · exact h.closeSession _ _

theorem Begun.createSession (r : Request) (id : Nat) (p : Profile) (cost : Nat) : Begun (s.createSession r id p cost) := by
  unfold State.createSession
  dsimp only
  have hadded : Begun ({ s with ssc.sessions := s.ssc.sessions ++ [s.newSession r id p cost] } : State).demandChanged :=
    Begun.demandChanged (s := { s with ssc.sessions := s.ssc.sessions ++ [s.newSession r id p cost] }) h
  generalize ({ s with ssc.sessions := s.ssc.sessions ++ [s.newSession r id p cost] } : State).demandChanged = u at hadded
  refine Begun.record ?_ _ _ _ _
  split <;> exact hadded

theorem Begun.decideNew (r : Request) : Begun (s.decideNew r).1 := by
  unfold State.decideNew
  dsimp only
  split
  · exact h.record _ _ _ _
  · next t ht =>
    have hplace := h.makePlace ht
    split
    · exact hplace.record _ _ _ _
    · next p suspendee _ =>
      have hid : Begun t.takeId.1 := hplace
      generalize t.takeId = q at hid
      refine Begun.resumeUnless (Begun.createSession ?_ _ _ _ _) _
      split
      · refine Begun.exclude ?_ _ _
        split
        · exact hid.suspend _ _
        · exact hid
      · split
        · exact hid.suspend _ _
        · exact hid

theorem Begun.lengthen (x : Session) : Begun (s.lengthen x).1 := by
  unfold State.lengthen
  dsimp only
  split
  · exact h.record _ _ _ _
  · split
    · exact Begun.record (s := s.updSession _ _) h _ _ _ _
    · exact h.record _ _ _ _

theorem Begun.lengthenHeld (x : Session) : Begun (s.lengthenHeld x).1 := by
  unfold State.lengthenHeld
  dsimp only
  split
  · exact h.record _ _ _ _
  · exact Begun.record (s := s.updSession _ _) h _ _ _ _

theorem Begun.widen (x : Session) : Begun (s.widen x).1 := by
  unfold State.widen
  dsimp only
  split
  · dsimp only
    exact (h.updSession _ _).demandChanged.record _ _ _ _
  · exact h.lengthen x

theorem Begun.applyUpgrade (x : Session) (p : Profile) (cost : Nat) : Begun (s.applyUpgrade x p cost).1 := by
  unfold State.applyUpgrade
  dsimp only
  refine Begun.record (Begun.congr ?_ (idleLines_chm ..)) _ _ _ _
  split
  · exact (h.updSession _ _).demandChanged
  · exact h

theorem Begun.upgrade (r : Request) (x : Session) : Begun (s.upgrade r x).1 := by
  unfold State.upgrade
  dsimp only
  split
  · exact h.record _ _ _ _
  · split
    · exact h.record _ _ _ _
    · split
      · exact h.record _ _ _ _
      · refine Begun.applyUpgrade ?_ _ _ _
        split
        · exact h.suspend _ _
        · exact h

theorem Begun.join (x : Session) (l k : LineId) : Begun (s.join x l k).1 := by
  unfold State.join
  dsimp only
  split
  · exact h.record _ _ _ _
  · exact Begun.record (s := State.updApproach (s.updSession _ _) _ _) h _ _ _ _

theorem Begun.coalesce (r : Request) (x : Session) : Begun (s.coalesce r x).1 := by
  unfold State.coalesce
  split
  · split
    · exact h.join _ _ _
    · exact h.upgrade r x
  · split
    · exact h.lengthen x
    · exact h.lengthenHeld x
  · split
    · exact h.lengthenHeld x
    · split
      · exact h.lengthen x
      · exact h.widen x

theorem Begun.decideRequest (r : Request) : Begun (s.decideRequest r).1 := by
  unfold State.decideRequest
  dsimp only
  split
  · exact h.record _ _ _ _
  · split
    · exact h.record _ _ _ _
    · split
      · exact h.coalesce r _
      · exact h.decideNew r

theorem Begun.roleTrigger (l : LineId) (e : Edge) : Begun (s.roleTrigger l e) := by
  unfold State.roleTrigger
  dsimp only
  split
  · exact h.decideRequest _
  · exact h.record _ _ _ _
  · unfold State.stage1Trigger
    dsimp only
    split
    · exact h
    · exact h.decideRequest _
  · unfold State.stage2Trigger
    refine foldl_closed _ (fun u x hu => ?_) _ h
    split
    · exact hu.upgrade _ _
    · exact hu

theorem Begun.trigger (l : LineId) (e : Edge) : Begun (s.trigger l e) := by
  unfold State.trigger
  dsimp only
  split
  · exact h
  · have hspent : Begun (if (s.line l).entry.triggerMode.isLevel then s.updLine l (fun x => { x with act := .spent }) else s) := by
      split <;> exact h
    generalize (if (s.line l).entry.triggerMode.isLevel = true then s.updLine l (fun x => { x with act := .spent }) else s) = u at hspent
    split
    · exact hspent
    · exact hspent.roleTrigger l e

theorem Begun.triggerPending : Begun s.triggerPending :=
  foldl_closed State.triggerWaiting (fun u l hu => by
    unfold State.triggerWaiting
    split
    · exact hu.trigger l _
    · exact hu) lineIds h

theorem Begun.setMode (m : Mode) (c : ModeCause) : Begun (s.setMode m c) := Begun.record (s := { s with mdc.mode := m }) h _ _ _ _

theorem Begun.setHolds (a b c : Bool) : Begun (s.setHolds a b c) :=
  Begun.demandChanged (s := { s with mdc.driveHold := a, mdc.handoverHold := b, mdc.alwaysHold := c }) h

theorem Begun.enterCutoff : Begun s.enterCutoff :=
  Begun.refreshSub (Begun.congr (Begun.setHolds (s := (s.setMode .cutoff .tierCutoff).stopHandover) (h.setMode _ _) false false false)
    (forceCutoff_chm _))

theorem Begun.enterParked (c : ModeCause) : Begun (s.enterParked c) :=
  (Begun.setHolds (s := (s.setMode .parked c).stopHandover) (h.setMode _ _) false false true).refreshSub.triggerPending

theorem Begun.takeStep (old new : Tier) : Begun (s.takeStep old new) := by
  unfold State.takeStep
  dsimp only
  split
  · exact h
  · split
    · have hclosed := h.closeWhere (fun x => decide ((s.cls x.cls).minTier.code < new.code)) .tier
      split
      · exact hclosed.enterCutoff
      · exact hclosed
    · split
      · exact h.enterParked _
      · exact h

theorem Begun.withBtm (b : Btm) : Begun { s with btm := b } := h

theorem Begun.reading (v : Nat) : Begun (s.reading v) := by
  unfold State.reading
  dsimp only
  split
  · exact h
  · exact Begun.takeStep (Begun.record (h.withBtm _) _ _ _ _) _ _

theorem Begun.drained (mode : Mode) (before : Nat) : Begun (s.drained mode before) := by
  unfold State.drained
  split
  · exact (h.record _ _ _ _).closeWhere _ _
  · exact h

theorem Begun.capChecked (mode : Mode) : Begun (s.capChecked mode) := by
  unfold State.capChecked
  split
  · exact h
  · exact h.closeWhere _ _

theorem Begun.grants (n : Nat) : Begun (State.grants n s) := by
  induction n generalizing s with
  | zero => exact h
  | succ n ih =>
    unfold State.grants
    split
    · split
      · next d _ =>
        refine ih ?_
        unfold State.grantAndRamp
        dsimp only
        split
        · exact (h.congr ((rampDone_chm _ d).trans (grant_chm s d))).demandChanged.enqueueArrivals
        · exact h.congr (grant_chm s d)
      · exact h
    · exact h

theorem Begun.finish : Begun s.finish := by
  have hramped : Begun (State.grants 12 s.resumeNow.settle.enqueueArrivals) :=
    (h.resumeNow.congr (settle_chm _)).enqueueArrivals.grants 12
  have hblocked : ∀ u : State, Begun u → Begun u.recordBlocked := fun u hu => by
    rw [recordBlocked_eq]
    refine foldl_closed _ (fun t d ht => ?_) _ hu
    unfold State.recordMark
    split
    · exact ht.record _ _ _ _
    · exact ht
  have hclosing := hblocked _ hramped
  unfold State.finish
  generalize (State.grants 12 s.resumeNow.settle.enqueueArrivals).recordBlocked = u at hclosing ⊢
  obtain ⟨m, hm⟩ := refreshOwners_same u.refreshSessions
  have howned : Begun u.refreshSessions.refreshOwners := by
    rw [hm]
    exact hclosing
  obtain ⟨attn, pulse, hattn⟩ := refreshAttn_eq u.refreshSessions.refreshOwners.refreshSub
  rw [hattn]
  exact howned.refreshSub

end

theorem measured_begun (s : State) (cur v p : Nat) : Begun (s.measured cur v p) := by
  unfold State.measured State.attribute State.decrement
  dsimp only
  (repeat' split) <;> exact ⟨rfl, rfl⟩

/-- R126, R128: no change of period that a sample itself brings ends the interval that it has begun. -/
theorem sample_begun (s : State) (i v : Int) (p : Nat) : Begun (s.sampleWork i v p).finish := by
  rw [sampleWork_eq]
  exact ((((measured_begun ..).capChecked _).drained _ _).reading _).finish

end Sys2Proof.Machine
end

section
/-! What a sample does before BTM reads the voltage: the readings, the reserve, the charges and the closings for cap and reserve (R127 to
R136). -/

namespace Sys2Proof.Machine

/-- A sample's work up to BTM's reading. -/
def State.audited (s : State) (cur vol p : Nat) : State :=
  ((s.measured cur vol p).capChecked s.mdc.mode).drained s.mdc.mode s.chm.reserve

theorem sampleWork_audited (s : State) (i v : Int) (p : Nat) : s.sampleWork i v p =
    (s.audited (min 65535 i.toNat) (min 20000 v.toNat) p).reading (min 20000 v.toNat) := rfl

section
variable {s : State} {x y : Session} {cur vol p : Nat}

/-! ### The meter -/

theorem measured_chm (s : State) (cur vol p : Nat) :
    (s.measured cur vol p).chm.current = cur ∧ (s.measured cur vol p).chm.voltage = vol ∧
      (s.measured cur vol p).chm.baseline = s.chm.baseline ∧ (s.measured cur vol p).chm.floorMah = s.chm.floorMah := by
  unfold State.measured State.attribute State.decrement
  dsimp only
  (repeat' split) <;> exact ⟨rfl, rfl, rfl, rfl⟩

theorem measured_metered (h : s.mdc.mode = .parked ∨ s.mdc.mode = .cutoff) (cur vol p : Nat) :
    (s.measured cur vol p).chm.reserve = s.chm.reserve - (s.chm.reserveRem + cur * p) / 1000 ∧
      (s.measured cur vol p).chm.reserveRem = (s.chm.reserveRem + cur * p) % 1000 := by
  have hmetered : (s.mdc.mode == .parked || s.mdc.mode == .cutoff) = true := by simpa using h
  unfold State.measured State.attribute State.decrement
  dsimp only
  rw [if_pos hmetered]
  (repeat' split) <;> exact ⟨rfl, rfl⟩

theorem measured_unmetered (h : s.mdc.mode = .drive ∨ s.mdc.mode = .handover) (cur vol p : Nat) :
    (s.measured cur vol p).chm.reserve = s.chm.reserve ∧ (s.measured cur vol p).chm.reserveRem = s.chm.reserveRem := by
  have hmetered : ¬ (s.mdc.mode == .parked || s.mdc.mode == .cutoff) = true := by rcases h with h | h <;> rw [h] <;> decide
  unfold State.measured State.attribute
  dsimp only
  rw [if_neg hmetered]
  (repeat' split) <;> exact ⟨rfl, rfl⟩

theorem capChecked_deep (s : State) (m : Mode) : (s.capChecked m).deep = s.deep := by
  unfold State.capChecked
  split
  · rfl
  · exact closeWhere_deep ..

theorem exhaust_deep (s : State) (cause : Nat) : (s.exhaust cause).deep = s.deep := (closeWhere_deep ..).trans (record_deep ..)

theorem audited_deep (s : State) (cur vol p : Nat) : (s.audited cur vol p).deep = (s.measured cur vol p).deep := by
  refine Eq.trans ?_ (capChecked_deep _ s.mdc.mode)
  unfold State.audited State.drained
  split
  · exact exhaust_deep ..
  · rfl

/-- In DRIVE nothing is charged and nothing closed. -/
theorem audited_drive (h : s.mdc.mode = .drive) (cur vol p : Nat) : s.audited cur vol p = s.measured cur vol p := by
  unfold State.audited State.capChecked State.drained
  rw [if_pos h, if_neg (by rw [h]; simp)]

theorem measured_table_drive (h : s.mdc.mode = .drive) (cur vol p : Nat) : (s.measured cur vol p).ssc = s.ssc := by
  unfold State.measured State.decrement
  dsimp only
  rw [if_pos h]
  split <;> rfl

/-- The exhaustion comes just where the sample takes the reserve from above 0 to 0 in PARKED or CUTOFF. -/
theorem drains_iff (s : State) (cur vol p : Nat) :
    ((s.mdc.mode == .parked || s.mdc.mode == .cutoff) && s.chm.reserve != 0 &&
      decide (((s.measured cur vol p).capChecked s.mdc.mode).chm.reserve = 0)) = true ↔ s.exhausts cur p := by
  have hreserve := base_reserve (deep_base (capChecked_deep (s.measured cur vol p) s.mdc.mode))
  rw [hreserve]
  unfold State.exhausts
  simp only [Bool.and_eq_true, Bool.or_eq_true, beq_iff_eq, bne_iff_ne, decide_eq_true_eq, and_assoc]
  refine and_congr_right fun hm => and_congr_right fun _ => ?_
  rw [(measured_metered hm cur vol p).1, Nat.sub_eq_zero_iff_le]

theorem audited_exhausts (h : s.exhausts cur p) (vol : Nat) :
    s.audited cur vol p = ((s.measured cur vol p).capChecked s.mdc.mode).exhaust 0 := if_pos ((drains_iff s cur vol p).2 h)

theorem audited_lasts (h : ¬ s.exhausts cur p) (vol : Nat) :
    s.audited cur vol p = (s.measured cur vol p).capChecked s.mdc.mode := if_neg (mt (drains_iff s cur vol p).1 h)

/-! ### The sessions -/

theorem measured_cls (s : State) (cur vol p : Nat) (c : ClassId) : (s.measured cur vol p).cls c = s.cls c :=
  congrArg (fun a : Adm => a.classes[c.val]) (measured_rest s cur vol p).2.2.1

theorem audited_cls (s : State) (cur vol p : Nat) (c : ClassId) : (s.audited cur vol p).cls c = s.cls c :=
  (cls_congr (deep_base (audited_deep s cur vol p)) c).trans (measured_cls s cur vol p c)

/-- Does the cap check close the session, charged by the sample (R136)? -/
def State.overCap (s : State) (x : Session) : Bool := x.active && decide ((s.cls x.cls).chargeCap * 3600 ≤ x.drawn)

theorem capChecked_eq (h : s.mdc.mode ≠ .drive) (cur vol p : Nat) :
    (s.measured cur vol p).capChecked s.mdc.mode = (s.measured cur vol p).closeWhere (s.measured cur vol p).overCap .cap := if_neg h

theorem overCap_iff (hx : x.drawnRem ≤ 999) : (s.measured cur vol p).overCap (s.chargedSession cur p x) = true ↔ s.capped cur p x := by
  obtain ⟨-, hcls, hactive⟩ := chargedSession_same s cur p x
  unfold State.overCap State.capped
  rw [measured_cls, hcls, hactive, chargedSession_drawn hx]
  simp

/-- A session that the audit leaves is a charged one that was not over its cap, and of an essential class where the reserve is exhausted. -/
theorem of_mem_audited (h : s.mdc.mode ≠ .drive) (hy : y ∈ (s.audited cur vol p).ssc.sessions) :
    (∃ x ∈ s.ssc.sessions, s.chargedSession cur p x = y) ∧ (s.measured cur vol p).overCap y = false ∧
      (s.exhausts cur p → (s.cls y.cls).essential = true) := by
  have hchecked : ∀ z ∈ ((s.measured cur vol p).capChecked s.mdc.mode).ssc.sessions,
      (∃ x ∈ s.ssc.sessions, s.chargedSession cur p x = z) ∧ (s.measured cur vol p).overCap z = false := fun z hz => by
    rw [capChecked_eq h] at hz
    obtain ⟨hmem, hcap⟩ := not_of_mem_closeWhere hz
    rw [measured_sessions h] at hmem
    exact ⟨List.mem_map.1 hmem, hcap⟩
  by_cases hex : s.exhausts cur p
  · rw [audited_exhausts hex] at hy
    obtain ⟨hmem, hess⟩ := not_of_mem_closeWhere hy
    rw [record_ssc] at hmem
    obtain ⟨hx, hcap⟩ := hchecked y hmem
    rw [base_cls (record_base ..), base_cls (deep_base (capChecked_deep ..)), measured_cls] at hess
    exact ⟨hx, hcap, fun _ => by simpa using hess⟩
  · rw [audited_lasts hex] at hy
    obtain ⟨hx, hcap⟩ := hchecked y hy
    exact ⟨hx, hcap, fun h => absurd h hex⟩

/-! ### What is kept of any state -/

theorem Closed.measured {P : State → Prop} (k : Closed P) (h : P s) (cur vol p : Nat) : P (s.measured cur vol p) := by
  have hread : P { s with chm.current := cur, chm.voltage := vol, chm.elapsed := 0, chm.earlyDue := false } := k.chm s _ h
  unfold State.measured
  dsimp only
  generalize ({ s with chm.current := cur, chm.voltage := vol, chm.elapsed := 0, chm.earlyDue := false } : State) = u at hread
  split <;> split
  · exact k.decrement _ _ hread
  · exact k.decrement _ _ (k.attributed _ _ hread)
  · exact hread
  · exact k.attributed _ _ hread

theorem Closed.capChecked {P : State → Prop} (k : Closed P) (h : P s) (m : Mode) : P (s.capChecked m) := by
  unfold State.capChecked
  split
  · exact h
  · exact k.capCheck h

theorem Closed.drained {P : State → Prop} (k : Closed P) (h : P s) (m : Mode) (before : Nat) : P (s.drained m before) := by
  unfold State.drained
  split
  · exact k.exhaust 0 h
  · exact h

theorem Closed.audited {P : State → Prop} (k : Closed P) (h : P s) (cur vol p : Nat) : P (s.audited cur vol p) :=
  k.drained (k.capChecked (k.measured h cur vol p) _) _ _

/-! ### The records -/

/-- The record of a charged session's closing. -/
theorem closing_charged (hx : x.drawnRem ≤ 999) (reason : Nat) : (s.measured cur vol p).closing reason (s.chargedSession cur p x) =
    s.closing reason { x with drawn := s.chargedTo cur p x / 1000 } := by
  obtain ⟨hid, -, -⟩ := chargedSession_same s cur p x
  have hseconds : (s.measured cur vol p).wsc.seconds = s.wsc.seconds := congrArg Wsc.seconds (measured_rest s cur vol p).2.2.2.2.2.2.2.1
  unfold State.closing
  rw [recordOf_congr hseconds, hid, chargedSession_drawn hx]

theorem measured_fitted {es : List Event} {n : Nat} (h : s.mdc.mode ≠ .drive) (hf : Fitted es n s) (cur vol p : Nat) :
    Fitted es n (s.measured cur vol p) :=
  hf.same (measured_rest s cur vol p).2.2.2.2.2.2.1 (by rw [measured_sessions h, List.length_map])

/-- The closings for the cap, each of them recorded. -/
theorem capChecked_fitted {es : List Event} {n : Nat} (h : s.mdc.mode ≠ .drive) (hs : SessionsSound s) (hf : Fitted es n s)
    (cur vol p : Nat) : ∃ caps, Fitted (es ++ caps) n ((s.measured cur vol p).capChecked s.mdc.mode) ∧
      ∀ x ∈ s.ssc.sessions, s.capped cur p x → s.closing 2 { x with drawn := s.chargedTo cur p x / 1000 } ∈ caps := by
  have hfit := (measured_fitted h hf cur vol p).closeWhere (SessionsSound.closed.measured hs cur vol p)
    (s.measured cur vol p).overCap .cap
  rw [← capChecked_eq h] at hfit
  refine ⟨_, hfit, fun x hx hcap => List.mem_map.2 ⟨s.chargedSession cur p x, List.mem_filter.2 ⟨?_, ?_⟩, ?_⟩⟩
  · rw [measured_sessions h]
    exact List.mem_map_of_mem hx
  · exact (overCap_iff (hs.remainder x hx)).2 hcap
  · exact closing_charged (hs.remainder x hx) 2

/-- A session that is not over its cap outlives the cap check. -/
theorem mem_capChecked (h : s.mdc.mode ≠ .drive) (hs : SessionsSound s) (hx : x ∈ s.ssc.sessions) (hcap : ¬ s.capped cur p x) :
    s.chargedSession cur p x ∈ ((s.measured cur vol p).capChecked s.mdc.mode).ssc.sessions := by
  rw [capChecked_eq h]
  refine mem_closeWhere_of_not (SessionsSound.closed.measured hs cur vol p) ?_ ?_ _
  · rw [measured_sessions h]
    exact List.mem_map_of_mem hx
  · rw [← Bool.not_eq_true]
    exact mt (overCap_iff (hs.remainder x hx)).1 hcap

theorem capChecked_cls (cur vol p : Nat) (c : ClassId) :
    ((s.measured cur vol p).capChecked s.mdc.mode).cls c = s.cls c :=
  (cls_congr (deep_base (capChecked_deep ..)) c).trans (measured_cls s cur vol p c)

/-- A session that closes neither for its cap nor for the reserve outlives the audit. -/
theorem mem_audited (h : s.mdc.mode ≠ .drive) (hs : SessionsSound s) (hx : x ∈ s.ssc.sessions) (hcap : ¬ s.capped cur p x)
    (hess : (s.cls x.cls).essential = true ∨ ¬ s.exhausts cur p) : s.chargedSession cur p x ∈ (s.audited cur vol p).ssc.sessions := by
  have hmem := mem_capChecked (vol := vol) h hs hx hcap
  obtain ⟨-, hcls, -⟩ := chargedSession_same s cur p x
  by_cases hex : s.exhausts cur p
  · rw [audited_exhausts hex]
    have hessential := hess.resolve_right (not_not_intro hex)
    unfold State.exhaust
    dsimp only
    refine mem_closeWhere_of_not ?_ ?_ ?_ _
    · exact SessionsSound.closed.record _ _ _ _ _ rfl (SessionsSound.closed.capChecked (SessionsSound.closed.measured hs cur vol p) _)
    · rw [record_ssc]
      exact hmem
    · rw [base_cls (record_base ..), capChecked_cls, hcls, hessential]
      rfl
  · rw [audited_lasts hex]
    exact hmem

/-- The exhaustion and its closings, each of them recorded. -/
theorem audited_fitted {es : List Event} {n : Nat} (h : s.mdc.mode ≠ .drive) (hs : SessionsSound s) (hf : Fitted es (n + 1) s)
    (cur vol p : Nat) : ∃ more, Fitted (es ++ more) n (s.audited cur vol p) ∧ (s.exhausts cur p →
      s.recordOf .reserveExhausted s.mdc.mode.code 0 none ∈ more ∧ ∀ x ∈ s.ssc.sessions, (s.cls x.cls).essential = false →
        ¬ s.capped cur p x → s.closing 3 { x with drawn := s.chargedTo cur p x / 1000 } ∈ more) := by
  obtain ⟨caps, hfit, -⟩ := capChecked_fitted h hs hf cur vol p
  by_cases hex : s.exhausts cur p
  · have hsound := SessionsSound.closed.capChecked (SessionsSound.closed.measured hs cur vol p) s.mdc.mode
    have hdeep := (capChecked_deep (s.measured cur vol p) s.mdc.mode)
    have hseconds : ((s.measured cur vol p).capChecked s.mdc.mode).wsc.seconds = s.wsc.seconds :=
      (base_seconds (deep_base hdeep)).trans (congrArg Wsc.seconds (measured_rest s cur vol p).2.2.2.2.2.2.2.1)
    have hmode : ((s.measured cur vol p).capChecked s.mdc.mode).mdc.mode = s.mdc.mode :=
      (base_mode (deep_base hdeep)).trans (congrArg Mdc.mode (measured_rest s cur vol p).1)
    have hmem := fun x hx => mem_capChecked (vol := vol) (x := x) (cur := cur) (p := p) h hs hx
    have hcls := capChecked_cls (s := s) cur vol p
    rw [audited_exhausts hex]
    generalize (s.measured cur vol p).capChecked s.mdc.mode = u at *
    have hrecord := hfit.record .reserveExhausted u.mdc.mode.code 0 none
    rw [recordOf_congr hseconds, hmode] at hrecord
    have hsound' : SessionsSound (u.record .reserveExhausted s.mdc.mode.code 0 none) := SessionsSound.closed.record _ _ _ _ _ rfl hsound
    have hssc : (u.record .reserveExhausted s.mdc.mode.code 0 none).ssc = u.ssc := record_ssc ..
    have hcls' : ∀ c, (u.record .reserveExhausted s.mdc.mode.code 0 none).cls c = s.cls c := fun c => (base_cls (record_base ..) c).trans (hcls c)
    have hseconds' : (u.record .reserveExhausted s.mdc.mode.code 0 none).wsc.seconds = s.wsc.seconds :=
      (base_seconds (record_base ..)).trans hseconds
    have hform : u.exhaust 0 = (u.record .reserveExhausted s.mdc.mode.code 0 none).closeWhere
        (fun x => !((u.record .reserveExhausted s.mdc.mode.code 0 none).cls x.cls).essential) .reserve := by
      rw [← hmode]
      rfl
    rw [hform]
    generalize u.record .reserveExhausted s.mdc.mode.code 0 none = v at *
    have hclosed := hrecord.closeWhere hsound' (fun x => !(v.cls x.cls).essential) .reserve
    rw [List.append_assoc, List.append_assoc] at hclosed
    refine ⟨_, hclosed, fun _ => ⟨by simp, fun x hx hess hcap => ?_⟩⟩
    obtain ⟨hid, hclsx, -⟩ := chargedSession_same s cur p x
    refine List.mem_append_right _ (List.mem_append_right _ (List.mem_map.2 ⟨s.chargedSession cur p x, List.mem_filter.2 ⟨?_, ?_⟩, ?_⟩))
    · rw [hssc]
      exact hmem x hx hcap
    · rw [hcls', hclsx, hess]
      rfl
    · unfold State.closing
      rw [recordOf_congr hseconds', hid, chargedSession_drawn (hs.remainder x hx)]
      rfl
  · rw [audited_lasts hex]
    obtain ⟨hholds, hroom⟩ := hfit
    exact ⟨caps, ⟨hholds, by omega⟩, fun h => absurd h hex⟩

end

end Sys2Proof.Machine
end

section
/-! BTM's reading of the voltage: the counters and the step they bring (R144 to R150). -/

namespace Sys2Proof.Machine

/-! ### The counters -/

/-- The step taken to another tier, both counters returned to 0 (R146). -/
def Btm.stepped (b : Btm) (t : Tier) : Btm := { b with tier := t, fall := 0, rise := 0 }

/-- BTM as a reading leaves it (R144 to R146). -/
def Btm.read (b : Btm) (v : Nat) : Btm := ((b.counted v).step.map (b.counted v).stepped).getD (b.counted v)

section
variable {b : Btm} {v : Nat} {t : Tier}

theorem falls_iff : b.falls v = true ↔
    (b.tier = .normal ∧ v < b.conserve) ∨ (b.tier = .conserve ∧ v < b.critical) ∨ (b.tier = .critical ∧ v < b.cutoff) := by
  unfold Btm.falls
  cases b.tier <;> simp [Tier.down, Btm.threshold]
  all_goals exact decide_eq_true_iff

theorem rises_iff : b.rises v = true ↔ (b.tier = .conserve ∧ b.conserve + b.hysteresis ≤ v) ∨
    (b.tier = .critical ∧ b.critical + b.hysteresis ≤ v) ∨ (b.tier = .cutoff ∧ b.cutoff + b.hysteresis ≤ v) := by
  unfold Btm.rises
  cases b.tier <;> simp [Tier.up, Btm.threshold]
  all_goals exact decide_eq_true_iff

/-- With the thresholds in their order no reading both falls and rises. -/
theorem rises_of_falls (hc : b.cutoff < b.critical) (hk : b.critical < b.conserve) (h : b.falls v = true) : b.rises v = false := by
  rw [← Bool.not_eq_true, rises_iff]
  rcases falls_iff.1 h with ⟨ht, hv⟩ | ⟨ht, hv⟩ | ⟨ht, hv⟩ <;> rw [ht] <;> simp <;> omega

theorem down_of_falls (h : b.falls v = true) : ∃ t, b.tier.down = some t ∧ t.code = b.tier.code + 1 := by
  rcases falls_iff.1 h with ⟨ht, -⟩ | ⟨ht, -⟩ | ⟨ht, -⟩ <;> rw [ht] <;> exact ⟨_, rfl, rfl⟩

theorem up_of_rises (h : b.rises v = true) : ∃ t, b.tier.up = some t ∧ t.code + 1 = b.tier.code := by
  rcases rises_iff.1 h with ⟨ht, -⟩ | ⟨ht, -⟩ | ⟨ht, -⟩ <;> rw [ht] <;> exact ⟨_, rfl, rfl⟩

theorem read_of_none (h : (b.counted v).step = none) : b.read v = b.counted v := by
  unfold Btm.read
  rw [h]
  rfl

theorem read_of_some (h : (b.counted v).step = some t) : b.read v = (b.counted v).stepped t := by
  unfold Btm.read
  rw [h]
  rfl

/-- What each reading makes of the counters and the tier (R144 to R146). -/
theorem read_spec (hthresholds : b.cutoff < b.critical ∧ b.critical < b.conserve) (hfall : b.fall < b.fallConfirm)
    (hrise : b.rise < b.riseConfirm) :
    (b.falls v = true → b.fall + 1 < b.fallConfirm → b.read v = { b with fall := b.fall + 1, rise := 0 }) ∧
    (b.falls v = true → b.fall + 1 = b.fallConfirm →
      b.read v = { b with tier := (b.read v).tier, fall := 0, rise := 0 } ∧ (b.read v).tier.code = b.tier.code + 1) ∧
    (b.rises v = true → b.rise + 1 < b.riseConfirm → b.read v = { b with fall := 0, rise := b.rise + 1 }) ∧
    (b.rises v = true → b.rise + 1 = b.riseConfirm →
      b.read v = { b with tier := (b.read v).tier, fall := 0, rise := 0 } ∧ (b.read v).tier.code + 1 = b.tier.code) ∧
    (¬ b.falls v = true → ¬ b.rises v = true → b.read v = { b with fall := 0, rise := 0 }) := by
  obtain ⟨hcritical, hconserve⟩ := hthresholds
  have hfalling : b.falls v = true → b.counted v = { b with fall := b.fall + 1, rise := 0 } := fun h => by
    unfold Btm.counted
    rw [h, rises_of_falls hcritical hconserve h]
    rfl
  have hrising : b.rises v = true → b.counted v = { b with fall := 0, rise := b.rise + 1 } := fun h => by
    have hnot : b.falls v = false := by
      rw [← Bool.not_eq_true]
      intro hf
      rw [rises_of_falls hcritical hconserve hf] at h
      cases h
    unfold Btm.counted
    rw [h, hnot]
    rfl
  refine ⟨fun h hlt => ?_, fun h heq => ?_, fun h hlt => ?_, fun h heq => ?_, fun hf hr => ?_⟩
  · have hstep : (b.counted v).step = none := by
      rw [hfalling h, Btm.step, if_neg (by dsimp only; omega), if_neg (by dsimp only; omega)]
    rw [read_of_none hstep, hfalling h]
  · obtain ⟨t, ht, hcode⟩ := down_of_falls h
    have hstep : (b.counted v).step = some t := by
      rw [hfalling h, Btm.step, if_pos (by dsimp only; omega)]
      exact ht
    rw [read_of_some hstep, hfalling h]
    exact ⟨rfl, hcode⟩
  · have hstep : (b.counted v).step = none := by
      rw [hrising h, Btm.step, if_neg (by dsimp only; omega), if_neg (by dsimp only; omega)]
    rw [read_of_none hstep, hrising h]
  · obtain ⟨t, ht, hcode⟩ := up_of_rises h
    have hstep : (b.counted v).step = some t := by
      rw [hrising h, Btm.step, if_neg (by dsimp only; omega), if_pos (by dsimp only; omega)]
      exact ht
    rw [read_of_some hstep, hrising h]
    exact ⟨rfl, hcode⟩
  · have hcounted : b.counted v = { b with fall := 0, rise := 0 } := by
      unfold Btm.counted
      rw [if_neg hf, if_neg hr]
    have hstep : (b.counted v).step = none := by
      rw [hcounted, Btm.step, if_neg (by dsimp only; omega), if_neg (by dsimp only; omega)]
    rw [read_of_none hstep, hcounted]

end

/-! ### The reading -/

section
variable {s t : State} {v : Nat} {new : Tier}

theorem reading_counts (h : (s.btm.counted v).step = none) : s.reading v = { s with btm := s.btm.read v } := by
  rw [read_of_none h]
  unfold State.reading
  dsimp only
  rw [h]

theorem reading_steps (h : (s.btm.counted v).step = some new) : s.reading v =
    (State.record { s with btm := s.btm.read v } .tierChanged new.code s.btm.tier.code (some v)).takeStep s.btm.tier new := by
  rw [read_of_some h]
  unfold State.reading
  dsimp only
  rw [h]
  rfl

theorem base_withMdc (h : t.base = s.base) (m : Mdc) : ({ t with mdc := m } : State).base = { s with mdc := m }.base := by
  simp only [State.base, Base.mk.injEq] at h ⊢
  simp [h]

/-- A tier step changes nothing of `State.base` but the mode and what goes with it. -/
theorem takeStep_base (s : State) (old new : Tier) : ∃ m, (s.takeStep old new).base = { s with mdc := m }.base := by
  unfold State.takeStep
  dsimp only
  split
  · exact ⟨s.mdc, rfl⟩
  · split
    · split
      · exact ⟨_, (enterCutoff_base _).trans (base_withMdc (closeWhere_base ..) _)⟩
      · exact ⟨s.mdc, closeWhere_base ..⟩
    · split
      · exact ⟨_, enterParked_base s _⟩
      · exact ⟨s.mdc, rfl⟩

theorem reading_base (s : State) (v : Nat) : ∃ m, (s.reading v).base = { s with mdc := m, btm := s.btm.read v }.base := by
  cases h : (s.btm.counted v).step with
  | none => exact ⟨s.mdc, by rw [reading_counts h]⟩
  | some new =>
    obtain ⟨m, hm⟩ := takeStep_base (State.record { s with btm := s.btm.read v } .tierChanged new.code s.btm.tier.code (some v)) s.btm.tier new
    rw [reading_steps h]
    exact ⟨m, hm.trans (base_withMdc (record_base ..) m)⟩

/-! ### The sessions that a step leaves -/

theorem enterCutoff_ssc (s : State) : s.enterCutoff.ssc = s.ssc := by
  have hmode : (s.setMode .cutoff .tierCutoff).stopHandover.ssc = s.ssc := record_ssc ..
  have hholds : ((s.setMode .cutoff .tierCutoff).stopHandover.setHolds false false false).ssc = s.ssc :=
    (demandChanged_ssc _).trans hmode
  unfold State.enterCutoff
  dsimp only
  rw [refreshSub_ssc]
  exact ((Domestic.sameSessions _).forceCutoff rfl).trans hholds

/-- PARKED entry with no activation that waits makes no session. -/
theorem enterParked_ssc (h : ∀ l, (s.line l).act ≠ .pending) (c : ModeCause) : (s.enterParked c).ssc = s.ssc := by
  have hnone : ∀ l, ¬ ((s.parkedEntry c).line l).waits := fun l hw => by
    rw [frame_line (parkedEntry_frame s c)] at hw
    exact h l hw.2.2
  have hmode : (s.setMode .parked c).stopHandover.ssc = s.ssc := record_ssc ..
  rw [enterParked_eq, triggerPending_none hnone]
  exact (refreshSub_ssc _).trans ((demandChanged_ssc _).trans hmode)

theorem takeStep_dues (h : s.mdc.mode = .cutoff → ∀ l, (s.line l).act ≠ .pending) (old new : Tier) :
    (s.takeStep old new).dues.Sublist s.dues := by
  unfold State.takeStep
  dsimp only
  split
  · exact List.Sublist.refl _
  · split
    · split
      · rw [dues_of_ssc (enterCutoff_ssc _)]
        exact closeWhere_dues ..
      · exact closeWhere_dues ..
    · split
      · next hc =>
        rw [dues_of_ssc (enterParked_ssc (h (by simpa using (Bool.and_eq_true_iff.1 hc).2)) _)]
      · exact List.Sublist.refl _

theorem reading_dues (h : s.mdc.mode = .cutoff → ∀ l, (s.line l).act ≠ .pending) (v : Nat) : (s.reading v).dues.Sublist s.dues := by
  cases hstep : (s.btm.counted v).step with
  | none =>
    rw [reading_counts hstep]
    exact List.Sublist.refl _
  | some new =>
    rw [reading_steps hstep]
    refine (takeStep_dues ?_ s.btm.tier new).trans ?_
    · have hbase := record_base { s with btm := s.btm.read v } .tierChanged new.code s.btm.tier.code (some v)
      have hwlu : (State.record { s with btm := s.btm.read v } .tierChanged new.code s.btm.tier.code (some v)).wlu = s.wlu :=
        deep_wlu (t := { s with btm := s.btm.read v })
          (record_deep { s with btm := s.btm.read v } .tierChanged new.code s.btm.tier.code (some v))
      intro hm l
      have hline := congrArg (fun w : Wlu => w.lines[l.val].act) hwlu
      exact fun hact => h ((base_mode hbase).symm.trans hm) l (hline.symm.trans hact)
    · rw [dues_of_ssc (record_ssc ..)]
      exact List.Sublist.refl _

end

end Sys2Proof.Machine
end

section
/-! A sample as a whole (R128): obligation O52. -/

namespace Sys2Proof.Machine

section
variable {s : State} {n p cur vol : Nat} {x y : Session}

/-! ### What a lapse leaves of the meter -/

theorem lapse_meter (s : State) (n : Nat) : (s.lapse n).chm.baseline = s.chm.baseline ∧ (s.lapse n).chm.floorMah = s.chm.floorMah ∧
    (s.lapse n).chm.period = s.chm.period := by
  unfold State.lapse
  (repeat' split) <;> exact ⟨rfl, rfl, rfl⟩

theorem lapse_owner (s : State) (n : Nat) (d : DomId) : ((s.lapse n).dom d).owner = (s.dom d).owner := by
  rcases lapse_dom s n d with h | h <;> rw [h]
  rfl

theorem lapse_activeSet (s : State) (n : Nat) : (s.lapse n).activeSet = s.activeSet := by
  unfold State.activeSet
  simp only [lapse_state, lapse_entry]

theorem lapse_weight (s : State) (n : Nat) : (s.lapse n).weight = s.weight := by
  unfold State.weight
  rw [lapse_activeSet]
  simp only [lapse_entry]

theorem lapse_share (s : State) (n e : Nat) (d : DomId) : (s.lapse n).share e d = s.share e d := by
  unfold State.share State.flooredShare State.heaviest
  rw [lapse_activeSet, lapse_weight]
  simp only [lapse_entry]

theorem lapse_sessionSum (s : State) (n e id : Nat) : (s.lapse n).sessionSum e id = s.sessionSum e id := by
  unfold State.sessionSum
  have hshare : (s.lapse n).share e = s.share e := funext (lapse_share s n e)
  rw [lapse_activeSet, hshare]
  simp only [lapse_owner]

theorem Session.lapse_same (x : Session) (n : Nat) : (x.lapse n).id = x.id ∧ (x.lapse n).cls = x.cls ∧ (x.lapse n).active = x.active ∧
    (x.lapse n).drawn = x.drawn ∧ (x.lapse n).drawnRem = x.drawnRem := by
  unfold Session.lapse
  split <;> exact ⟨rfl, rfl, rfl, rfl, rfl⟩

theorem lapse_chargedTo (s : State) (n cur p : Nat) (x : Session) :
    (s.lapse n).chargedTo cur p (x.lapse n) = s.chargedTo cur p x := by
  obtain ⟨hid, -, -, hdrawn, hrem⟩ := x.lapse_same n
  unfold State.chargedTo
  dsimp only
  rw [(lapse_meter s n).1, lapse_weight, lapse_sessionSum, hid, hdrawn, hrem]

theorem lapse_cls (s : State) (n : Nat) (c : ClassId) : (s.lapse n).cls c = s.cls c := by
  unfold State.cls
  rw [(lapse_tables s n).1]

theorem lapse_capped (s : State) (n cur p : Nat) (x : Session) : (s.lapse n).capped cur p (x.lapse n) ↔ s.capped cur p x := by
  obtain ⟨-, hcls, hactive, -, -⟩ := x.lapse_same n
  unfold State.capped
  rw [lapse_chargedTo, lapse_cls, hcls, hactive]

theorem lapse_exhausts (s : State) (n cur p : Nat) : (s.lapse n).exhausts cur p ↔ s.exhausts cur p := by
  obtain ⟨-, -, hreserve, hrem⟩ := lapse_tables s n
  have hmode : (s.lapse n).mdc.mode = s.mdc.mode := by
    unfold State.lapse
    (repeat' split) <;> rfl
  unfold State.exhausts
  rw [hmode, hreserve, hrem]

/-- The record of the closing of a session charged after a lapse. -/
theorem lapse_closing_charged (s : State) (n cur p reason : Nat) (x : Session) :
    (s.lapse n).closing reason { x.lapse n with drawn := (s.lapse n).chargedTo cur p (x.lapse n) / 1000 } =
      s.closing reason { x with drawn := s.chargedTo cur p x / 1000 } := by
  obtain ⟨hid, -, -, -, -⟩ := x.lapse_same n
  unfold State.closing
  rw [lapse_chargedTo, lapse_recordOf]
  dsimp only
  rw [hid]

theorem lapse_mem (hh : s.held = false) (hx : x ∈ s.ssc.sessions) (n : Nat) : x.lapse n ∈ (s.lapse n).ssc.sessions := by
  rw [lapse_sessions hh]
  exact List.mem_map_of_mem hx

theorem lapse_fitted {es : List Event} {k : Nat} (hh : s.held = false) (h : Fitted es k s) (n : Nat) : Fitted es k (s.lapse n) := by
  refine ⟨lapse_holds n h.1, ?_⟩
  rw [lapse_sessions hh, List.length_map]
  exact h.2

end

/-! ### The two samples -/

theorem exec_sample {s : State} {i v : Int} {n p : Nat} {c : Instr} (h : Ready s)
    (hc : (c = .sample i v ∧ s.chm.earlyDue = false ∧ n = s.chm.period - s.chm.elapsed ∧ p = s.chm.period) ∨
      (c = .periodChangeSample i v ∧ s.chm.earlyDue = true ∧ n = 0 ∧ p = s.chm.elapsed)) :
    exec c s = .next (((s.lapse n).audited (min 65535 i.toNat) (min 20000 v.toNat) p).reading (min 20000 v.toNat)).finish := by
  rcases hc with ⟨rfl, hearly, hn, rfl⟩ | ⟨rfl, hearly, rfl, rfl⟩
  · have hleft : s.leftSample = some n := by
      rw [State.leftSample, if_neg (by rw [hearly]; decide), hn]
    have hexec : exec (.sample i v) s = .next ((s.lapse n).sampleWork i v (s.lapse n).chm.period).finish :=
      timed_of_some h.awake hleft (fun s => s.sampleWork i v s.chm.period)
    rw [hexec, (lapse_meter s n).2.2, sampleWork_audited]
  · have hleft : s.leftEarly = some 0 := if_pos hearly
    have hexec : exec (.periodChangeSample i v) s = .next ((s.lapse 0).sampleWork i v (s.lapse 0).chm.elapsed).finish :=
      timed_of_some h.awake hleft (fun s => s.sampleWork i v s.chm.elapsed)
    have hzero : (s.lapse 0).chm.elapsed = s.chm.elapsed := rfl
    rw [hexec, hzero, sampleWork_audited]

end Sys2Proof.Machine
end

section
/-! What a sample leaves (R127 to R136, R144 to R146): obligation O52. -/

namespace Sys2Proof.Machine

section
variable {s w : State} {v n p cur vol : Nat} {x y : Session}

/-! ### A reading in DRIVE -/

theorem takeStep_drive (h : s.mdc.mode = .drive) (old new : Tier) : s.takeStep old new = s := if_pos h

/-- In DRIVE a reading changes BTM and adds its record (R150). -/
theorem reading_drive (h : s.mdc.mode = .drive) (v : Nat) : (s.reading v).frame = { s with btm := s.btm.read v }.frame ∧
    (s.reading v).ssc = s.ssc ∧ (s.reading v).work.resume = s.work.resume := by
  cases hstep : (s.btm.counted v).step with
  | none =>
    rw [reading_counts hstep]
    exact ⟨rfl, rfl, rfl⟩
  | some new =>
    have hmode : (State.record { s with btm := s.btm.read v } .tierChanged new.code s.btm.tier.code (some v)).mdc.mode = .drive :=
      (base_mode (record_base { s with btm := s.btm.read v } .tierChanged new.code s.btm.tier.code (some v))).trans h
    rw [reading_steps hstep, takeStep_drive hmode]
    exact ⟨record_frame .., record_ssc .., record_resume ..⟩

/-! ### What the audit leaves -/

theorem audited_mode (w : State) (cur vol p : Nat) : (w.audited cur vol p).mdc.mode = w.mdc.mode :=
  (base_mode (deep_base (audited_deep w cur vol p))).trans (congrArg Mdc.mode (measured_rest w cur vol p).1)

theorem audited_btm (w : State) (cur vol p : Nat) : (w.audited cur vol p).btm = w.btm :=
  (base_btm (deep_base (audited_deep w cur vol p))).trans (measured_rest w cur vol p).2.1

theorem audited_line (w : State) (cur vol p : Nat) (l : LineId) : (w.audited cur vol p).line l = w.line l :=
  congrArg (fun u : Wlu => u.lines[l.val]) ((deep_wlu (audited_deep w cur vol p)).trans (measured_rest w cur vol p).2.2.2.1)

theorem lapse_mode_of (s : State) (n : Nat) : (s.lapse n).mdc.mode = s.mdc.mode := by
  unfold State.lapse
  (repeat' split) <;> rfl

/-- Nothing waits to trigger, should the step enter PARKED. -/
theorem audited_calm (hh : s.held = false) (n cur vol p : Nat) (h : s.mdc.mode = .cutoff → ∀ l, (s.line l).act ≠ .pending) :
    ((s.lapse n).audited cur vol p).mdc.mode = .cutoff → ∀ l, (((s.lapse n).audited cur vol p).line l).act ≠ .pending := by
  intro hm l
  rw [audited_mode, lapse_mode_of] at hm
  rw [audited_line, lapse_line hh]
  exact h hm l

/-- The meter at the event's end. -/
theorem sampled_base (s : State) (n cur vol p : Nat) : ∃ m, (((s.lapse n).audited cur vol p).reading vol).finish.base =
    { (s.lapse n).measured cur vol p with mdc := m, btm := s.btm.read vol }.base := by
  obtain ⟨m, hm⟩ := reading_base ((s.lapse n).audited cur vol p) vol
  have hb : ((s.lapse n).audited cur vol p).btm = s.btm := (audited_btm ..).trans (lapse_tables s n).2.1
  rw [hb] at hm
  have haudit := deep_base (audited_deep (s.lapse n) cur vol p)
  refine ⟨m, (finish_base _).trans (hm.trans ?_)⟩
  simp only [State.base, Base.mk.injEq] at haudit ⊢
  simp [haudit]

/-- A session at the event's end is one of before, charged, that was neither over its cap nor to close for the reserve. -/
theorem of_mem_sampled (hh : s.held = false) (hm : s.mdc.mode ≠ .drive) (hcalm : s.mdc.mode = .cutoff → ∀ l, (s.line l).act ≠ .pending)
    (hy : y ∈ (((s.lapse n).audited cur vol p).reading vol).finish.ssc.sessions) : ∃ x ∈ s.ssc.sessions, y.id = x.id ∧ y.cls = x.cls ∧
      y.drawn * 1000 + y.drawnRem = s.chargedTo cur p x ∧ (x.drawnRem ≤ 999 → ¬ s.capped cur p x) ∧
      (s.exhausts cur p → (s.cls y.cls).essential = true) := by
  have hw : (s.lapse n).mdc.mode ≠ .drive := by rw [lapse_mode_of]; exact hm
  have hdues := (finish_dues _).trans (reading_dues (audited_calm hh n cur vol p hcalm) vol)
  obtain ⟨z, hz, hid, hcls, hdrawn, hrem⟩ := exists_of_dues hdues hy
  obtain ⟨⟨x', hx', rfl⟩, hcap, hess⟩ := of_mem_audited hw hz
  rw [lapse_sessions hh] at hx'
  obtain ⟨x, hx, rfl⟩ := List.mem_map.1 hx'
  obtain ⟨hid', hcls', -⟩ := chargedSession_same (s.lapse n) cur p (x.lapse n)
  obtain ⟨hidx, hclsx, -, -, hremx⟩ := x.lapse_same n
  refine ⟨x, hx, by rw [← hid, hid', hidx], by rw [← hcls, hcls', hclsx], ?_, fun hx999 hc => ?_, fun hex => ?_⟩
  · rw [← hdrawn, ← hrem, chargedSession_total, lapse_chargedTo]
  · have hover := (overCap_iff (vol := vol) (by rw [hremx]; exact hx999)).2 ((lapse_capped s n cur p x).2 hc)
    rw [hcap] at hover
    cases hover
  · have hessential := hess ((lapse_exhausts s n cur p).2 hex)
    rwa [hcls, lapse_cls] at hessential

/-- The records made before a step stay first to the event's end. -/
theorem sampled_keeps {es : List Event} (hk : Keeps es w) (v : Nat) : Keeps es (w.reading v).finish :=
  finish_records ((Closed.records es).reading v hk)

end

/-- Settles O52: the stages of a sample's work, one after the other. -/
theorem sampleIsTaken : Obligations.SampleIsTaken := by
  intro i v s n p c h hc u cur vol b falls rises
  have hbegun := sample_begun (s.lapse n) i v p
  rw [sampleWork_audited] at hbegun
  have hexec := exec_sample h hc
  rw [show min 65535 i.toNat = cur from rfl, show min 20000 v.toNat = vol from rfl] at hbegun hexec
  clear_value cur vol
  obtain ⟨m, hbase⟩ := sampled_base s n cur vol p
  obtain ⟨hcurrent, hvoltage, hbaseline, hfloor⟩ := measured_chm (s.lapse n) cur vol p
  obtain ⟨hbaseline', hfloor', -⟩ := lapse_meter s n
  obtain ⟨-, -, hreserve, hrem⟩ := lapse_tables s n
  have hmode : (s.lapse n).mdc.mode = s.mdc.mode := lapse_mode_of s n
  refine ⟨_, hexec, (base_current hbase).trans hcurrent, (base_voltage hbase).trans hvoltage, hbegun.1, hbegun.2,
    (base_baseline hbase).trans (hbaseline.trans hbaseline'), (base_floor hbase).trans (hfloor.trans hfloor'), fun hm => ?metered,
    fun hm => ?unmetered, fun hranges => ?tier, fun hm => ?drive,
    fun hm hcalm => ⟨fun y hy => ?charged, fun hsound x hx hcap => ⟨fun y hy hid => ?capped, fun hroom => ?capRecord⟩,
      fun hsound hex => ⟨fun y hy => ?essential, fun hroom => ?exhaustRecords⟩⟩⟩
  case metered =>
    obtain ⟨hr, hq⟩ := measured_metered (by rw [hmode]; exact hm) cur vol p
    rw [hreserve, hrem] at hr
    rw [hrem] at hq
    exact ⟨(base_reserve hbase).trans hr, (base_reserveRem hbase).trans hq⟩
  case unmetered =>
    obtain ⟨hr, hq⟩ := measured_unmetered (by rw [hmode]; exact hm) cur vol p
    exact ⟨(base_reserve hbase).trans (hr.trans hreserve), (base_reserveRem hbase).trans (hq.trans hrem)⟩
  case tier =>
    have hbtm : (((s.lapse n).audited cur vol p).reading vol).finish.btm = b.read vol := base_btm hbase
    obtain ⟨-, hcritical, hconserve, -⟩ := hranges.thresholds
    have hspec := read_spec (b := b) (v := vol) ⟨hcritical, hconserve⟩ hranges.fall.1 hranges.rise.1
    rw [falls_iff, rises_iff] at hspec
    rw [hbtm]
    exact hspec
  case drive =>
    have hdrive : ((s.lapse n).audited cur vol p).mdc.mode = .drive := (audited_mode ..).trans (hmode.trans hm)
    obtain ⟨hframe, -, hresume⟩ := reading_drive hdrive vol
    rw [audited_drive (hmode.trans hm)] at hframe hresume ⊢
    have hnone := hresume.trans ((congrArg Work.resume (measured_rest (s.lapse n) cur vol p).2.2.2.2.2.2.2.2).trans (h.lapse_resume n))
    exact (frame_table (finish_frame hnone)).trans ((frame_table hframe).trans (table_of_ssc (measured_table_drive (hmode.trans hm) ..)))
  case charged =>
    obtain ⟨x, hx, hid, -, hdrawn, -⟩ := of_mem_sampled h.awake hm hcalm hy
    exact ⟨x, hx, hid, hdrawn⟩
  case capped =>
    obtain ⟨x', hx', hid', -, -, hnot, -⟩ := of_mem_sampled h.awake hm hcalm hy
    rw [eq_of_id hsound.ids hx' hx (hid'.symm.trans hid)] at hnot
    exact hnot (hsound.remainder x hx) hcap
  case capRecord =>
    obtain ⟨caps, hfit, hin⟩ := capChecked_fitted (by rw [hmode]; exact hm) (lapse_sessionsSound n hsound)
      (lapse_fitted h.awake (Fitted.start (n := 0) hsound hroom) n) cur vol p
    have hkeeps := sampled_keeps
      (w := (s.lapse n).audited cur vol p) ((Closed.records _).drained hfit.1.keeps (s.lapse n).mdc.mode (s.lapse n).chm.reserve) vol
    have hrecord := hin (x.lapse n) (lapse_mem h.awake hx n) ((lapse_capped s n cur p x).2 hcap)
    rw [lapse_closing_charged] at hrecord
    exact hkeeps.1.subset (List.mem_append_right _ hrecord)
  case essential =>
    obtain ⟨-, -, -, -, -, -, hess⟩ := of_mem_sampled h.awake hm hcalm hy
    exact hess hex
  case exhaustRecords =>
    obtain ⟨more, hfit, hin⟩ := audited_fitted (by rw [hmode]; exact hm) (lapse_sessionsSound n hsound)
      (lapse_fitted h.awake (Fitted.start (n := 1) hsound hroom) n) cur vol p
    have hkeeps := sampled_keeps hfit.1.keeps vol
    obtain ⟨hrecord, hclosings⟩ := hin ((lapse_exhausts s n cur p).2 hex)
    rw [lapse_recordOf, hmode] at hrecord
    refine ⟨hkeeps.1.subset (List.mem_append_right _ hrecord), fun x hx hess hcap => ?_⟩
    obtain ⟨-, hcls, -⟩ := x.lapse_same n
    have hclosing := hclosings (x.lapse n) (lapse_mem h.awake hx n) (by rw [lapse_cls, hcls]; exact hess)
      (mt (lapse_capped s n cur p x).1 hcap)
    rw [lapse_closing_charged] at hclosing
    exact hkeeps.1.subset (List.mem_append_right _ hclosing)

end Sys2Proof.Machine
end

section
/-! A step to the tier CUTOFF in a state with two sessions of one id, which no run reaches: obligation O53 says of every state with sound ramps
that nothing stays powered which no session demands, and there it does (R11, R101, R121, R148). -/

namespace Sys2Proof.Machine

/-- A session of this id, class and set, running, with 45 s left. -/
def runningSession (id : Nat) (c : ClassId) (set : DomSet) : Session :=
  { id := id, cls := c, origin := .line 2, profile := .full, state := .running, set := set, admittedAt := 0, elapsed := 0, remaining := 45000,
    estimate := 0, drawn := 0, drawnRem := 0, extUsed := 0, listenCurrent := none, listening := [], suspendedBy := none, suspendedFor := none }

/-- PARKED at CRITICAL, one reading before CUTOFF, with D0 and domain 9 ON. Of two sessions of id 12 the first is SUSPENDED by session 13, whose
class has the minimum tier CRITICAL; the second demands domain 9. -/
def twinSessions : State :=
  { ((((State.reset.updDom 0 (fun x => { x with state := .on, timer := 0, pgPin := true })).updDom 9
      (fun x => { x with entry := DomainEntry.powerOnD0, state := .on, en := true, pgPin := true })).setClass 1
        { ClassEntry.powerOn with enabled := true, minTier := .cutoff }).setClass 2
          { ClassEntry.powerOn with enabled := true, minTier := .critical }) with
    mdc := { State.reset.mdc with mode := .parked, handoverHold := false, alwaysHold := true },
    rmp := { queue := [], slotA := none, slotB := none }, lnk.receiver := .hunting,
    btm := { Btm.powerOn with tier := .critical, fall := 7 },
    ssc.sessions := [{ runningSession 12 1 0 with state := .suspended, suspendedBy := some 13, suspendedFor := some 0 },
      runningSession 12 1 0b1000000000, runningSession 13 2 0] }

theorem twinSessions_ready : Ready twinSessions := ⟨rfl, rfl⟩

theorem twinSessions_rampSound : RampSound twinSessions where
  domains d := by
    have hdomain : ∀ e, (twinSessions.dom e).en = (twinSessions.dom e).state.enOn ∧ (twinSessions.dom e).timer = 0 ∧
        (twinSessions.dom e).attempts = 0 := by decide
    obtain ⟨hen, htimer, hattempts⟩ := hdomain d
    exact ⟨hen, fun _ => htimer, by omega, fun h => by omega, fun _ => hattempts⟩
  slots := by decide
  apart := by decide
  queued := by decide
  once := by decide

/-- Has the event ended at the tier CUTOFF with domain 9 powered, though no session demands it? -/
def leavesNinePowered (o : Host.Outcome State Fault Refusal) : Bool :=
  match o with
  | .next t => decide (t.btm.tier = .cutoff) && (t.dom 9).en && !t.sessionDemands 9
  | _ => false

set_option maxRecDepth 20000 in
/-- Session 13 closes TIER, and the resumption that follows takes both sessions of id 12: domain 9, which the forced switch-off has left to the
second, loses its demand only after it, and stands in HOLDOFF with its EN on. -/
theorem twinSessions_leaves_powered : leavesNinePowered (exec (.sample 0 10999) twinSessions) = true := by decide

/-- Refutes O53: its power clause asks for `RampSound` alone, and fails in `twinSessions`, whose two sessions share one id. -/
theorem not_tierStepsAreTaken : ¬ Obligations.TierStepsAreTaken := by
  intro h
  obtain ⟨t, hexec, -, -, -, hcutoff, -⟩ := h 0 10999 twinSessions _ _ _ twinSessions_ready (.inl ⟨rfl, rfl, rfl, rfl⟩)
  have hleaves := twinSessions_leaves_powered
  rw [hexec] at hleaves
  simp only [leavesNinePowered, Bool.and_eq_true, decide_eq_true_eq, Bool.not_eq_true'] at hleaves
  obtain ⟨⟨htier, hpowered⟩, hundemanded⟩ := hleaves
  have hfell : twinSessions.btm.tier.code < t.btm.tier.code := by
    rw [htier]
    decide
  obtain ⟨-, -, -, -, -, -, -, hnothing, -⟩ := hcutoff hfell htier (.inr rfl)
  rcases hnothing twinSessions_rampSound 9 hpowered with hdemanded | ⟨hzero, -⟩
  · rw [hundemanded] at hdemanded
    cases hdemanded
  · exact absurd hzero (by decide)

end Sys2Proof.Machine
end

section
/-! `Orderly P` lists the moves that transitions and grants make, each with the circumstances in which they make it; one lemma per operation
then says that it keeps P. `Domestic` (Laws/Domestic.lean) asks for any move at any time. -/

namespace Sys2Proof.Machine

/-- P is kept by every move of a domain that a transition makes (R24, R28, R29, R33, R35). -/
structure Orderly (P : State → Prop) : Prop where
  forceOff : ∀ s d, s.mdc.mode = .cutoff → P s → P (s.forceOff d)
  enterQueued : ∀ s d, (s.dom d).state = .off → s.demand d ≠ 0 → P s → P (s.enterQueued d)
  enterOff : ∀ s d, (s.dom d).state.live = false → s.demand d = 0 → P s → P (s.enterOff d)
  powerOff : ∀ s d, (s.dom d).state = .on → s.demand d = 0 → P s → P (s.powerOff d .demandGone)
  holdoff : ∀ s d t, (s.dom d).state = .on ∨ ((s.dom d).state = .ramping ∧ (s.dom d).pgGood = true) → s.demand d = 0 → P s →
    P (s.setState d .holdoff t)
  on : ∀ s d, (s.dom d).state = .holdoff ∨ ((s.dom d).state = .ramping ∧ (s.dom d).pgGood = true) → s.demand d ≠ 0 → P s →
    P (s.setState d .on 0)
  forget : ∀ s, P s → P { s with dmc.d0Held := none }
  refreshSub : ∀ s, P s → P s.refreshSub

namespace Orderly

section
variable {P : State → Prop} (k : Orderly P) {s : State}
include k

theorem forceCutoff (hm : s.mdc.mode = .cutoff) (h : P s) : P s.forceCutoff := by
  have hboth := foldl_closed (P := fun t => t.mdc.mode = .cutoff ∧ P t) State.forceStep (fun t d ht => by
    obtain ⟨hmode, hp⟩ := ht
    refine ⟨(forceStep_alike t d).mode.trans hmode, ?_⟩
    unfold State.forceStep
    split
    · exact hp
    · exact k.forceOff t d hmode hp) domIdsDown (s := s) ⟨hm, h⟩
  exact hboth.2

theorem transition (d : DomId) (h : P s) : P (s.transition d) := by
  cases hf : s.forces d with
  | true =>
    obtain ⟨⟨hm, -⟩, -⟩ := (forces_iff s d).1 hf
    rw [transition_of_forces hf]
    exact k.forceCutoff hm h
  | false =>
    have hguard : (s.unwantedInCutoff d && (s.dom d).state != .off && (s.dom d).state != .latched) = false := hf
    unfold State.transition
    rw [hguard, if_neg Bool.false_ne_true]
    split
    · next hs =>
      split
      · next hd => exact k.enterQueued s d hs (by simpa using (Bool.and_eq_true_iff.1 hd).1) h
      · exact h
    · next hs =>
      split
      · next hd => exact k.enterOff s d (by rw [hs]; rfl) hd h
      · exact h
    · next hs =>
      split
      · next hd => exact k.enterOff s d (by rw [hs]; rfl) hd h
      · exact h
    · exact h
    · exact h
    · next hs =>
      split
      · exact h
      · next hd =>
        have hzero : s.demand d = 0 := by simpa using hd
        split
        · exact k.powerOff s d hs hzero h
        · exact k.holdoff s d _ (.inl hs) hzero h
    · next hs =>
      split
      · next hd => exact k.on s d (.inl hs) (by simpa using hd) h
      · exact h

theorem transitionOf (d : DomId) (h : P s) : P (s.transitionOf d) := by
  unfold State.transitionOf
  split
  · split
    · exact h
    · exact k.transition d (k.forget s h)
  · exact k.transition d h

theorem transitions (l : List DomId) (h : P s) : P (l.foldl State.transitionOf s) :=
  foldl_closed _ (fun _ d ht => k.transitionOf d ht) l h

theorem settle (h : P s) : P s.settle := k.transitions domIdsDown h

theorem demandChanged (h : P s) : P s.demandChanged := k.refreshSub _ (k.settle h)

theorem rampDone {d : DomId} (hs : (s.dom d).state = .ramping) (hg : (s.dom d).pgGood = true) (h : P s) : P (s.rampDone d) := by
  unfold State.rampDone
  split
  · next hd => exact k.on s d (.inr ⟨hs, hg⟩) (by simpa using hd) h
  · next hd =>
    have hzero : s.demand d = 0 := by simpa using hd
    split
    · exact k.enterOff s d (by rw [hs]; rfl) hzero h
    · exact k.holdoff s d _ (.inr ⟨hs, hg⟩) hzero h

variable (hgrant : ∀ s d, d ∈ s.rmp.queue → P s → P (s.grant d)) (hqueue : ∀ s, P s → P s.enqueueArrivals)
include hgrant hqueue

theorem grants (n : Nat) (h : P s) : P (State.grants n s) := by
  induction n generalizing s with
  | zero => exact h
  | succ n ih =>
    unfold State.grants
    split
    · split
      · next d hd =>
        have hgranted := hgrant s d (mem_queueOrder (List.mem_of_find?_eq_some hd)) h
        refine ih ?_
        unfold State.grantAndRamp
        dsimp only
        split
        · next hg => exact hqueue _ (k.demandChanged (k.rampDone (by rw [grant_state, if_pos rfl]) hg hgranted))
        · exact hgranted
      · exact h
    · exact h

theorem ramped (hw : s.work.resume = none) (h : P s) : P s.ramped := by
  unfold State.ramped
  rw [resumeNow_none hw]
  exact k.grants hgrant hqueue 12 (hqueue _ (k.settle h))

end

end Orderly

/-! ### What the moves leave of the domains -/

section
variable {s : State} {d e : DomId}

theorem powerOff_cases (s : State) (d : DomId) (c : HeldCause) :
    s.powerOff d c = s.enterOff d ∧ ¬ (d = 0 ∧ s.lnk.reply.isSome = true) ∨
      s.powerOff d c = { s.updDom 0 (fun x => { x with timer := 0 }) with dmc.d0Held := some c } ∧ d = 0 ∧ s.lnk.reply.isSome = true := by
  by_cases h : d = 0 ∧ s.lnk.reply.isSome = true
  · exact .inr ⟨powerOff_of_held c h, h⟩
  · exact .inl ⟨powerOff_of_not_held c h, h⟩

/-- The forced switch-off of a domain does nothing, switches it off, or holds D0's switch-off back (R33, R35). -/
theorem forceOff_cases (s : State) (d : DomId) : s.forceOff d = s ∧ ((s.dom d).state = .off ∨ (s.dom d).state = .latched) ∨
    s.forceOff d = s.enterOff d ∧ (s.dom d).state ≠ .latched ∧ ((s.dom d).state.live = true → ¬ (d = 0 ∧ s.lnk.reply.isSome = true)) ∨
    s.forceOff d = { s.updDom 0 (fun x => { x with timer := 0 }) with dmc.d0Held := some .forced } ∧ d = 0 ∧
      (s.dom d).state.live = true ∧ s.lnk.reply.isSome = true := by
  have hpower := powerOff_cases s d .forced
  unfold State.forceOff
  cases hs : (s.dom d).state <;> dsimp only
  case off => exact .inl ⟨rfl, .inl rfl⟩
  case latched => exact .inl ⟨rfl, .inr rfl⟩
  case queued | ramping | faultWait => exact .inr (.inl ⟨rfl, by decide, fun h => by cases h⟩)
  case on | holdoff =>
    rcases hpower with ⟨heq, hnot⟩ | ⟨heq, hzero, hreply⟩
    · exact .inr (.inl ⟨heq, by decide, fun _ => hnot⟩)
    · exact .inr (.inr ⟨heq, hzero, rfl, hreply⟩)

end

end Sys2Proof.Machine
end

section
/-! Where no domain is LATCHED no transition and no grant reports a child, so that an event's end makes no record (R25); what every move of a
domain keeps of a D0 whose power-good is lost. -/

namespace Sys2Proof.Machine

theorem grant_same (s : State) (d : DomId) : ∃ a b, s.grant d =
    { s.setState d .ramping (s.dom d).entry.rampTimeout with rmp.slotA := a, rmp.slotB := b } := by
  unfold State.grant
  dsimp only
  split <;> exact ⟨_, _, rfl⟩

/-! ### No domain LATCHED, no child reported -/

/-- No domain is LATCHED or flagged as reported, and these children are noted. -/
structure Unlatched (marks : List DomId) (s : State) : Prop where
  latch : ∀ d, (s.dom d).state ≠ .latched
  flags : ∀ d, (s.dom d).depReported = false
  marks : s.work.blocked = marks

section
variable {marks : List DomId} {s t : State}

namespace Unlatched

theorem same (h : Unlatched marks s) (hd : ∀ e, t.dom e = s.dom e) (hw : t.work.blocked = s.work.blocked) : Unlatched marks t := by
  obtain ⟨hlatch, hflags, hmarks⟩ := h
  exact ⟨fun d => by rw [hd]; exact hlatch d, fun d => by rw [hd]; exact hflags d, hw.trans hmarks⟩

theorem updDom (h : Unlatched marks s) (d : DomId) (f : Domain → Domain)
    (hf : ∀ x, x.state ≠ .latched → (f x).state ≠ .latched ∧ (f x).depReported = x.depReported) : Unlatched marks (s.updDom d f) := by
  obtain ⟨hlatch, hflags, hmarks⟩ := h
  obtain ⟨hstate, hflag⟩ := hf (s.dom d) (hlatch d)
  refine ⟨fun e => ?_, fun e => ?_, hmarks⟩ <;> rw [dom_updDom] <;> split
  · exact hstate
  · exact hlatch e
  · exact hflag.trans (hflags d)
  · exact hflags e

theorem setState (h : Unlatched marks s) (d : DomId) {n : DomState} (t : Nat) (hn : n ≠ .latched) : Unlatched marks (s.setState d n t) := by
  refine (h.updDom d (fun x => { x with state := n, en := n.enOn, timer := t }) fun _ _ => ⟨hn, rfl⟩).same (fun e => ?_) ?_
  · rw [setState_dom, dom_updDom]
  · rw [setState_work]
    rfl

theorem enterOff (h : Unlatched marks s) (d : DomId) : Unlatched marks (s.enterOff d) :=
  (h.setState d 0 (n := .off) (by decide)).updDom d _ fun _ hx => ⟨hx, rfl⟩

/-- Without a LATCHED parent a domain that enters QUEUED is not reported. -/
theorem enterQueued_eq (h : Unlatched marks s) (d : DomId) : s.enterQueued d = s.setState d .queued 0 := by
  have hqueued := h.setState d 0 (n := .queued) (by decide)
  unfold State.enterQueued
  dsimp only
  refine if_neg ?_
  unfold State.parentIs
  split
  · simpa using hqueued.latch _
  · decide

theorem d0Held (h : Unlatched marks s) (c : Option HeldCause) :
    Unlatched marks { s.updDom 0 (fun x => { x with timer := 0 }) with dmc.d0Held := c } :=
  (h.updDom 0 (fun x => { x with timer := 0 }) fun _ hx => ⟨hx, rfl⟩).same (fun _ => rfl) rfl

theorem forceOff (h : Unlatched marks s) (d : DomId) : Unlatched marks (s.forceOff d) := by
  rcases forceOff_cases s d with ⟨heq, -⟩ | ⟨heq, -⟩ | ⟨heq, -⟩ <;> rw [heq]
  · exact h
  · exact h.enterOff d
  · exact h.d0Held _

theorem refreshSub (h : Unlatched marks s) : Unlatched marks s.refreshSub :=
  h.same (fun e => refreshSub_dom s e) (congrArg Work.blocked (refreshSub_work s))

theorem orderly (marks : List DomId) : Orderly (Unlatched marks) where
  forceOff _ d _ h := h.forceOff d
  enterQueued _ d _ _ h := by
    rw [h.enterQueued_eq]
    exact h.setState d 0 (by decide)
  enterOff _ d _ _ h := h.enterOff d
  powerOff s d _ _ h := by
    rcases powerOff_cases s d .demandGone with ⟨heq, -⟩ | ⟨heq, -⟩ <;> rw [heq]
    · exact h.enterOff d
    · exact h.d0Held _
  holdoff _ d t _ _ h := h.setState d t (by decide)
  on _ d _ _ h := h.setState d 0 (by decide)
  forget _ h := h.same (fun _ => rfl) rfl
  refreshSub _ h := h.refreshSub

theorem grant (h : Unlatched marks s) (d : DomId) : Unlatched marks (s.grant d) := by
  obtain ⟨a, b, heq⟩ := grant_same s d
  rw [heq]
  exact (h.setState d (s.dom d).entry.rampTimeout (n := .ramping) (by decide)).same (fun _ => rfl) rfl

theorem ramped (h : Unlatched marks s) (hw : s.work.resume = none) : Unlatched marks s.ramped :=
  (orderly marks).ramped (fun _ d _ h => h.grant d) (fun _ h => h.same (fun _ => rfl) rfl) hw h

theorem finish (h : Unlatched marks s) (hw : s.work.resume = none) (d : DomId) :
    (s.finish.dom d).state ≠ .latched ∧ (s.finish.dom d).depReported = false := by
  obtain ⟨hlatch, hflags, -⟩ := h.ramped hw
  obtain ⟨hstate, -, -, -, hflag⟩ := fields_of_owner (finish_dom s d)
  exact ⟨by rw [hstate]; exact hlatch d, hflag.trans (hflags d)⟩

end Unlatched

theorem noted_lost (h : t.noted = s.noted) : t.evq.lost = s.evq.lost := congrArg (fun n => n.1.lost) h

/-- With no child to report the queue is left as it is. -/
theorem recordBlocked_none (h : s.work.blocked = []) : s.recordBlocked.evq = s.evq := by
  have hstep : ∀ (l : List DomId) (u : State), (l.foldl (State.recordMark []) u).evq = u.evq := fun l => by
    induction l with
    | nil => exact fun _ => rfl
    | cons d l ih => exact ih
  rw [recordBlocked_eq, h, hstep]

/-- R25: where no domain is LATCHED the end of an event makes no record. -/
theorem finish_unrecorded (h : Unlatched [] s) (hw : s.work.resume = none) :
    s.finish.evq.events = s.evq.events ∧ s.finish.evq.lost = s.evq.lost := by
  have hblocked := recordBlocked_none (h.ramped hw).marks
  have hramped := ramped_noted hw
  have hbefore := beforeAttn_noted s
  have hend := finish_eq s
  generalize s.beforeAttn = b at *
  generalize s.ramped = r at *
  obtain ⟨a, p, hattn⟩ := refreshAttn_eq b
  generalize r.recordBlocked = q at *
  rw [hend, hattn]
  exact ⟨(noted_events hbefore).trans ((congrArg Evq.events hblocked).trans (noted_events hramped)),
    (noted_lost hbefore).trans ((congrArg Evq.lost hblocked).trans (noted_lost hramped))⟩

end

end Sys2Proof.Machine
end

section
/-! D0 through the event of a software reset: it stays dark after a loss of its power-good, it stays live while a reply is sent (R35), and it
stays up once the mode's hold demands it. -/

namespace Sys2Proof.Machine

section
variable {s t : State} {d : DomId}

theorem enterQueued_dom_ne {e : DomId} (h : e ≠ d) : (s.enterQueued d).dom e = s.dom e := by
  unfold State.enterQueued
  dsimp only
  split
  · rw [noteBlocked_dom, if_neg h, setState_dom, if_neg h]
  · rw [setState_dom, if_neg h]

theorem enterQueued_pgGood (s : State) (d e : DomId) : ((s.enterQueued d).dom e).pgGood = (s.dom e).pgGood := by
  have hset : ((s.setState d .queued 0).dom e).pgGood = (s.dom e).pgGood := by
    rw [setState_dom]
    split
    · next he => rw [he]; rfl
    · rfl
  unfold State.enterQueued
  dsimp only
  split
  · rw [noteBlocked_dom]
    split
    · next he => rw [← hset, he]; rfl
    · exact hset
  · exact hset

/-! ### D0 dark -/

/-- D0 is neither ON nor in HOLDOFF, and its power-good is not taken as good. -/
structure Dark (s : State) : Prop where
  dark : (s.dom 0).state.live = false
  bad : (s.dom 0).pgGood = false

namespace Dark

theorem same (h : Dark s) (hd : (t.dom 0).state = (s.dom 0).state ∧ (t.dom 0).pgGood = (s.dom 0).pgGood) : Dark t :=
  ⟨by rw [hd.1]; exact h.dark, hd.2.trans h.bad⟩

theorem setState (h : Dark s) (d : DomId) {n : DomState} (x : Nat) (hn : d = 0 → n.live = false) : Dark (s.setState d n x) := by
  by_cases hd : d = 0
  · subst hd
    constructor <;> rw [setState_dom, if_pos rfl]
    · exact hn rfl
    · exact h.bad
  · exact h.same (by rw [setState_dom, if_neg (Ne.symm hd)]; exact ⟨rfl, rfl⟩)

theorem enterOff (h : Dark s) (d : DomId) : Dark (s.enterOff d) := by
  refine (h.setState d 0 (n := .off) fun _ => rfl).same ?_
  unfold State.enterOff
  rw [dom_updDom]
  split
  · next hd => rw [hd]; exact ⟨rfl, rfl⟩
  · exact ⟨rfl, rfl⟩

theorem enterQueued (h : Dark s) (d : DomId) : Dark (s.enterQueued d) := by
  by_cases hd : d = 0
  · subst hd
    refine ⟨?_, (enterQueued_pgGood s 0 0).trans h.bad⟩
    rw [enterQueued_state, if_pos rfl]
    rfl
  · exact h.same (by rw [enterQueued_dom_ne (Ne.symm hd)]; exact ⟨rfl, rfl⟩)

theorem forceOff (h : Dark s) (d : DomId) : Dark (s.forceOff d) := by
  rcases forceOff_cases s d with ⟨heq, -⟩ | ⟨heq, -⟩ | ⟨-, rfl, hlive, -⟩
  · rw [heq]
    exact h
  · rw [heq]
    exact h.enterOff d
  · rw [h.dark] at hlive
    cases hlive

theorem orderly : Orderly Dark where
  forceOff _ d _ h := h.forceOff d
  enterQueued _ d _ _ h := h.enterQueued d
  enterOff _ d _ _ h := h.enterOff d
  powerOff s d hs _ h := by
    rw [powerOff_of_not_held _ fun hx => ?_]
    · exact h.enterOff d
    · obtain ⟨rfl, -⟩ := hx
      have hdark := h.dark
      rw [hs] at hdark
      cases hdark
  holdoff s d t hs _ h := h.setState d t fun hd => by
    subst hd
    obtain ⟨hdark, hbad⟩ := h
    rcases hs with hs | ⟨-, hgood⟩
    · rw [hs] at hdark
      cases hdark
    · rw [hbad] at hgood
      cases hgood
  on s d hs _ h := h.setState d 0 fun hd => by
    subst hd
    obtain ⟨hdark, hbad⟩ := h
    rcases hs with hs | ⟨-, hgood⟩
    · rw [hs] at hdark
      cases hdark
    · rw [hbad] at hgood
      cases hgood
  forget _ h := h.same ⟨rfl, rfl⟩
  refreshSub s h := h.same (by rw [refreshSub_dom]; exact ⟨rfl, rfl⟩)

theorem grant (h : Dark s) (d : DomId) : Dark (s.grant d) := by
  obtain ⟨a, b, heq⟩ := grant_same s d
  rw [heq]
  exact (h.setState d (s.dom d).entry.rampTimeout (n := .ramping) fun _ => rfl).same ⟨rfl, rfl⟩

theorem ramped (h : Dark s) (hw : s.work.resume = none) : Dark s.ramped :=
  orderly.ramped (fun _ d _ h => h.grant d) (fun _ h => h.same ⟨rfl, rfl⟩) hw h

end Dark

/-! ### D0 live while a reply is sent -/

/-- D0 is ON or in HOLDOFF with this attempt count, and a reply is being sent. -/
structure Serving0 (n : Nat) (s : State) : Prop where
  live : (s.dom 0).state.live = true
  attempts : (s.dom 0).attempts = n
  reply : s.lnk.reply.isSome = true

namespace Serving0

variable {n : Nat}

theorem same (h : Serving0 n s) (hd : (t.dom 0).state = (s.dom 0).state ∧ (t.dom 0).attempts = (s.dom 0).attempts)
    (hr : t.lnk.reply = s.lnk.reply) : Serving0 n t :=
  ⟨by rw [hd.1]; exact h.live, hd.2.trans h.attempts, by rw [hr]; exact h.reply⟩

theorem other (h : Serving0 n s) (hd : t.dom 0 = s.dom 0) (hh : t.hold = s.hold) : Serving0 n t :=
  h.same (by rw [hd]; exact ⟨rfl, rfl⟩) (congrArg Prod.snd hh)

theorem setState (h : Serving0 n s) (d : DomId) {st : DomState} (x : Nat) (hst : d = 0 → st.live = true) :
    Serving0 n (s.setState d st x) := by
  by_cases hd : d = 0
  · subst hd
    obtain ⟨hlive, hattempts, hreply⟩ := h
    refine ⟨?_, ?_, ?_⟩
    · rw [setState_state, if_pos rfl]
      exact hst rfl
    · rw [setState_dom, if_pos rfl]
      exact hattempts
    · rw [setState_lnk_live s st x hlive (hst rfl)]
      exact hreply
  · exact h.other (by rw [setState_dom, if_neg (Ne.symm hd)]) (setState_hold_ne s st x hd)

theorem enterOff (h : Serving0 n s) (hd : d ≠ 0) : Serving0 n (s.enterOff d) :=
  h.other (by rw [enterOff_dom, if_neg (Ne.symm hd)]) (setState_hold_ne s .off 0 hd)

theorem d0Held (h : Serving0 n s) (c : Option HeldCause) : Serving0 n { s.updDom 0 (fun x => { x with timer := 0 }) with dmc.d0Held := c } := by
  refine h.same ?_ rfl
  have hdom : ({ s.updDom 0 (fun x => { x with timer := 0 }) with dmc.d0Held := c } : State).dom 0 =
      (s.updDom 0 (fun x => { x with timer := 0 })).dom 0 := rfl
  rw [hdom, dom_updDom_self]
  exact ⟨rfl, rfl⟩

theorem forceOff (h : Serving0 n s) (d : DomId) : Serving0 n (s.forceOff d) := by
  rcases forceOff_cases s d with ⟨heq, -⟩ | ⟨heq, -, hnot⟩ | ⟨heq, -⟩ <;> rw [heq]
  · exact h
  · refine h.enterOff ?_
    rintro rfl
    exact hnot h.live ⟨rfl, h.reply⟩
  · exact h.d0Held _

theorem ne_of_dark (h : Serving0 n s) (hd : (s.dom d).state.live = false) : d ≠ 0 := by
  rintro rfl
  rw [h.live] at hd
  cases hd

theorem orderly (n : Nat) : Orderly (Serving0 n) where
  forceOff _ d _ h := h.forceOff d
  enterQueued s d hs _ h := by
    have hd := h.ne_of_dark (d := d) (by rw [hs]; rfl)
    exact h.other (enterQueued_dom_ne (Ne.symm hd)) ((enterQueued_hold s d).trans (setState_hold_ne s .queued 0 hd))
  enterOff _ _ hs _ h := h.enterOff (h.ne_of_dark hs)
  powerOff s d _ _ h := by
    rcases powerOff_cases s d .demandGone with ⟨heq, hnot⟩ | ⟨heq, -⟩ <;> rw [heq]
    · exact h.enterOff fun hd => hnot ⟨hd, h.reply⟩
    · exact h.d0Held _
  holdoff _ d t _ _ h := h.setState d t fun _ => rfl
  on _ d _ _ h := h.setState d 0 fun _ => rfl
  forget _ h := h.same ⟨rfl, rfl⟩ rfl
  refreshSub s h := h.other (refreshSub_dom s 0) (refreshSub_hold s)

end Serving0

/-! ### D0 up on a direct demand -/

/-- Outside CUTOFF D0 has a direct holder and is neither OFF nor LATCHED. -/
structure Wanted0 (s : State) : Prop where
  mode : s.mdc.mode ≠ .cutoff
  holders : s.directHolders 0 ≠ 0
  up : (s.dom 0).state ≠ .off ∧ (s.dom 0).state ≠ .latched

namespace Wanted0

theorem congr (h : Wanted0 s) (ha : Alike t s) (hs : (t.dom 0).state = (s.dom 0).state ∨
    ((t.dom 0).state ≠ .off ∧ (t.dom 0).state ≠ .latched)) : Wanted0 t := by
  refine ⟨by rw [ha.mode]; exact h.mode, by rw [ha.directHolders]; exact h.holders, ?_⟩
  rcases hs with hs | hs
  · rw [hs]
    exact h.up
  · exact hs

theorem demanded (h : Wanted0 s) : s.demand 0 ≠ 0 := (demand_ne_zero s 0).2 (.inl h.holders)

theorem ne_of_undemanded (h : Wanted0 s) (hd : s.demand d = 0) : d ≠ 0 := by
  rintro rfl
  exact h.demanded hd

theorem setState (h : Wanted0 s) (d : DomId) {n : DomState} (x : Nat) (hn : n ≠ .off ∧ n ≠ .latched) : Wanted0 (s.setState d n x) := by
  refine h.congr (setState_alike s d n x) ?_
  rw [setState_state]
  split
  · exact .inr hn
  · exact .inl rfl

theorem orderly : Orderly Wanted0 where
  forceOff _ _ hm h := absurd hm h.mode
  enterQueued s d _ _ h := by
    refine h.congr (enterQueued_alike s d) ?_
    rw [enterQueued_state]
    split
    · exact .inr (by decide)
    · exact .inl rfl
  enterOff s d _ hd h := h.congr (enterOff_alike s d) (.inl (by rw [enterOff_state, if_neg (Ne.symm (h.ne_of_undemanded hd))]))
  powerOff s d _ hd h := by
    have hne := h.ne_of_undemanded hd
    rw [powerOff_of_not_held _ fun hx => hne hx.1]
    exact h.congr (enterOff_alike s d) (.inl (by rw [enterOff_state, if_neg (Ne.symm hne)]))
  holdoff _ d t _ _ h := h.setState d t (by decide)
  on _ d _ _ h := h.setState d 0 (by decide)
  forget _ h := h.congr ⟨rfl, rfl, ⟨rfl, rfl, rfl⟩, fun _ => rfl, rfl⟩ (.inl rfl)
  refreshSub s h := h.congr (refreshSub_alike s) (.inl (by rw [refreshSub_dom]))

theorem ramped (h : Wanted0 s) (hw : s.work.resume = none) : Wanted0 s.ramped := by
  refine orderly.ramped (fun u d _ hu => ?_) (fun u hu => ?_) hw h
  · refine hu.congr (grant_alike u d) ?_
    rw [grant_state]
    split
    · exact .inr (by decide)
    · exact .inl rfl
  · exact hu.congr (enqueueArrivals_alike u) (.inl (by rw [enqueueArrivals_dom]))

end Wanted0

end

end Sys2Proof.Machine
end

section
/-! The domains but D0 after a software reset: each that is not OFF is demanded, and goes no other way than up (R15, R24, R43). -/

namespace Sys2Proof.Machine

/-- QUEUED, RAMPING or ON: the states of a domain on its way up. -/
def DomState.rising : DomState → Bool
  | .queued | .ramping | .on => true
  | .off | .holdoff | .faultWait | .latched => false

/-- Outside CUTOFF each domain but D0 is OFF, or demanded and on its way up; those in the Ramp Queue are QUEUED. -/
structure Risen (s : State) : Prop where
  mode : s.mdc.mode ≠ .cutoff
  root : (s.dom 0).entry.parent = none
  queue : ∀ d ∈ s.rmp.queue, d ≠ 0 → (s.dom d).state = .queued
  up : ∀ d, d ≠ 0 → (s.dom d).state = .off ∨ (s.demand d ≠ 0 ∧ (s.dom d).state.rising = true)

section
variable {s t : State} {d : DomId}

/-- A demand is not lost while no child goes OFF. -/
theorem Alike.demand_kept (ha : Alike t s) (hs : ∀ e p, (s.dom e).entry.parent = some p → (t.dom e).state = .off → (s.dom e).state = .off)
    (hd : s.demand d ≠ 0) : t.demand d ≠ 0 := by
  rcases (demand_ne_zero s d).1 hd with hdirect | ⟨c, hp, hc⟩
  · exact (demand_ne_zero t d).2 (.inl (by rw [ha.directHolders]; exact hdirect))
  · exact (demand_ne_zero t d).2 (.inr ⟨c, by rw [ha.entry]; exact hp, fun hx => hc (hs c d hp hx)⟩)

theorem enterQueued_rmp (s : State) (d : DomId) : (s.enterQueued d).rmp = (s.setState d .queued 0).rmp := by
  unfold State.enterQueued State.noteBlocked
  dsimp only
  (repeat' split) <;> rfl

namespace Risen

/-- Any change of D0, and any change upwards of a domain that is demanded. -/
theorem move (h : Risen s) (ha : Alike t s) {n : DomState} (hstate : ∀ e, (t.dom e).state = if e = d then n else (s.dom e).state)
    {m : DomState} {x : Nat} (hr : t.rmp.queue = (s.setState d m x).rmp.queue)
    (hn : d = 0 ∨ n = (s.dom d).state ∨ (s.demand d ≠ 0 ∧ n.rising = true)) : Risen t := by
  obtain ⟨hmode, hroot, hqueue, hup⟩ := h
  have hmoved : ∀ e, e ≠ 0 → (t.dom e).state = (s.dom e).state ∨ (s.demand e ≠ 0 ∧ (t.dom e).state.rising = true) := fun e he => by
    rw [hstate]
    split
    · next hed =>
      subst hed
      rcases hn with hzero | hsame | hrise
      · exact absurd hzero he
      · exact .inl hsame
      · exact .inr hrise
    · exact .inl rfl
  have hoff : ∀ e p, (s.dom e).entry.parent = some p → (t.dom e).state = .off → (s.dom e).state = .off := fun e p hp hx => by
    have he : e ≠ 0 := by
      rintro rfl
      rw [hroot] at hp
      cases hp
    rcases hmoved e he with hsame | ⟨-, hrise⟩
    · exact hsame.symm.trans hx
    · rw [hx] at hrise
      cases hrise
  refine ⟨by rw [ha.mode]; exact hmode, by rw [ha.entry]; exact hroot, fun e he h0 => ?_, fun e h0 => ?_⟩
  · rw [hr, setState_rmp] at he
    dsimp only at he
    have hin : e ∈ s.rmp.queue ∧ ((s.dom d).state = .queued → e ≠ d) := by
      split at he
      · obtain ⟨hmem, hne⟩ := List.mem_filter.1 he
        exact ⟨hmem, fun _ => by simpa using hne⟩
      · next hq => exact ⟨he, fun hx => absurd hx hq⟩
    have hqueued := hqueue e hin.1 h0
    rw [hstate]
    split
    · next hed =>
      subst hed
      exact absurd rfl (hin.2 hqueued)
    · exact hqueued
  · rcases hmoved e h0 with hsame | ⟨hdemand, hrise⟩
    · rw [hsame]
      rcases hup e h0 with hx | ⟨hdemand, hrise⟩
      · exact .inl hx
      · exact .inr ⟨ha.demand_kept hoff hdemand, hrise⟩
    · exact .inr ⟨ha.demand_kept hoff hdemand, hrise⟩

theorem same (h : Risen s) (ha : Alike t s) (hd : ∀ e, (t.dom e).state = (s.dom e).state)
    (hq : ∀ e ∈ t.rmp.queue, e ≠ 0 → e ∈ s.rmp.queue ∨ (t.dom e).state = .queued) : Risen t := by
  obtain ⟨hmode, hroot, hqueue, hup⟩ := h
  refine ⟨by rw [ha.mode]; exact hmode, by rw [ha.entry]; exact hroot, fun e he h0 => ?_, fun e h0 => ?_⟩
  · rcases hq e he h0 with hx | hx
    · rw [hd]
      exact hqueue e hx h0
    · exact hx
  · rw [hd, ha.demand fun c _ => by rw [hd]]
    exact hup e h0

theorem setState (h : Risen s) (d : DomId) {n : DomState} (x : Nat) (hn : d = 0 ∨ (s.demand d ≠ 0 ∧ n.rising = true)) :
    Risen (s.setState d n x) :=
  h.move (setState_alike s d n x) (fun e => setState_state s d e n x) rfl (hn.imp_right .inr)

theorem demanded (h : Risen s) (h0 : d ≠ 0) (hs : (s.dom d).state ≠ .off) : s.demand d ≠ 0 := ((h.up d h0).resolve_left hs).1

theorem eq_zero (h : Risen s) (hd : s.demand d = 0) (hs : (s.dom d).state ≠ .off) : d = 0 := by
  by_contra h0
  exact h.demanded h0 hs hd

theorem enterOff (h : Risen s) (d : DomId) (hn : d = 0 ∨ (s.dom d).state = .off) : Risen (s.enterOff d) :=
  h.move (m := .off) (x := 0) (enterOff_alike s d) (fun e => enterOff_state s d e) rfl (hn.imp_right fun hs => .inl hs.symm)

theorem orderly : Orderly Risen where
  forceOff _ _ hm h := absurd hm h.mode
  enterQueued s d _ hd h := h.move (enterQueued_alike s d) (fun e => enterQueued_state s d e) (by rw [enterQueued_rmp]) (.inr (.inr ⟨hd, rfl⟩))
  enterOff s d _ hd h := h.enterOff d (by
    by_cases hs : (s.dom d).state = .off
    · exact .inr hs
    · exact .inl (h.eq_zero hd hs))
  powerOff s d hs hd h := by
    have hzero := h.eq_zero hd (by rw [hs]; decide)
    rcases powerOff_cases s d .demandGone with ⟨heq, -⟩ | ⟨heq, -⟩ <;> rw [heq]
    · exact h.enterOff d (.inl hzero)
    · have halike : Alike (s.powerOff d .demandGone) s := powerOff_alike s d .demandGone
      rw [heq] at halike
      exact h.same halike (heldOff_state s _) fun _ he _ => .inl he
  holdoff s d t hs hd h := h.setState d t (.inl (h.eq_zero hd (by rcases hs with hs | ⟨hs, -⟩ <;> rw [hs] <;> decide)))
  on _ d _ hd h := h.setState d 0 (.inr ⟨hd, rfl⟩)
  forget _ h := h.same ⟨rfl, rfl, ⟨rfl, rfl, rfl⟩, fun _ => rfl, rfl⟩ (fun _ => rfl) fun _ he _ => .inl he
  refreshSub s h := h.same (refreshSub_alike s) (fun e => by rw [refreshSub_dom]) fun e he _ => .inl (by
    have hrmp : s.refreshSub.rmp = s.rmp := congrArg Prod.snd (refreshSub_power s)
    rwa [hrmp] at he)

theorem grant (h : Risen s) (hd : d ∈ s.rmp.queue) : Risen (s.grant d) := by
  have hn : d = 0 ∨ (s.demand d ≠ 0 ∧ DomState.ramping.rising = true) := by
    by_cases h0 : d = 0
    · exact .inl h0
    · exact .inr ⟨h.demanded h0 (by rw [h.queue d hd h0]; decide), rfl⟩
  have hset := h.setState d (s.dom d).entry.rampTimeout hn
  obtain ⟨a, b, heq⟩ := grant_same s d
  rw [heq]
  exact hset.same ⟨rfl, rfl, ⟨rfl, rfl, rfl⟩, fun _ => rfl, rfl⟩ (fun _ => rfl) fun _ he _ => .inl he

theorem enqueueArrivals (h : Risen s) : Risen s.enqueueArrivals := by
  refine h.same (enqueueArrivals_alike s) (fun e => by rw [enqueueArrivals_dom]) fun e he _ => ?_
  rcases List.mem_append.1 he with hx | hx
  · exact .inl hx
  · obtain ⟨-, hq⟩ := List.mem_filter.1 hx
    rw [enqueueArrivals_dom]
    exact .inr (by simpa using (Bool.and_eq_true_iff.1 hq).1)

theorem ramped (h : Risen s) (hw : s.work.resume = none) : Risen s.ramped :=
  orderly.ramped (fun _ _ hd h => h.grant hd) (fun _ h => h.enqueueArrivals) hw h

end Risen

end

end Sys2Proof.Machine
end

section
/-! The stages of a software reset (R15, R33): the tables emptied, the domains switched off, the mode's holds placed, the link and the queue
begun anew, and CUTOFF entered at that tier. -/

namespace Sys2Proof.Machine

/-! ### The tables emptied -/

/-- A line of which every mute, window and count has ended (R15). -/
def Line.rested (x : Line) : Line := { x with mute := none, window := none, nuisance := 0, mutedTriggers := 0 }

/-- One line's part of the reset. -/
def State.restLine (s : State) (l : LineId) : State := (s.updLine l Line.rested).updApproach l (fun _ => Approach.powerOn)

/-- A software reset before the domains are switched off. -/
def State.emptied (s : State) : State :=
  { (s.closeWhere (fun _ => true) .reset).resetLines with
    wsc.sched := [], mdc.driveHold := false, mdc.handoverHold := false, mdc.alwaysHold := false }

theorem resetRunning_eq (s : State) : s.resetRunning = s.emptied.forceReset := rfl

section
variable {s t u : State} {l : LineId} {d : DomId}

theorem restLine_line (s : State) (k l : LineId) : (s.restLine k).line l = if l = k then (s.line k).rested else s.line l :=
  line_updLine s k l Line.rested

theorem restLine_approach (s : State) (k l : LineId) : (s.restLine k).approach l = if l = k then Approach.powerOn else s.approach l := by
  unfold State.restLine
  split
  · next h =>
    rw [h, approach_updApproach_self]
  · next h =>
    rw [approach_updApproach_ne _ _ _ _ h]
    rfl

theorem restLines_line (ls : List LineId) (s : State) (l : LineId) :
    (ls.foldl State.restLine s).line l = if l ∈ ls then (s.line l).rested else s.line l := by
  induction ls generalizing s with
  | nil => simp
  | cons k ls ih =>
    rw [List.foldl_cons, ih, restLine_line]
    by_cases hk : l = k
    · subst hk
      simp [Line.rested]
    · simp [hk]

theorem restLines_approach (ls : List LineId) (s : State) (l : LineId) (h : l ∈ ls ∨ s.approach l = Approach.powerOn) :
    (ls.foldl State.restLine s).approach l = Approach.powerOn := by
  induction ls generalizing s with
  | nil => exact h.resolve_left (by simp)
  | cons k ls ih =>
    rw [List.foldl_cons]
    refine ih _ ?_
    rw [restLine_approach]
    by_cases hk : l = k
    · exact .inr (if_pos hk)
    · rw [if_neg hk]
      exact h.imp_left fun hx => (List.mem_cons.1 hx).resolve_left hk

theorem emptied_line (s : State) (l : LineId) : s.emptied.line l = (s.line l).rested := by
  have hline : s.emptied.line l = (lineIds.foldl State.restLine (s.closeWhere (fun _ => true) .reset)).line l := rfl
  have hclosed : (s.closeWhere (fun _ => true) .reset).wlu = s.wlu := deep_wlu (closeWhere_deep ..)
  rw [hline, restLines_line, if_pos (mem_lineIds l)]
  exact congrArg (fun w : Wlu => (w.lines[l.val]).rested) hclosed

theorem emptied_approach (s : State) (l : LineId) : s.emptied.approach l = Approach.powerOn :=
  restLines_approach lineIds (s.closeWhere (fun _ => true) .reset) l (.inl (mem_lineIds l))

/-- What the lines' part leaves of the other blocks. -/
theorem restLines_rest (ls : List LineId) (s : State) : (ls.foldl State.restLine s).ssc = s.ssc ∧ (ls.foldl State.restLine s).wsc = s.wsc ∧
    (ls.foldl State.restLine s).dmc = s.dmc ∧ (ls.foldl State.restLine s).rmp = s.rmp ∧ (ls.foldl State.restLine s).lnk = s.lnk ∧
    (ls.foldl State.restLine s).mdc = s.mdc := by
  induction ls generalizing s with
  | nil => exact ⟨rfl, rfl, rfl, rfl, rfl, rfl⟩
  | cons k ls ih => exact ih (s.restLine k)

theorem emptied_ssc (s : State) : s.emptied.ssc = { s.ssc with sessions := [] } :=
  (restLines_rest lineIds (s.closeWhere (fun _ => true) .reset)).1.trans (closeWhere_all s .reset)

theorem emptied_sched (s : State) : s.emptied.wsc.sched = [] := rfl

/-! ### The domains switched off -/

/-- One domain's dependency-reported flag cleared. -/
def State.dropFlag (s : State) (d : DomId) : State := s.updDom d Domain.unreported

theorem forceReset_eq (s : State) : s.forceReset = domIds.foldl State.dropFlag (domIdsDown.foldl State.resetStep s) := rfl

theorem dropFlags_dom (l : List DomId) (s : State) (d : DomId) :
    (l.foldl State.dropFlag s).dom d = if d ∈ l then (s.dom d).unreported else s.dom d := by
  induction l generalizing s with
  | nil => simp
  | cons e l ih =>
    rw [List.foldl_cons, ih]
    have hdrop : (s.dropFlag e).dom d = if d = e then (s.dom e).unreported else s.dom d := dom_updDom s e d Domain.unreported
    rw [hdrop]
    by_cases he : d = e
    · subst he
      simp [Domain.unreported]
    · simp [he]

theorem resetSteps_state (l : List DomId) (s : State) (d : DomId) :
    (d ∈ l ∨ (s.dom d).state ≠ .latched → ((l.foldl State.resetStep s).dom d).state ≠ .latched) ∧
      (d ≠ 0 → d ∈ l ∨ (s.dom d).state = .off → ((l.foldl State.resetStep s).dom d).state = .off) := by
  induction l generalizing s with
  | nil => exact ⟨fun h => h.resolve_left (by simp), fun _ h => h.resolve_left (by simp)⟩
  | cons e l ih =>
    rw [List.foldl_cons]
    obtain ⟨hlatch, hoff⟩ := ih (s.resetStep e)
    have hstep := resetStep_state s e d
    refine ⟨fun h => hlatch ?_, fun h0 h => hoff h0 ?_⟩
    · rw [hstep]
      by_cases he : d = e
      · right
        rw [if_pos he]
        split
        · next hx => exact hx.2
        · decide
      · rw [if_neg he]
        exact h.imp_left fun hx => (List.mem_cons.1 hx).resolve_left he
    · rw [hstep]
      by_cases he : d = e
      · right
        subst he
        rw [if_pos rfl, if_neg fun hx => h0 hx.1]
      · rw [if_neg he]
        exact h.imp_left fun hx => (List.mem_cons.1 hx).resolve_left he

/-- Every latch and every flag is cleared, and every domain but D0 switched off (R15, R25, R33). -/
theorem forceReset_dom (s : State) (d : DomId) : (s.forceReset.dom d).state ≠ .latched ∧ (s.forceReset.dom d).depReported = false ∧
    (d ≠ 0 → (s.forceReset.dom d).state = .off) := by
  obtain ⟨hlatch, hoff⟩ := resetSteps_state domIdsDown s d
  have hoff' := fun h0 => hoff h0 (.inl (mem_domIdsDown d))
  have hlatch' := hlatch (.inl (mem_domIdsDown d))
  rw [forceReset_eq, dropFlags_dom, if_pos (mem_domIds d)]
  generalize (domIdsDown.foldl State.resetStep s).dom d = x at *
  exact ⟨hlatch', rfl, hoff'⟩

theorem forceReset_unlatched (s : State) : Unlatched s.forceReset.work.blocked s.forceReset where
  latch d := (forceReset_dom s d).1
  flags d := (forceReset_dom s d).2.1
  marks := rfl

/-- What each step keeps and the clearing of the flags keeps the switching off keeps. -/
theorem forceReset_keeps {P : State → Prop} (hstep : ∀ s d, P s → P (s.resetStep d)) (hflag : ∀ s d, P s → P (s.dropFlag d)) (h : P s) :
    P s.forceReset := by
  rw [forceReset_eq]
  exact foldl_closed _ hflag _ (foldl_closed _ hstep _ h)

/-! ### The mode and its holds -/

/-- The mode by the debounced IGN state, and its holds, before their demand is taken (R15). -/
def State.reheld (s : State) : State :=
  { s.resetMode with mdc.driveHold := s.mdc.ign.debounced, mdc.handoverHold := !s.mdc.ign.debounced, mdc.alwaysHold := true }

theorem resetHolds_eq (s : State) : ∃ tm, s.resetHolds = { s.reheld.demandChanged with mdc.handoverTimer := tm } := by
  have hset : s.resetMode.setHolds s.mdc.ign.debounced (!s.mdc.ign.debounced) true = s.reheld.demandChanged := rfl
  unfold State.resetHolds State.stopHandover State.startHandover
  dsimp only
  rw [hset]
  split <;> exact ⟨_, rfl⟩

/-- A software reset before CUTOFF is entered. -/
def State.restarted (s : State) : State := s.resetRunning.resetHolds.resetLink.resetEvents

theorem softwareReset_eq (s : State) : s.softwareReset =
    if s.restarted.mdc.mode = .handover && s.restarted.btm.tier = .cutoff then s.restarted.enterCutoff else s.restarted := rfl

/-- The queue emptied (R15). -/
def State.unrecorded (s : State) : State :=
  { s with
    evq.events := [], evq.lost := 0, evq.pulse := none, evq.readPulse := false, work.condFirst := none, work.blocked := [] }

theorem resetEvents_eq (s : State) : s.resetEvents = s.unrecorded.record .partReset s.mdc.mode.code 1 none := rfl

theorem resetEvents_same (s : State) : ∃ q w, s.resetEvents = { s with evq := q, work := w } := by
  obtain ⟨q, w, heq⟩ := record_eq s.unrecorded .partReset s.mdc.mode.code 1 none
  rw [resetEvents_eq, heq]
  exact ⟨q, w, rfl⟩

/-- Besides the demand of the holds the later stages change the handover timer, the link, the queue and the model's notes. -/
theorem restarted_same (s : State) : ∃ tm l q w, s.restarted =
    { s.resetRunning.reheld.demandChanged with mdc.handoverTimer := tm, lnk := l, evq := q, work := w } := by
  obtain ⟨tm, hholds⟩ := resetHolds_eq s.resetRunning
  obtain ⟨q, w, hevents⟩ := resetEvents_same s.resetRunning.resetHolds.resetLink
  unfold State.restarted
  rw [hevents, hholds]
  generalize s.resetRunning.reheld.demandChanged = y
  exact ⟨tm, State.lnk (State.resetLink { y with mdc.handoverTimer := tm }), q, w, rfl⟩

theorem resetEvents_begun (s : State) : s.resetEvents.evq.events = [s.recordOf .partReset s.mdc.mode.code 1 none] ∧
    s.resetEvents.evq.lost = 0 ∧ s.resetEvents.evq.policy = s.evq.policy ∧ s.resetEvents.work.blocked = [] := by
  have hempty : s.unrecorded.evq.events.length < 24 := by
    have hnone : s.unrecorded.evq.events = [] := rfl
    rw [hnone]
    decide
  have hroom := (record_evq .partReset s.mdc.mode.code 1 none s.unrecorded).1 hempty
  have hmarks := record_blocked s.unrecorded .partReset s.mdc.mode.code 1 none
  rw [resetEvents_eq, hroom]
  exact ⟨rfl, rfl, rfl, hmarks⟩

end

end Sys2Proof.Machine
end

section
/-! What a software reset leaves of the tables, the link and the queue (R15, R168, R183). -/

namespace Sys2Proof.Machine

/-- What the parts of CUTOFF entry keep it keeps. -/
theorem enterCutoff_keeps {P : State → Prop} (record : ∀ s m c, P s → P (State.record s .modeChanged m c none))
    (mdc : ∀ s m, P s → P { s with mdc := m }) (demandChanged : ∀ s, P s → P s.demandChanged)
    (forceCutoff : ∀ s, s.mdc.mode = .cutoff → P s → P s.forceCutoff) (refreshSub : ∀ s, P s → P s.refreshSub) {s : State} (h : P s) :
    P s.enterCutoff := by
  have hset : P (s.setMode .cutoff .tierCutoff) := record _ _ _ (mdc s { s.mdc with mode := .cutoff } h)
  have hmode : (s.setMode .cutoff .tierCutoff).mdc.mode = .cutoff := (base_mode (setMode_base s .cutoff .tierCutoff)).trans rfl
  unfold State.enterCutoff
  generalize s.setMode .cutoff .tierCutoff = u at hset hmode
  have hholds : P (u.stopHandover.setHolds false false false) := demandChanged _ (mdc u
    { u.mdc with handoverTimer := none, driveHold := false, handoverHold := false, alwaysHold := false } hset)
  have hcutoff : (u.stopHandover.setHolds false false false).mdc.mode = .cutoff :=
    (base_mode (setHolds_base u.stopHandover false false false)).trans hmode
  exact refreshSub _ (forceCutoff _ hcutoff hholds)

namespace Domestic

variable {P : State → Prop} (k : Domestic P) (mdc : ∀ s m, P s → P { s with mdc := m }) {s : State}
include k

theorem releaseD0 (h : P s) : P s.releaseD0 := by
  unfold State.releaseD0
  dsimp only
  split
  · exact k.demandChanged (k.enterOff 0 (k.d0Held _ _ h))
  · exact k.d0Held _ _ h

include mdc

theorem enterCutoff (h : P s) : P s.enterCutoff :=
  enterCutoff_keeps (fun _ _ _ h => k.record _ _ _ _ _ rfl h) mdc (fun _ h => k.demandChanged h) (fun _ _ h => k.forceCutoff h)
    (fun _ h => k.refreshSub h) h

/-- What the domains' work and a change of mode keep a software reset keeps from where the queue is begun anew. -/
theorem softwareReset (h : P s.restarted) : P s.softwareReset := by
  rw [softwareReset_eq]
  split
  · exact k.enterCutoff mdc h
  · exact h

end Domestic

/-- The work at a reply's end after the software reset, up to the end of the event (R176). -/
def State.concluded (s : State) : State := s.clearReply.releaseD0.pulseAfterRead

theorem replySent_reset {s : State} (h : s.lnk.resetDue = true) : s.replySent = s.softwareReset.concluded.finish := by
  unfold State.replySent
  dsimp only
  rw [if_pos h]
  rfl

theorem Domestic.concluded {P : State → Prop} (k : Domestic P) (evq : ∀ s q, P s → P { s with evq := q }) {s : State} (h : P s.clearReply) :
    P s.concluded := by
  have hreleased := k.releaseD0 h
  unfold State.concluded
  obtain ⟨q, hq⟩ := pulseAfterRead_eq s.clearReply.releaseD0
  rw [hq]
  exact evq _ q hreleased

section
variable {s t : State} {l : LineId}

/-! ### Sessions, Schedule, lines and approach records -/

/-- The Session Table, the lines, the approach records and the part time with the Schedule. -/
def State.tables (s : State) : Ssc × Wlu × Apq × Wsc := (s.ssc, s.wlu, s.apq, s.wsc)

theorem Domestic.sameTables (x : Ssc × Wlu × Apq × Wsc) : Domestic (fun t => t.tables = x) where
  setState := setState_keeps (fun _ _ _ h => h) (fun _ _ h => h) (fun _ h => h) (fun _ h => h)
  dom _ _ _ _ h := h
  rmp _ _ h := h
  d0Held _ _ h := h
  work _ _ h := h
  record s k a b v _ h := by
    obtain ⟨q, w, heq⟩ := record_eq s k a b v
    rw [heq]
    exact h
  sub _ _ h := h
  chm _ _ h := h

/-- What the later stages of the reset do not touch. -/
theorem tables_of_restarted {y r : State} {tm : Option Nat} {k : Lnk} {q : Evq} {w : Work}
    (h : r = { y with
      mdc.handoverTimer := tm, lnk := k, evq := q, work := w }) : r.tables = y.tables := by
  subst h
  rfl

theorem reheld_tables (s : State) : s.reheld.tables = s.tables := rfl

theorem restarted_tables (s : State) : s.restarted.tables = s.emptied.tables := by
  obtain ⟨tm, l, q, w, heq⟩ := restarted_same s
  have hoff : s.resetRunning.tables = s.emptied.tables := (Domestic.sameTables s.emptied.tables).forceReset (s := s.emptied) rfl
  have hheld := reheld_tables s.resetRunning
  have hsettled : s.resetRunning.reheld.demandChanged.tables = s.emptied.tables :=
    (Domestic.sameTables s.emptied.tables).demandChanged (hheld.trans hoff)
  exact (tables_of_restarted heq).trans hsettled

theorem softwareReset_tables (s : State) : s.softwareReset.tables = s.emptied.tables :=
  (Domestic.sameTables _).softwareReset (fun _ _ h => h) (restarted_tables s)

theorem concluded_tables (s : State) : s.concluded.tables = s.tables :=
  (Domestic.sameTables s.tables).concluded (fun _ _ h => h) rfl

/-- What the tables of a rebooted device hold (R15). -/
theorem tables_emptied (h : t.tables = s.emptied.tables) : t.ssc = { s.ssc with sessions := [] } ∧ t.wsc.sched = [] ∧
    (∀ l, t.line l = (s.line l).rested) ∧ ∀ l, t.approach l = Approach.powerOn := by
  have hssc := emptied_ssc s
  have hsched := emptied_sched s
  have hline := emptied_line s
  have happroach := emptied_approach s
  generalize s.emptied = e at *
  simp only [State.tables, Prod.mk.injEq] at h
  obtain ⟨hs, hw, ha, hc⟩ := h
  exact ⟨hs.trans hssc, (congrArg Wsc.sched hc).trans hsched, fun l => (congrArg (fun w : Wlu => w.lines[l.val]) hw).trans (hline l),
    fun l => (congrArg (fun a : Apq => a.recs[l.val]) ha).trans (happroach l)⟩

/-! ### The link -/

/-- Nothing waits, is armed, overrun or counted on the link, and the receiver stands as D0 lets it (R182, R183). -/
structure Fresh (s : State) : Prop where
  inbound : s.lnk.inbound = []
  armed : s.lnk.armed = false
  errors : s.lnk.frameErrors = 0
  overrun : s.lnk.overrun = false
  receiver : s.lnk.receiver = if (s.dom 0).state.live then .hunting else .dead

theorem Fresh.same (h : Fresh s) (hd : (t.dom 0).state = (s.dom 0).state) (hl : t.lnk = s.lnk) : Fresh t := by
  obtain ⟨hinbound, harmed, herrors, hoverrun, hreceiver⟩ := h
  constructor <;> rw [hl]
  · exact hinbound
  · exact harmed
  · exact herrors
  · exact hoverrun
  · rw [hd]
    exact hreceiver

theorem Fresh.setState (h : Fresh s) (d : DomId) (n : DomState) (x : Nat) : Fresh (s.setState d n x) := by
  by_cases hd : d = 0
  · subst hd
    have hlnk := setState_lnk_zero s n x
    have hstate : ((s.setState 0 n x).dom 0).state = n := by rw [setState_state, if_pos rfl]
    obtain ⟨hinbound, harmed, herrors, hoverrun, hreceiver⟩ := h
    cases hold : (s.dom 0).state.live <;> cases hnew : n.live <;> simp only [hold, hnew] at hlnk hreceiver
    · exact ⟨by rw [hlnk]; exact hinbound, by rw [hlnk]; exact harmed, by rw [hlnk]; exact herrors, by rw [hlnk]; exact hoverrun,
        by rw [hlnk, hstate, hnew]; exact hreceiver⟩
    · exact ⟨by rw [hlnk]; exact hinbound, by rw [hlnk]; exact harmed, by rw [hlnk]; exact herrors, by rw [hlnk]; exact hoverrun,
        by rw [hlnk, hstate, hnew]; rfl⟩
    · exact ⟨by rw [hlnk]; rfl, by rw [hlnk]; rfl, by rw [hlnk]; rfl, by rw [hlnk]; rfl, by rw [hlnk, hstate, hnew]; rfl⟩
    · exact ⟨by rw [hlnk]; exact hinbound, by rw [hlnk]; exact harmed, by rw [hlnk]; exact herrors, by rw [hlnk]; exact hoverrun,
        by rw [hlnk, hstate, hnew]; exact hreceiver⟩
  · exact h.same (by rw [setState_state, if_neg (Ne.symm hd)]) (setState_lnk_ne s n x hd)

theorem Fresh.domestic : Domestic Fresh where
  setState _ d n x h := h.setState d n x
  dom s d f hf h := h.same (by
    rw [dom_updDom]
    split
    · next hd => rw [hf, hd]
    · rfl) rfl
  rmp _ _ h := h.same rfl rfl
  d0Held _ _ h := h.same rfl rfl
  work _ _ h := h.same rfl rfl
  record s k a b v _ h := h.same (by rw [record_dom]) (record_lnk ..)
  sub _ _ h := h.same rfl rfl
  chm _ _ h := h.same rfl rfl

theorem restarted_fresh (s : State) : Fresh s.restarted := by
  unfold State.restarted
  generalize s.resetRunning.resetHolds = u
  have hlink : Fresh u.resetLink := ⟨rfl, rfl, rfl, rfl, rfl⟩
  obtain ⟨q, w, heq⟩ := resetEvents_same u.resetLink
  rw [heq]
  exact hlink.same rfl rfl

theorem softwareReset_fresh (s : State) : Fresh s.softwareReset :=
  Fresh.domestic.softwareReset (fun _ _ h => h.same rfl rfl) (restarted_fresh s)

theorem Fresh.concluded (h : Fresh s) : Fresh s.concluded := by
  refine Fresh.domestic.concluded (fun _ _ h => h.same rfl rfl) ?_
  obtain ⟨hinbound, harmed, herrors, hoverrun, hreceiver⟩ := h
  exact ⟨hinbound, harmed, herrors, hoverrun, hreceiver⟩

theorem Fresh.finish (h : Fresh s) (hs : s.ssc.sessions = []) : Fresh s.finish :=
  Fresh.domestic.finish (by rw [resumeNow_of_empty hs]; exact h.same rfl rfl) (fun _ h => h.same rfl rfl)
    fun s h => h.same (by rw [power_dom (refreshAttn_power s)]) (refreshAttn_lnk s)

/-- No reply is being sent. -/
def Silent (s : State) : Prop := s.lnk.reply = none

theorem Silent.domestic : Domestic Silent where
  setState := setState_keeps (fun _ _ _ h => h) (fun _ _ h => h) (fun _ _ => rfl) (fun _ h => h)
  dom _ _ _ _ h := h
  rmp _ _ h := h
  d0Held _ _ h := h
  work _ _ h := h
  record s k a b v _ h := (congrArg Lnk.reply (record_lnk s k a b v)).trans h
  sub _ _ h := h
  chm _ _ h := h

theorem concluded_silent (s : State) : Silent s.concluded := Silent.domestic.concluded (fun _ _ h => h) rfl

theorem Silent.finish (h : Silent s) (hs : s.ssc.sessions = []) : Silent s.finish :=
  Silent.domestic.finish (by rw [resumeNow_of_empty hs]; exact h) (fun _ h => h) fun s h => (congrArg Lnk.reply (refreshAttn_lnk s)).trans h

/-! ### The queue -/

/-- The queue begins with this record, nothing lost, and with room to spare. -/
structure Reopened (e : Event) (s : State) : Prop where
  first : [e] <+: s.evq.events
  few : s.evq.events.length ≤ 2
  lost : s.evq.lost = 0

theorem Reopened.same {e : Event} (h : Reopened e s) (he : t.evq.events = s.evq.events) (hl : t.evq.lost = s.evq.lost) : Reopened e t := by
  obtain ⟨hfirst, hfew, hlost⟩ := h
  exact ⟨by rw [he]; exact hfirst, by rw [he]; exact hfew, hl.trans hlost⟩

theorem enterCutoff_events (h : s.evq.events.length < 24) : s.enterCutoff.evq.events =
    s.evq.events ++ [s.recordOf .modeChanged Mode.cutoff.code ModeCause.tierCutoff.code none] ∧ s.enterCutoff.evq.lost = s.evq.lost := by
  have hrecord := (record_evq .modeChanged Mode.cutoff.code ModeCause.tierCutoff.code none { s with mdc.mode := .cutoff }).1 h
  have hset : (s.setMode .cutoff .tierCutoff).evq = { s.evq with
      events := s.evq.events ++ [s.recordOf .modeChanged Mode.cutoff.code ModeCause.tierCutoff.code none] } := by
    unfold State.setMode
    rw [hrecord]
    exact congrArg (fun e => { s.evq with
      events := s.evq.events ++ [e] }) rfl
  unfold State.enterCutoff
  have hevents : (s.setMode .cutoff .tierCutoff).evq.events =
      s.evq.events ++ [s.recordOf .modeChanged Mode.cutoff.code ModeCause.tierCutoff.code none] := by rw [hset]
  have hlost : (s.setMode .cutoff .tierCutoff).evq.lost = s.evq.lost := by rw [hset]
  dsimp only
  generalize s.setMode .cutoff .tierCutoff = u at hevents hlost ⊢
  have hnoted : (u.stopHandover.setHolds false false false).forceCutoff.refreshSub.noted = u.noted :=
    (refreshSub_noted _).trans ((forceCutoff_noted _).trans (demandChanged_noted _))
  exact ⟨(noted_events hnoted).trans hevents, (noted_lost hnoted).trans hlost⟩

theorem restarted_reopened (s : State) :
    Reopened (s.resetRunning.resetHolds.resetLink.recordOf .partReset s.resetRunning.resetHolds.resetLink.mdc.mode.code 1 none) s.restarted ∧
      s.restarted.evq.events.length = 1 := by
  obtain ⟨hevents, hlost, -, -⟩ := resetEvents_begun s.resetRunning.resetHolds.resetLink
  have hlen : s.restarted.evq.events.length = 1 := by
    unfold State.restarted
    rw [hevents]
    rfl
  exact ⟨⟨by unfold State.restarted; rw [hevents], by omega, hlost⟩, hlen⟩

theorem softwareReset_reopened (s : State) :
    Reopened (s.resetRunning.resetHolds.resetLink.recordOf .partReset s.resetRunning.resetHolds.resetLink.mdc.mode.code 1 none)
      s.softwareReset := by
  obtain ⟨hopen, hlen⟩ := restarted_reopened s
  rw [softwareReset_eq]
  split
  · obtain ⟨hevents, hlost⟩ := enterCutoff_events (s := s.restarted) (by omega)
    obtain ⟨hfirst, -, hnone⟩ := hopen
    refine ⟨?_, ?_, hlost.trans hnone⟩
    · rw [hevents]
      exact hfirst.trans (List.prefix_append _ _)
    · rw [hevents, List.length_append, List.length_singleton]
      omega
  · exact hopen

theorem concluded_evq (s : State) : s.concluded.evq.events = s.evq.events ∧ s.concluded.evq.lost = s.evq.lost := by
  have hreleased : s.clearReply.releaseD0.noted = s.noted := by
    unfold State.releaseD0
    dsimp only
    split
    · exact (demandChanged_noted _).trans (enterOff_noted _ 0)
    · rfl
  have hpulse : ∀ u : State, u.pulseAfterRead.evq.events = u.evq.events ∧ u.pulseAfterRead.evq.lost = u.evq.lost := fun u => by
    unfold State.pulseAfterRead
    dsimp only
    split <;> exact ⟨rfl, rfl⟩
  obtain ⟨hevents, hlost⟩ := hpulse s.clearReply.releaseD0
  exact ⟨hevents.trans (noted_events hreleased), hlost.trans (noted_lost hreleased)⟩

end

end Sys2Proof.Machine
end

section
/-! The domains where the work of a software reset ends: none LATCHED, none but D0 with a failure, up only on demand, and in CUTOFF none at all
(R15, R33). -/

namespace Sys2Proof.Machine

section
variable {s t : State} {d : DomId}

/-! ### Which way the reset ends -/

/-- The reset ends in CUTOFF: IGN low at that tier (R15). -/
def State.cutAtReset (s : State) : Prop := s.mdc.ign.debounced = false ∧ s.btm.tier = .cutoff

theorem emptied_inputs (s : State) : s.emptied.mdc.ign = s.mdc.ign ∧ s.emptied.btm = s.btm ∧
    ∀ d, (s.emptied.dom d).entry = (s.dom d).entry := by
  have hclosed : (s.closeWhere (fun _ => true) .reset).resetLines.base = s.base := by simp
  have hign := base_ign hclosed
  have hbtm := base_btm hclosed
  have hentry := base_entry hclosed
  exact ⟨hign, hbtm, hentry⟩

theorem reheld_inputs (s : State) : s.reheld.mdc.mode = (if s.mdc.ign.debounced then .drive else .handover) ∧
    s.reheld.btm.tier = s.btm.tier ∧ s.reheld.power = s.power := ⟨rfl, rfl, rfl⟩

theorem reheld_dom (s : State) (d : DomId) : s.reheld.dom d = s.dom d := rfl

theorem resetRunning_inputs (s : State) : s.resetRunning.mdc.ign = s.mdc.ign ∧ s.resetRunning.btm = s.btm := by
  obtain ⟨hign, hbtm, -⟩ := emptied_inputs s
  have hforced := forceReset_base s.emptied
  rw [resetRunning_eq]
  exact ⟨(base_ign hforced).trans hign, (base_btm hforced).trans hbtm⟩

theorem base_of_restarted {y r : State} {tm : Option Nat} {k : Lnk} {q : Evq} {w : Work}
    (h : r = { y with
      mdc.handoverTimer := tm, lnk := k, evq := q, work := w }) : r.mdc.mode = y.mdc.mode ∧ r.btm = y.btm := by
  subst h
  exact ⟨rfl, rfl⟩

theorem restarted_base (s : State) : s.restarted.mdc.mode = (if s.mdc.ign.debounced then .drive else .handover) ∧
    s.restarted.btm.tier = s.btm.tier := by
  obtain ⟨hign, hbtm⟩ := resetRunning_inputs s
  obtain ⟨tm, l, q, w, heq⟩ := restarted_same s
  obtain ⟨hmode, htier, -⟩ := reheld_inputs s.resetRunning
  have hsettled := demandChanged_base s.resetRunning.reheld
  rw [hign] at hmode
  rw [hbtm] at htier
  obtain ⟨hkept, hsame⟩ := base_of_restarted heq
  exact ⟨hkept.trans ((base_mode hsettled).trans hmode), (congrArg Btm.tier (hsame.trans (base_btm hsettled))).trans htier⟩

theorem softwareReset_cut (h : s.cutAtReset) : s.softwareReset = s.restarted.enterCutoff := by
  obtain ⟨hmode, htier⟩ := restarted_base s
  obtain ⟨hign, hcut⟩ := h
  rw [softwareReset_eq, if_pos]
  rw [hmode, htier, hign, hcut]
  rfl

theorem softwareReset_uncut (h : ¬ s.cutAtReset) : s.softwareReset = s.restarted := by
  obtain ⟨hmode, htier⟩ := restarted_base s
  rw [softwareReset_eq, hmode, htier, if_neg]
  simp only [Bool.and_eq_true, decide_eq_true_eq]
  rintro ⟨hhandover, hcut⟩
  refine h ⟨?_, hcut⟩
  cases hign : s.mdc.ign.debounced
  · rfl
  · rw [hign] at hhandover
    cases hhandover

/-- What the placing of the holds leaves, and the later stages do not touch. -/
theorem restarted_of {P : State → Prop}
    (same : ∀ s tm l q w, P s → P { s with
      mdc.handoverTimer := tm, lnk := l, evq := q, work := w }) (h : P s.resetRunning.reheld.demandChanged) : P s.restarted := by
  obtain ⟨tm, l, q, w, heq⟩ := restarted_same s
  rw [heq]
  exact same _ tm l q w h

/-- What the work at the reply's end after a software reset keeps. -/
theorem concluded_of {P : State → Prop} (clear : ∀ s : State, P s → P s.clearReply) (forget : ∀ s, P s → P { s with dmc.d0Held := none })
    (off : ∀ s, P s → P (s.enterOff 0)) (changed : ∀ s, P s → P s.demandChanged) (evq : ∀ s q, P s → P { s with evq := q }) (h : P s) :
    P s.concluded := by
  have hreleased : P s.clearReply.releaseD0 := by
    have hfree := forget _ (clear s h)
    unfold State.releaseD0
    dsimp only
    split
    · exact changed _ (off _ hfree)
    · exact hfree
  unfold State.concluded
  obtain ⟨q, hq⟩ := pulseAfterRead_eq s.clearReply.releaseD0
  rw [hq]
  exact evq _ q hreleased

/-! ### None LATCHED, none reported -/

/-- No domain LATCHED or flagged, whatever is noted. -/
def Latchless (s : State) : Prop := Unlatched s.work.blocked s

theorem Latchless.same (h : Latchless s) (hd : ∀ e, t.dom e = s.dom e) : Latchless t :=
  ⟨fun d => by rw [hd]; exact h.latch d, fun d => by rw [hd]; exact h.flags d, rfl⟩

theorem Unlatched.latchless {marks : List DomId} (h : Unlatched marks s) : Latchless s := ⟨h.latch, h.flags, rfl⟩

theorem restarted_unlatched (s : State) : Unlatched [] s.restarted := by
  have hlatchless : Latchless s.restarted := restarted_of (fun _ _ _ _ _ h => h.same fun _ => rfl) (by
    have hreset : Latchless s.resetRunning := by
      rw [resetRunning_eq]
      exact (forceReset_unlatched s.emptied).latchless
    have hheld : Latchless s.resetRunning.reheld := hreset.same (reheld_dom s.resetRunning)
    exact ((Unlatched.orderly _).demandChanged hheld).latchless)
  obtain ⟨-, -, -, hmarks⟩ := resetEvents_begun s.resetRunning.resetHolds.resetLink
  exact ⟨hlatchless.latch, hlatchless.flags, hmarks⟩

theorem softwareReset_unlatched (s : State) : Unlatched [] s.softwareReset := by
  have hrestarted := restarted_unlatched s
  rw [softwareReset_eq]
  split
  · exact enterCutoff_keeps (P := Unlatched []) (fun s m c h => h.same (fun e => record_dom ..) (record_blocked s _ m c none))
      (fun _ _ h => h.same (fun _ => rfl) rfl) (fun _ h => (Unlatched.orderly _).demandChanged h)
      (fun _ hm h => (Unlatched.orderly _).forceCutoff hm h) (fun _ h => h.refreshSub) hrestarted
  · exact hrestarted

theorem Unlatched.concluded {marks : List DomId} (h : Unlatched marks s) : Unlatched marks s.concluded :=
  concluded_of (fun _ h => h.same (fun _ => rfl) rfl) (fun _ h => h.same (fun _ => rfl) rfl) (fun _ h => h.enterOff 0)
    (fun _ h => (Unlatched.orderly _).demandChanged h) (fun _ _ h => h.same (fun _ => rfl) rfl) h

/-! ### None but D0 with a failure -/

theorem emptied_rampHeld (h : RampHeld s) : RampHeld s.emptied :=
  (RampHeld.closed.resetLines (RampHeld.closed.closeWhere (fun _ => true) .reset h)).same rfl

theorem resetRunning_rampHeld (h : RampHeld s) : RampHeld s.resetRunning := by
  rw [resetRunning_eq]
  exact forceReset_rampHeld (emptied_rampHeld h)

theorem resetRunning_cleared (h : RampHeld s) (hd : d ≠ 0) : Cleared d false s.resetRunning := by
  have hheld := resetRunning_rampHeld h
  have hoff : (s.resetRunning.dom d).state = .off := by
    rw [resetRunning_eq]
    exact (forceReset_dom s.emptied d).2.2 hd
  exact ⟨(hheld.domains d).off hoff, by rw [hoff]; decide, by rw [hoff]; decide, fun hx => by cases hx⟩

theorem restarted_cleared (h : RampHeld s) (hd : d ≠ 0) : Cleared d false s.restarted := by
  have hheld : Cleared d false s.resetRunning.reheld := (resetRunning_cleared h hd).same (reheld_dom s.resetRunning)
  exact restarted_of (fun _ _ _ _ _ h => h.same fun _ => rfl) hheld.demandChanged

theorem Cleared.forceCutoff {kids : Bool} (h : Cleared d kids s) : Cleared d kids s.forceCutoff :=
  foldl_closed State.forceStep (fun t e ht => by
    unfold State.forceStep
    split
    · exact ht
    · exact ht.forceOff e) domIdsDown h

theorem softwareReset_cleared (h : RampHeld s) (hd : d ≠ 0) : Cleared d false s.softwareReset := by
  have hrestarted := restarted_cleared h hd
  rw [softwareReset_eq]
  split
  · exact enterCutoff_keeps (P := Cleared d false) (fun s m c h => h.same fun e => record_dom ..) (fun _ _ h => h.same fun _ => rfl)
      (fun _ h => h.demandChanged) (fun _ _ h => h.forceCutoff) (fun s h => h.same fun e => refreshSub_dom s e) hrestarted
  · exact hrestarted

theorem Cleared.concluded {kids : Bool} (h : Cleared d kids s) : Cleared d kids s.concluded :=
  concluded_of (fun _ h => h.same fun _ => rfl) (fun _ h => h.same fun _ => rfl) (fun _ h => h.enterOff 0) (fun _ h => h.demandChanged)
    (fun _ _ h => h.same fun _ => rfl) h

/-! ### Up only on demand -/

theorem risen_of_off (hm : s.mdc.mode ≠ .cutoff) (hroot : (s.dom 0).entry.parent = none) (hr : RampHeld s)
    (hoff : ∀ d, d ≠ 0 → (s.dom d).state = .off) : Risen s :=
  ⟨hm, hroot, fun d hd _ => hr.arbiter.queued d hd, fun d hd => .inl (hoff d hd)⟩

theorem root_of_tree (h : TreeSound s) : (s.dom 0).entry.parent = none := by
  cases hp : (s.dom 0).entry.parent with
  | none => rfl
  | some p => exact absurd (h 0 p hp).1 (Nat.not_lt_zero p.val)

theorem resetRunning_entry (s : State) (d : DomId) : (s.resetRunning.dom d).entry = (s.dom d).entry := by
  rw [resetRunning_eq]
  exact (base_entry (forceReset_base s.emptied) d).trans ((emptied_inputs s).2.2 d)

theorem reheld_mode_ne (s : State) : s.reheld.mdc.mode ≠ .cutoff := by
  have hmode : s.reheld.mdc.mode = if s.mdc.ign.debounced then .drive else .handover := rfl
  rw [hmode]
  split <;> decide

theorem reheld_risen (h : RampHeld s) (ht : TreeSound s) : Risen s.resetRunning.reheld := by
  have hheld := resetRunning_rampHeld h
  have hentry := resetRunning_entry s 0
  have hoff : ∀ d, d ≠ 0 → (s.resetRunning.dom d).state = .off := fun d hd => by
    rw [resetRunning_eq]
    exact (forceReset_dom s.emptied d).2.2 hd
  generalize s.resetRunning = u at *
  exact risen_of_off (s := u.reheld) (reheld_mode_ne u) (hentry ▸ root_of_tree ht) (hheld.same rfl) hoff

theorem Risen.alikeSame (h : Risen s) (ha : Alike t s) (hp : t.power = s.power) : Risen t := by
  have hr : t.rmp = s.rmp := congrArg Prod.snd hp
  exact h.same ha (fun e => by rw [power_dom hp]) fun e he _ => .inl (by rwa [hr] at he)

theorem restarted_risen (h : RampHeld s) (ht : TreeSound s) : Risen s.restarted :=
  restarted_of (fun _ _ _ _ _ h => h.alikeSame ⟨rfl, rfl, ⟨rfl, rfl, rfl⟩, fun _ => rfl, rfl⟩ rfl)
    (Risen.orderly.demandChanged (reheld_risen h ht))

theorem Risen.concluded (h : Risen s) : Risen s.concluded :=
  concluded_of (fun _ h => h.alikeSame ⟨rfl, rfl, ⟨rfl, rfl, rfl⟩, fun _ => rfl, rfl⟩ rfl)
    (fun _ h => h.same ⟨rfl, rfl, ⟨rfl, rfl, rfl⟩, fun _ => rfl, rfl⟩ (fun _ => rfl) fun _ he _ => .inl he)
    (fun _ h => h.enterOff 0 (.inl rfl)) (fun _ h => Risen.orderly.demandChanged h)
    (fun _ _ h => h.alikeSame ⟨rfl, rfl, ⟨rfl, rfl, rfl⟩, fun _ => rfl, rfl⟩ rfl) h

theorem ramped_kept (hw : s.work.resume = none) : s.ramped.base = s.base ∧ s.ramped.ssc = s.ssc := by
  unfold State.ramped
  rw [resumeNow_none hw]
  have hdeep : (State.grants 12 s.settle.enqueueArrivals).deep = s.deep := by
    rw [grants_deep, enqueueArrivals_deep, settle_deep]
  have hssc : s.settle.enqueueArrivals.ssc = s.ssc := by rw [enqueueArrivals_ssc, settle_ssc]
  exact ⟨deep_base hdeep, (Domestic.sameSessions s.ssc).grants 12 hssc⟩

/-- After the event's end a domain but D0 that is not demanded is OFF. -/
theorem Risen.finish (h : Risen s) (hw : s.work.resume = none) (hs : s.ssc.sessions = []) (hd : d ≠ 0) (hdem : s.finish.demand d = 0) :
    (s.finish.dom d).state = .off := by
  have hramped := h.ramped hw
  obtain ⟨hbase, hssc⟩ := ramped_kept hw
  have halike : Alike s.finish s.ramped :=
    alike_of_base ((finish_base s).trans hbase.symm) (congrArg Ssc.sessions ((finish_ssc_of_empty hs).trans hssc.symm))
  have hdemand : s.finish.demand d = s.ramped.demand d := (SameDemand.of_alike halike fun e => (fields_of_owner (finish_dom s e)).1).demand d
  rw [(fields_of_owner (finish_dom s d)).1]
  rcases hramped.up d hd with hoff | ⟨hup, -⟩
  · exact hoff
  · rw [hdemand] at hdem
    exact absurd hdem hup

end

end Sys2Proof.Machine
end

section
/-! The domains where a software reset ends in CUTOFF: every one is OFF, D0 too once no reply is being sent (R11, R33, R35). -/

namespace Sys2Proof.Machine

section
variable {s t : State} {d : DomId}

theorem sessionDemands_of_empty (h : s.ssc.sessions = []) (d : DomId) : s.sessionDemands d = false := by
  unfold State.sessionDemands State.sessionSets
  rw [h]
  rfl

/-- CUTOFF entered, before the forced switch-off. -/
def State.cutHolds (s : State) : State := (s.setMode .cutoff .tierCutoff).stopHandover.setHolds false false false

theorem enterCutoff_eq (s : State) : s.enterCutoff = s.cutHolds.forceCutoff.refreshSub := rfl

theorem cutHolds_facts (s : State) : s.cutHolds.mdc.mode = .cutoff ∧ s.cutHolds.ssc = s.ssc := by
  have hmode : (s.setMode .cutoff .tierCutoff).mdc.mode = .cutoff := (base_mode (setMode_base s .cutoff .tierCutoff)).trans rfl
  have hssc : (s.setMode .cutoff .tierCutoff).ssc = s.ssc := record_ssc ..
  unfold State.cutHolds
  generalize s.setMode .cutoff .tierCutoff = u at *
  have hkept : (u.stopHandover.setHolds false false false).mdc.mode = u.mdc.mode :=
    (base_mode (setHolds_base u.stopHandover false false false)).trans rfl
  have hsame : (u.stopHandover.setHolds false false false).ssc = u.ssc := demandChanged_ssc _
  exact ⟨hkept.trans hmode, hsame.trans hssc⟩

theorem cutHolds_silent (h : Silent s) : Silent s.cutHolds := by
  have hset : Silent (s.setMode .cutoff .tierCutoff) :=
    Silent.domestic.record { s with mdc.mode := .cutoff } .modeChanged Mode.cutoff.code ModeCause.tierCutoff.code none rfl h
  have hheld : ∀ u : State, Silent u → Silent (u.stopHandover.setHolds false false false) := fun u hu => by
    have hplaced : Silent { u.stopHandover with
        mdc.driveHold := false, mdc.handoverHold := false, mdc.alwaysHold := false } := hu
    exact Silent.domestic.demandChanged hplaced
  exact hheld _ hset

/-- Entering CUTOFF with no session sheds every domain, D0 apart while a reply is sent (R33, R35). -/
theorem enterCutoff_shed (hs : s.ssc.sessions = []) (h0 : d = 0 → Silent s) : Shed d s.enterCutoff := by
  obtain ⟨hmode, hssc⟩ := cutHolds_facts s
  have hdemands := sessionDemands_of_empty (s := s.cutHolds) ((congrArg Ssc.sessions hssc).trans hs) d
  have hforced := forceCutoff_shed hmode hdemands fun hd => cutHolds_silent (h0 hd)
  rw [enterCutoff_eq]
  generalize s.cutHolds.forceCutoff = u at hforced
  exact hforced.congr (refreshSub_alike _) (by rw [refreshSub_dom])

/-- A D0 that is not off after CUTOFF entry has its switch-off held (R35). -/
theorem enterCutoff_zero (hs : s.ssc.sessions = []) : (s.enterCutoff.dom 0).state = .off ∨ (s.enterCutoff.dom 0).state = .latched ∨
    s.enterCutoff.dmc.d0Held = some .forced := by
  obtain ⟨-, hssc⟩ := cutHolds_facts s
  have hdemands := sessionDemands_of_empty (s := s.cutHolds) ((congrArg Ssc.sessions hssc).trans hs) 0
  have hzero := (forceCutoff_forced s.cutHolds).zero (by simp) hdemands
  rw [enterCutoff_eq]
  generalize s.cutHolds.forceCutoff = u at hzero
  have hheld : u.refreshSub.dmc.d0Held = u.dmc.d0Held := congrArg Prod.fst (refreshSub_hold u)
  rw [refreshSub_dom, hheld]
  exact hzero

theorem enterCutoff_facts (s : State) : s.enterCutoff.mdc.mode = .cutoff ∧ s.enterCutoff.ssc = s.ssc := by
  obtain ⟨hmode, hssc⟩ := cutHolds_facts s
  rw [enterCutoff_eq]
  generalize s.cutHolds = u at *
  have halike : Alike u.forceCutoff.refreshSub u := (refreshSub_alike _).trans (forceCutoff_alike u)
  have hkept : u.forceCutoff.refreshSub.ssc = u.ssc :=
    (refreshSub_ssc _).trans ((Domestic.sameSessions u.ssc).forceCutoff rfl)
  exact ⟨halike.mode.trans hmode, hkept.trans hssc⟩

theorem Shed.clearReply (h : Shed d s) : Shed d s.clearReply := h.congr ⟨rfl, rfl, ⟨rfl, rfl, rfl⟩, fun _ => rfl, rfl⟩ rfl

theorem Shed.forget (h : Shed d s) : Shed d { s with dmc.d0Held := none } := h.congr ⟨rfl, rfl, ⟨rfl, rfl, rfl⟩, fun _ => rfl, rfl⟩ rfl

theorem Shed.concluded (h : Shed d s) : Shed d s.concluded :=
  concluded_of (fun _ h => h.clearReply) (fun _ h => h.forget) (fun _ h => h.enterOff 0) (fun _ h => h.demandChanged)
    (fun _ _ h => h.congr ⟨rfl, rfl, ⟨rfl, rfl, rfl⟩, fun _ => rfl, rfl⟩ rfl) h

/-- The reply's end carries out the forced switch-off that was held (R35). -/
theorem concluded_shed_zero (hm : s.mdc.mode = .cutoff) (hs : s.ssc.sessions = [])
    (h0 : (s.dom 0).state = .off ∨ (s.dom 0).state = .latched ∨ s.dmc.d0Held = some .forced) : Shed 0 s.concluded := by
  have hdemands := sessionDemands_of_empty hs 0
  by_cases hdown : (s.dom 0).state = .off ∨ (s.dom 0).state = .latched
  · exact Shed.concluded ⟨hm, hdemands, hdown⟩
  · have hforced : s.dmc.d0Held = some .forced := h0.elim (fun h => absurd (.inl h) hdown) (Or.elim · (fun h => absurd (.inr h) hdown) id)
    have hcleared : s.clearReply.dmc.d0Held = some .forced ∧ s.clearReply.mdc.mode = .cutoff ∧ s.clearReply.sessionDemands 0 = false :=
      ⟨hforced, hm, hdemands⟩
    unfold State.concluded
    generalize s.clearReply = u at hcleared
    obtain ⟨hheld, hmode, hnone⟩ := hcleared
    have hstands : u.heldStands = true := by
      unfold State.heldStands
      rw [hheld]
      simp [hmode, hnone]
    have hfree : Alike { u with dmc.d0Held := none } u := ⟨rfl, rfl, ⟨rfl, rfl, rfl⟩, fun _ => rfl, rfl⟩
    have hoff : Shed 0 (State.enterOff { u with dmc.d0Held := none } 0) := by
      have halike := (enterOff_alike { u with dmc.d0Held := none } 0).trans hfree
      exact ⟨halike.mode.trans hmode, (halike.sessionDemands 0).trans hnone, .inl (by rw [enterOff_state, if_pos rfl])⟩
    have hreleased : Shed 0 u.releaseD0 := by
      unfold State.releaseD0
      dsimp only
      rw [if_pos hstands]
      exact hoff.demandChanged
    obtain ⟨q, hq⟩ := pulseAfterRead_eq u.releaseD0
    rw [hq]
    exact hreleased.congr ⟨rfl, rfl, ⟨rfl, rfl, rfl⟩, fun _ => rfl, rfl⟩ rfl

/-- A domain that is shed, and not LATCHED, is OFF after the event's end. -/
theorem Shed.finish (h : Shed d s) (hr : RampHeld s) (hw : s.work.resume = none) (hl : (s.finish.dom d).state ≠ .latched) :
    (s.finish.dom d).state = .off := by
  have hramped : Shed d s.ramped := by
    rw [State.ramped, resumeNow_none hw]
    exact h.settle.enqueueArrivals.grants (enqueueArrivals_rampSound (settle_rampHeld hr)) 12
  rw [(fields_of_owner (finish_dom s d)).1] at hl ⊢
  exact hramped.down.resolve_right hl

end

end Sys2Proof.Machine
end

section
/-! D0 where a software reset places the holds of DRIVE or HANDOVER, each of which has it in its set: one that is live is ON, one that is not
comes up (R2, R15, R24, R28). -/

namespace Sys2Proof.Machine

section
variable {s t : State} {d : DomId}

/-- The holds of a mode are placed, and one of them has D0 in its set. -/
structure Placed0 (s : State) : Prop where
  mode : s.mdc.mode ≠ .cutoff
  always : s.mdc.alwaysHold = true
  holders : s.directHolders 0 ≠ 0

namespace Placed0

theorem alike (h : Placed0 s) (ha : Alike t s) : Placed0 t :=
  ⟨by rw [ha.mode]; exact h.mode, ha.holds.2.2.trans h.always, by rw [ha.directHolders]; exact h.holders⟩

theorem demand (h : Placed0 s) : s.demand 0 ≠ 0 := (demand_ne_zero s 0).2 (.inl h.holders)

theorem forget (h : Placed0 s) : Placed0 { s with dmc.d0Held := none } := h.alike ⟨rfl, rfl, ⟨rfl, rfl, rfl⟩, fun _ => rfl, rfl⟩

/-- No cause of a switch-off of D0 stands. -/
theorem heldStands (h : Placed0 s) : s.heldStands = false := by
  unfold State.heldStands
  split
  · rfl
  · simpa using h.demand
  · simpa using fun hm => absurd hm h.mode

theorem transitionOf_zero (h : Placed0 s) : s.transitionOf 0 = State.transition { s with dmc.d0Held := none } 0 := by
  unfold State.transitionOf
  rw [h.heldStands]
  cases hh : s.dmc.d0Held with
  | none =>
    have hsame : ({ s with dmc.d0Held := none } : State) = s := by rw [← hh]
    rw [hsame]
    rfl
  | some c => rfl

theorem transition_live (h : Placed0 s) (hs : (s.dom 0).state.live = true) :
    s.transition 0 = s ∧ (s.dom 0).state = .on ∨ s.transition 0 = s.setState 0 .on 0 := by
  have hguard : s.unwantedInCutoff 0 = false := by simp [State.unwantedInCutoff, h.mode]
  have hdem := h.demand
  unfold State.transition
  rw [hguard]
  cases hstate : (s.dom 0).state
  case on => exact .inl ⟨by simp [hdem], rfl⟩
  case holdoff => exact .inr (by simp [hdem])
  all_goals
    rw [hstate] at hs
    cases hs

/-- D0 is OFF no longer. -/
theorem transition_up (h : Placed0 s) (hl : (s.dom 0).state ≠ .latched) :
    ((s.transition 0).dom 0).state ≠ .off ∧ ((s.transition 0).dom 0).state ≠ .latched := by
  have hguard : s.unwantedInCutoff 0 = false := by simp [State.unwantedInCutoff, h.mode]
  have hplaced : s.holdsPlaced = true := by simp [State.holdsPlaced, h.mode, h.always]
  have hdem := h.demand
  unfold State.transition
  rw [hguard, hplaced]
  cases hstate : (s.dom 0).state <;> simp [hdem, hstate, enterQueued_state]
  exact hl hstate

end Placed0

/-! ### The transitions of the others, and then D0's -/

/-- The transitions of every domain but D0 (R21). -/
def State.settleOthers (s : State) : State := [11, 10, 9, 8, 7, 6, 5, 4, 3, 2, 1].foldl State.transitionOf s

theorem settle_eq (s : State) : s.settle = s.settleOthers.transitionOf 0 := by
  have hsplit : domIdsDown = [11, 10, 9, 8, 7, 6, 5, 4, 3, 2, 1] ++ [0] := rfl
  unfold State.settle State.settleOthers
  rw [hsplit, List.foldl_append, List.foldl_cons, List.foldl_nil]

theorem settleOthers_alike (s : State) : Alike s.settleOthers s :=
  foldl_closed (P := fun t => Alike t s) State.transitionOf (fun t d ht => (transitionOf_alike t d).trans ht) _ (Alike.refl s)

/-- D0 ON for good: nothing holds back a switch-off of it. -/
structure Stays0 (n : Nat) (s : State) : Prop where
  state : (s.dom 0).state = .on
  attempts : (s.dom 0).attempts = n
  free : s.dmc.d0Held = none

theorem Stays0.same {n : Nat} (h : Stays0 n s) (hd : t.dom 0 = s.dom 0) (hh : t.dmc.d0Held = s.dmc.d0Held) : Stays0 n t :=
  ⟨by rw [hd]; exact h.state, by rw [hd]; exact h.attempts, hh.trans h.free⟩

/-- The holds placed leave a D0 that is serving a reply ON. -/
theorem Serving0.changed {n : Nat} (h : Serving0 n s) (hp : Placed0 s) : Stays0 n s.demandChanged := by
  have hplaced : Placed0 s.settleOthers := hp.alike (settleOthers_alike s)
  have hserving : Serving0 n s.settleOthers := (Serving0.orderly n).transitions _ h
  have hsettled : Stays0 n s.settle := by
    rw [settle_eq]
    generalize s.settleOthers = u at *
    rw [hplaced.transitionOf_zero]
    have hlive : (({ u with dmc.d0Held := none } : State).dom 0).state.live = true := hserving.live
    have hattempts : (({ u with dmc.d0Held := none } : State).dom 0).attempts = n := hserving.attempts
    have hfree : ({ u with dmc.d0Held := none } : State).dmc.d0Held = none := rfl
    have hready := hplaced.forget
    have hkept : ∀ v : State, (v.setState 0 .on 0).hold = v.hold := fun v => by
      rw [setState_hold_zero, if_neg (by simp [DomState.live])]
    generalize ({ u with dmc.d0Held := none } : State) = w at *
    rcases hready.transition_live hlive with ⟨heq, hon⟩ | heq <;> rw [heq]
    · exact ⟨hon, hattempts, hfree⟩
    · exact ⟨by rw [setState_state, if_pos rfl], by rw [setState_dom_self]; exact hattempts, (congrArg Prod.fst (hkept w)).trans hfree⟩
  unfold State.demandChanged
  generalize s.settle = v at hsettled
  exact hsettled.same (refreshSub_dom v 0) (congrArg Prod.fst (refreshSub_hold v))

/-- The holds placed take a D0 that is not LATCHED out of OFF. -/
theorem Placed0.changed (hp : Placed0 s) (hl : Latchless s) : Wanted0 s.demandChanged := by
  have halike := settleOthers_alike s
  have hlatchless : Latchless s.settleOthers := ((Unlatched.orderly _).transitions _ hl).latchless
  have hplaced : Placed0 s.settleOthers := hp.alike halike
  have hup : ((s.settleOthers.transitionOf 0).dom 0).state ≠ .off ∧ ((s.settleOthers.transitionOf 0).dom 0).state ≠ .latched := by
    generalize s.settleOthers = u at *
    rw [hplaced.transitionOf_zero]
    exact hplaced.forget.transition_up (hlatchless.latch 0)
  have hchanged : Placed0 s.demandChanged := hp.alike ((refreshSub_alike s.settle).trans (settle_alike s))
  refine ⟨hchanged.mode, hchanged.holders, ?_⟩
  rw [demandChanged_dom, settle_eq]
  exact hup

/-! ### The holds of DRIVE and HANDOVER have D0 in their sets -/

theorem reheld_placed (he : (s.dom 0).entry.enabled = true) : Placed0 s.reheld := by
  refine ⟨reheld_mode_ne s, rfl, ?_⟩
  have hentry : (s.reheld.dom 0).entry.enabled = true := he
  have hholds : s.reheld.mdc.driveHold = s.mdc.ign.debounced ∧ s.reheld.mdc.handoverHold = !s.mdc.ign.debounced := ⟨rfl, rfl⟩
  generalize s.reheld = u at *
  obtain ⟨hdrive, hhandover⟩ := hholds
  have hfound : ∃ S ∈ u.holdSets ++ u.sessionSets, hasDom S 0 = true := by
    cases hign : s.mdc.ign.debounced <;> rw [hign] at hdrive hhandover
    · refine ⟨u.handoverSet, ?_, ?_⟩
      · simp [State.holdSets, hhandover]
      · rw [State.handoverSet, hasDom_domSetOf, hentry]
        rfl
    · refine ⟨u.driveSet, ?_, ?_⟩
      · simp [State.holdSets, hdrive]
      · rw [State.driveSet, hasDom_domSetOf, hentry]
        rfl
  obtain ⟨S, hS, hin⟩ := hfound
  unfold State.directHolders
  rw [Nat.ne_zero_iff_zero_lt, List.countP_pos_iff]
  exact ⟨S, hS, hin⟩

end

end Sys2Proof.Machine
end

section
/-! D0 through a software reset: kept ON where a reply's end performs it, on its way up again where a power-good loss does (R15, R35, R181). -/

namespace Sys2Proof.Machine

section
variable {s t : State} {d : DomId}

/-- What only D0, its held switch-off and the reply decide, and the transitions keep, every part of an event keeps. -/
theorem Orderly.closed {P : State → Prop} (k : Orderly P) (forceOff : ∀ s d, P s → P (State.forceOff s d))
    (same : ∀ s t : State, t.dom 0 = s.dom 0 → t.hold = s.hold → P s → P t) : Closed P where
  settle _ h := k.settle h
  record s k a b v _ h := same s _ (record_dom ..) (record_hold ..) h
  refreshSub _ h := k.refreshSub _ h
  mdc s m h := same s _ rfl rfl h
  line s _ _ h := same s _ rfl rfl h
  apq s _ h := same s _ rfl rfl h
  session s _ _ _ h := same s _ rfl rfl h
  suspended s _ _ _ h := same s _ rfl rfl h
  removed s _ h := same s _ rfl rfl h
  takeId s h := same s _ rfl rfl h
  created s _ _ _ _ _ _ _ _ _ _ _ _ h := same s _ rfl rfl h
  charged s _ _ h := same s _ rfl rfl h
  chm s _ h := same s _ rfl rfl h
  btm s _ h := same s _ rfl rfl h
  advance s e d _ h := by
    rw [advance_eq]
    exact same s _ rfl rfl h
  setPending s _ _ h := same s _ rfl rfl h
  noSched s h := same s _ rfl rfl h
  clock s _ _ h := same s _ rfl rfl h
  resume s _ h := same s _ rfl rfl h
  forceCutoff _ h := foldl_closed State.forceStep (fun t d ht => by
    unfold State.forceStep
    split
    · exact ht
    · exact forceOff t d ht) domIdsDown h

theorem emptied_keeps {P : State → Prop} (k : Closed P) (same : ∀ s t : State, t.dom 0 = s.dom 0 → t.hold = s.hold → P s → P t) (h : P s) :
    P s.emptied := by
  have hclosed := k.resetLines (k.closeWhere (fun _ => true) .reset h)
  unfold State.emptied
  generalize (s.closeWhere (fun _ => true) .reset).resetLines = u at hclosed
  exact same u _ rfl rfl hclosed

theorem reheld_hold (s : State) : s.reheld.hold = s.hold := rfl

/-! ### D0 kept -/

namespace Serving0

variable {n : Nat}

theorem resetStep (h : Serving0 n s) (d : DomId) : Serving0 n (s.resetStep d) := by
  unfold State.resetStep
  split
  · next hl => exact h.enterOff (h.ne_of_dark (by rw [hl]; rfl))
  · split
    · exact h
    · exact h.forceOff d

theorem dropFlag (h : Serving0 n s) (d : DomId) : Serving0 n (s.dropFlag d) := by
  refine h.same ?_ rfl
  unfold State.dropFlag
  rw [dom_updDom]
  split
  · next hd =>
    rw [hd]
    exact ⟨rfl, rfl⟩
  · exact ⟨rfl, rfl⟩

theorem resetRunning (h : Serving0 n s) : Serving0 n s.resetRunning := by
  have hsame : ∀ s t : State, t.dom 0 = s.dom 0 → t.hold = s.hold → Serving0 n s → Serving0 n t := fun _ _ hd hh hx => hx.other hd hh
  rw [resetRunning_eq]
  exact forceReset_keeps (fun _ d h => h.resetStep d) (fun _ d h => h.dropFlag d)
    (emptied_keeps ((orderly n).closed (fun _ d h => h.forceOff d) hsame) hsame h)

/-- The reset keeps ON a D0 that is serving a reply (R15, R35). -/
theorem restarted (h : Serving0 n s) (he : (s.dom 0).entry.enabled = true) : Stays0 n s.restarted := by
  have hrunning := h.resetRunning
  have hplaced := reheld_placed (s := s.resetRunning) (by rw [resetRunning_entry]; exact he)
  have hheld : Serving0 n s.resetRunning.reheld := hrunning.other (reheld_dom s.resetRunning 0) (reheld_hold s.resetRunning)
  exact restarted_of (fun _ _ _ _ _ h => h.same rfl rfl) (hheld.changed hplaced)

end Serving0

theorem Stays0.concluded {n : Nat} (h : Stays0 n s) : Stays0 n s.concluded := by
  have hcleared : Stays0 n s.clearReply := h.same rfl rfl
  unfold State.concluded
  generalize s.clearReply = u at hcleared
  have hstands : u.heldStands = false := by
    unfold State.heldStands
    rw [hcleared.free]
  have hreleased : Stays0 n u.releaseD0 := by
    unfold State.releaseD0
    dsimp only
    rw [if_neg (by rw [hstands]; decide)]
    exact hcleared.same rfl hcleared.free.symm
  obtain ⟨q, hq⟩ := pulseAfterRead_eq u.releaseD0
  rw [hq]
  exact hreleased.same rfl rfl

theorem Stays0.finish {n : Nat} (h : Stays0 n s) (hp : Placed0 s) (hr : RampHeld s) (hw : s.work.resume = none) :
    (s.finish.dom 0).state = .on ∧ (s.finish.dom 0).attempts = n := by
  have hrest : Resting 0 s := ⟨hp.mode, .inl ⟨hp.holders, .inl h.state⟩⟩
  obtain ⟨hdom, -⟩ := finish_rest hw hr hrest (by rw [h.state]; decide)
  obtain ⟨hstate, -, -, hattempts, -⟩ := fields_of_owner hdom
  exact ⟨hstate.trans h.state, hattempts.trans h.attempts⟩

/-! ### D0 lost -/

namespace Dark

theorem resetStep (h : Dark s) (d : DomId) : Dark (s.resetStep d) := by
  unfold State.resetStep
  split
  · exact h.enterOff d
  · split
    · exact h
    · exact h.forceOff d

theorem dropFlag (h : Dark s) (d : DomId) : Dark (s.dropFlag d) := by
  refine h.same ?_
  unfold State.dropFlag
  rw [dom_updDom]
  split
  · next hd =>
    rw [hd]
    exact ⟨rfl, rfl⟩
  · exact ⟨rfl, rfl⟩

theorem resetRunning (h : Dark s) : Dark s.resetRunning := by
  have hsame : ∀ s t : State, t.dom 0 = s.dom 0 → t.hold = s.hold → Dark s → Dark t := fun _ _ hd _ hx => hx.same (by rw [hd]; exact ⟨rfl, rfl⟩)
  rw [resetRunning_eq]
  exact forceReset_keeps (fun _ d h => h.resetStep d) (fun _ d h => h.dropFlag d)
    (emptied_keeps (orderly.closed (fun _ d h => h.forceOff d) hsame) hsame h)

theorem restarted (h : Dark s) : Dark s.restarted := by
  have hrunning := h.resetRunning
  have hheld : Dark s.resetRunning.reheld := hrunning.same (by rw [reheld_dom]; exact ⟨rfl, rfl⟩)
  exact restarted_of (fun _ _ _ _ _ h => h.same ⟨rfl, rfl⟩) (orderly.demandChanged hheld)

theorem softwareReset (h : Dark s) : Dark s.softwareReset := by
  rw [softwareReset_eq]
  split
  · exact enterCutoff_keeps (P := Dark) (fun s m c h => h.same (by rw [record_dom]; exact ⟨rfl, rfl⟩)) (fun _ _ h => h.same ⟨rfl, rfl⟩)
      (fun _ h => orderly.demandChanged h) (fun _ hm h => orderly.forceCutoff hm h) orderly.refreshSub h.restarted
  · exact h.restarted

theorem finish (h : Dark s) (hw : s.work.resume = none) : (s.finish.dom 0).state.live = false := by
  rw [(fields_of_owner (finish_dom s 0)).1]
  exact (h.ramped hw).dark

end Dark

/-- The reset's holds take D0 out of OFF (R15, R24). -/
theorem restarted_wanted (he : (s.dom 0).entry.enabled = true) : Wanted0 s.restarted := by
  have hlatchless : Latchless s.resetRunning.reheld := by
    have hreset : Latchless s.resetRunning := by
      rw [resetRunning_eq]
      exact (forceReset_unlatched s.emptied).latchless
    exact hreset.same (reheld_dom s.resetRunning)
  have hplaced := reheld_placed (s := s.resetRunning) (by rw [resetRunning_entry]; exact he)
  exact restarted_of (fun _ _ _ _ _ h => h.congr ⟨rfl, rfl, ⟨rfl, rfl, rfl⟩, fun _ => rfl, rfl⟩ (.inl rfl)) (hplaced.changed hlatchless)

theorem Wanted0.finish (h : Wanted0 s) (hw : s.work.resume = none) :
    (s.finish.dom 0).state ≠ .off ∧ (s.finish.dom 0).state ≠ .latched := by
  rw [(fields_of_owner (finish_dom s 0)).1]
  exact (h.ramped hw).up

end

end Sys2Proof.Machine
end

section
/-! What a software reset has done where only the event's end is left, at a reply's end and after a power-good loss on D0 (R15, R181). -/

namespace Sys2Proof.Machine

section
variable {u w : State}

/-! ### The first record -/

/-- The PART_RESET record of a software reset (R15, R168). -/
def State.rebootRecord (s : State) : Event := s.recordOf .partReset (if s.mdc.ign.debounced then 0 else 1) 1 none

theorem emptied_seconds (s : State) : s.emptied.wsc.seconds = s.wsc.seconds := by
  have hclosed : (s.closeWhere (fun _ => true) .reset).resetLines.base = s.base := by simp
  have hseconds := base_seconds hclosed
  unfold State.emptied
  generalize (s.closeWhere (fun _ => true) .reset).resetLines = v at hseconds
  exact hseconds

theorem tables_seconds {s t : State} (h : t.tables = s.tables) : t.wsc.seconds = s.wsc.seconds :=
  congrArg (fun x : Ssc × Wlu × Apq × Wsc => x.2.2.2.seconds) h

theorem restarted_seconds (s : State) : s.restarted.wsc.seconds = s.wsc.seconds := by
  rw [tables_seconds (restarted_tables s), emptied_seconds]

theorem restarted_first (s : State) :
    s.resetRunning.resetHolds.resetLink.recordOf .partReset s.resetRunning.resetHolds.resetLink.mdc.mode.code 1 none = s.rebootRecord := by
  have hseconds := restarted_seconds s
  have hmode := (restarted_base s).1
  unfold State.restarted at hseconds hmode
  generalize s.resetRunning.resetHolds.resetLink = v at *
  obtain ⟨q, w, heq⟩ := resetEvents_same v
  rw [heq] at hseconds hmode
  have hcode : v.mdc.mode.code = if s.mdc.ign.debounced then 0 else 1 := by
    have hkept : v.mdc.mode = if s.mdc.ign.debounced then .drive else .handover := hmode
    rw [hkept]
    split <;> rfl
  unfold State.rebootRecord
  rw [recordOf_congr (t := v) (s := s) hseconds, hcode]

/-! ### No reply -/

theorem Domestic.orderly {P : State → Prop} (k : Domestic P) : Orderly P where
  forceOff _ d _ h := k.forceOff d h
  enterQueued _ d _ _ h := k.enterQueued d h
  enterOff _ d _ _ h := k.enterOff d h
  powerOff _ d _ _ h := k.powerOff d _ h
  holdoff _ d t _ _ h := k.setState _ d .holdoff t h
  on _ d _ _ h := k.setState _ d .on 0 h
  forget _ h := k.d0Held _ _ h
  refreshSub _ h := k.refreshSub h

theorem silent_timer {s : State} {tm : Option Nat} (h : Silent s) : Silent { s with mdc.handoverTimer := tm } := h

theorem silent_events {s : State} {q : Evq} {w : Work} (h : Silent s) : Silent { s with
    evq := q, work := w } := h

theorem restarted_silent (h : Silent u) : Silent u.restarted := by
  have hsame : ∀ s t : State, t.dom 0 = s.dom 0 → t.hold = s.hold → Silent s → Silent t := fun _ _ _ hh hs => (congrArg Prod.snd hh).trans hs
  have hrunning : Silent u.resetRunning := by
    rw [resetRunning_eq]
    exact Silent.domestic.forceReset
      (emptied_keeps (Silent.domestic.orderly.closed (fun _ d h => Silent.domestic.forceOff d h) hsame) hsame h)
  have hheld : Silent u.resetRunning.reheld.demandChanged :=
    Silent.domestic.demandChanged (hsame _ _ (reheld_dom _ 0) (reheld_hold u.resetRunning) hrunning)
  have hholds : Silent u.resetRunning.resetHolds := by
    obtain ⟨tm, heq⟩ := resetHolds_eq u.resetRunning
    rw [heq]
    exact silent_timer hheld
  unfold State.restarted
  generalize u.resetRunning.resetHolds = v at hholds
  have hlink : Silent v.resetLink := hholds
  obtain ⟨q, w, heq⟩ := resetEvents_same v.resetLink
  rw [heq]
  exact silent_events hlink

theorem softwareReset_silent (h : Silent u) : Silent u.softwareReset :=
  Silent.domestic.softwareReset (fun _ _ h => h) (restarted_silent h)

/-! ### Where only the event's end is left -/

/-- The state w is the one that a software reset of u leaves for the event's end. -/
structure Rebooted (u w : State) : Prop where
  base : w.base = u.softwareReset.base
  tables : w.tables = u.emptied.tables
  fresh : Fresh w
  silent : Silent w
  opened : Reopened u.rebootRecord w
  unlatched : Unlatched [] w
  cleared : RampHeld u → ∀ d, d ≠ 0 → Cleared d false w
  ramp : RampHeld u → RampHeld w
  risen : ¬ u.cutAtReset → RampHeld u → TreeSound u → Risen w
  shed : u.cutAtReset → ∀ d, Shed d w

theorem softwareReset_opened (s : State) : Reopened s.rebootRecord s.softwareReset := by
  rw [← restarted_first s]
  exact softwareReset_reopened s

theorem softwareReset_risen (hc : ¬ u.cutAtReset) (hr : RampHeld u) (ht : TreeSound u) : Risen u.softwareReset := by
  rw [softwareReset_uncut hc]
  exact restarted_risen hr ht

theorem restarted_sessions (s : State) : s.restarted.ssc.sessions = [] := by
  obtain ⟨hssc, -⟩ := tables_emptied (restarted_tables s)
  rw [hssc]

/-- A software reset that comes when no reply is being sent any more. -/
theorem rebooted_lost (hs : Silent u) : Rebooted u u.softwareReset where
  base := rfl
  tables := softwareReset_tables u
  fresh := softwareReset_fresh u
  silent := softwareReset_silent hs
  opened := softwareReset_opened u
  unlatched := softwareReset_unlatched u
  cleared hr _ hd := softwareReset_cleared hr hd
  ramp := softwareReset_rampHeld
  risen := softwareReset_risen
  shed hc d := by
    rw [softwareReset_cut hc]
    exact enterCutoff_shed (restarted_sessions u) fun _ => restarted_silent hs

theorem concluded_base (s : State) (h : s.lnk.resetDue = false) : s.concluded.base = s.base := by
  have hcleared : s.clearReply.base = s.base := by
    simp only [State.base, State.clearReply, h]
  unfold State.concluded
  rw [pulseAfterRead_base, releaseD0_base, hcleared]

theorem concluded_rampHeld (h : RampHeld u) : RampHeld u.concluded := by
  have hcleared : RampHeld u.clearReply := h.same rfl
  exact RampSound.happenings.pulseAfterRead _ (releaseD0_rampHeld hcleared)

/-- A software reset at the end of a reply. -/
theorem rebooted_sent (u : State) : Rebooted u u.softwareReset.concluded where
  base := concluded_base _ (base_resetDue (softwareReset_base u))
  tables := (concluded_tables _).trans (softwareReset_tables u)
  fresh := (softwareReset_fresh u).concluded
  silent := concluded_silent _
  opened := by
    obtain ⟨hevents, hlost⟩ := concluded_evq u.softwareReset
    exact (softwareReset_opened u).same hevents hlost
  unlatched := (softwareReset_unlatched u).concluded
  cleared hr _ hd := (softwareReset_cleared hr hd).concluded
  ramp hr := concluded_rampHeld (softwareReset_rampHeld hr)
  risen hc hr ht := (softwareReset_risen hc hr ht).concluded
  shed hc d := by
    obtain ⟨hmode, hssc⟩ := enterCutoff_facts u.restarted
    have hempty : u.restarted.enterCutoff.ssc.sessions = [] := by rw [hssc, restarted_sessions]
    have hzero := enterCutoff_zero (restarted_sessions u)
    rw [softwareReset_cut hc]
    by_cases hd : d = 0
    · subst hd
      exact concluded_shed_zero hmode hempty hzero
    · exact (enterCutoff_shed (restarted_sessions u) fun h0 => absurd h0 hd).concluded

end

end Sys2Proof.Machine
end

section
/-! What stands after the event of a software reset, part by part (R15, R168, R183). -/

namespace Sys2Proof.Machine

section
variable {u w : State}

namespace Rebooted

theorem sessions (h : Rebooted u w) : w.ssc.sessions = [] := by
  obtain ⟨hssc, -⟩ := tables_emptied h.tables
  rw [hssc]

/-- With the Session Table empty no resumption is left to make. -/
theorem unresumed (h : Rebooted u w) : Rebooted u { w with work.resume := none } := by
  have hsame : Alike { w with work.resume := none } w := ⟨rfl, rfl, ⟨rfl, rfl, rfl⟩, fun _ => rfl, rfl⟩
  exact ⟨h.base, h.tables, h.fresh.same rfl rfl, h.silent, h.opened.same rfl rfl, h.unlatched.same (fun _ => rfl) rfl,
    fun hr d hd => (h.cleared hr d hd).same fun _ => rfl, fun hr => (h.ramp hr).same rfl, fun hc hr ht => (h.risen hc hr ht).alikeSame hsame rfl,
    fun hc d => (h.shed hc d).congr hsame rfl⟩

/-- The tables and the lines. -/
theorem finish_tables (h : Rebooted u w) : w.finish.ssc = { u.ssc with sessions := [] } ∧ w.finish.wsc.sched = [] ∧
    (∀ l, w.finish.line l = (u.line l).rested) ∧ ∀ l, w.finish.approach l = Approach.powerOn := by
  obtain ⟨hssc, hsched, hline, happroach⟩ := tables_emptied h.tables
  have hframe := finish_frame_of_empty h.sessions
  have hapq : w.finish.apq = w.apq := frame_apq hframe
  refine ⟨(finish_ssc_of_empty h.sessions).trans hssc, (congrArg Wsc.sched (frame_wsc hframe)).trans hsched,
    fun l => (frame_line hframe l).trans (hline l), fun l => ?_⟩
  rw [← happroach l]
  exact congrArg (fun a : Apq => a.recs[l.val]) hapq

/-- The link, in what its traffic is. -/
theorem finish_link (h : Rebooted u w) : Fresh w.finish ∧ w.finish.lnk.reply = none :=
  ⟨h.fresh.finish h.sessions, h.silent.finish h.sessions⟩

/-- The queue. -/
theorem finish_queue (h : Rebooted u w) : [u.rebootRecord] <+: w.finish.evq.events ∧ w.finish.evq.lost = 0 := by
  obtain ⟨hevents, hlost⟩ := finish_unrecorded h.unresumed.unlatched rfl
  obtain ⟨hfirst, -, hnone⟩ := h.unresumed.opened
  rw [finish_of_empty h.sessions, hevents, hlost]
  exact ⟨hfirst, hnone⟩

/-- The domains. -/
theorem finish_domains (h : Rebooted u w) (d : DomId) : (w.finish.dom d).state ≠ .latched ∧ (w.finish.dom d).depReported = false := by
  rw [finish_of_empty h.sessions]
  exact h.unresumed.unlatched.finish rfl d

theorem finish_off (h : Rebooted u w) (hr : RampHeld u) (ht : TreeSound u) (d : DomId) :
    (d ≠ 0 → (w.finish.dom d).attempts = 0 ∧ (w.finish.demand d = 0 → (w.finish.dom d).state = .off)) ∧
      (u.cutAtReset → (w.finish.dom d).state = .off) := by
  have hlatch := (h.finish_domains d).1
  have hready := h.unresumed
  rw [finish_of_empty h.sessions] at hlatch ⊢
  have hcut : u.cutAtReset → (State.dom (State.finish { w with work.resume := none }) d).state = .off := fun hc =>
    (hready.shed hc d).finish (hready.ramp hr) rfl hlatch
  refine ⟨fun hd => ⟨((hready.cleared hr d hd).finish rfl).attempts, fun hdem => ?_⟩, hcut⟩
  by_cases hc : u.cutAtReset
  · exact hcut hc
  · exact (hready.risen hc hr ht).finish rfl hready.sessions hd hdem

/-- The base: mode, holds and handover timer by the IGN state and the tier, the settings as they were. -/
theorem finish_base (h : Rebooted u w) : w.finish.base = u.softwareReset.base := (Machine.finish_base w).trans h.base

end Rebooted

/-! ### The base -/

theorem reboot_mode (s : State) : s.softwareReset.mdc.mode =
    (if s.mdc.ign.debounced then .drive else if s.btm.tier = .cutoff then .cutoff else .handover) := by
  rw [base_mode (softwareReset_base s)]
  cases hign : s.mdc.ign.debounced <;> by_cases hcut : s.btm.tier = .cutoff <;> simp [hcut]

theorem reboot_holds (s : State) : (s.softwareReset.mdc.driveHold = true ↔ s.mdc.ign.debounced = true) ∧
    (s.softwareReset.mdc.handoverHold = true ↔ s.mdc.ign.debounced = false ∧ ¬ s.cutAtReset) ∧
    (s.softwareReset.mdc.alwaysHold = true ↔ ¬ s.cutAtReset) := by
  rw [base_driveHold (softwareReset_base s), base_handoverHold (softwareReset_base s), base_alwaysHold (softwareReset_base s)]
  unfold State.cutAtReset
  cases hign : s.mdc.ign.debounced <;> by_cases hcut : s.btm.tier = .cutoff <;> simp [hcut]

theorem reboot_timer (s : State) : s.softwareReset.mdc.handoverTimer =
    if s.mdc.ign.debounced = false ∧ s.btm.tier ≠ .cutoff ∧ s.mdc.parkedFlag = true then some (s.mdc.handoverTimeout * 1000) else none := by
  rw [base_handoverTimer (softwareReset_base s)]
  cases hign : s.mdc.ign.debounced <;> by_cases hcut : s.btm.tier = .cutoff <;> simp [hcut]

end

end Sys2Proof.Machine
end

section
/-! A software reset as the host sees it: what stands after the event, in terms of the state before it (R15). -/

namespace Sys2Proof.Machine

/-- What the statement of a software reset says of the state t after the event in terms of the state s before it (R15). -/
def State.ResetTo (s t : State) : Prop :=
  t.ssc.sessions = [] ∧ t.wsc.sched = [] ∧ t.lnk.inbound = [] ∧ t.lnk.reply = none ∧
    t.lnk.resetDue = false ∧ t.lnk.linkFault = false ∧ t.lnk.armed = false ∧ t.lnk.frameErrors = 0 ∧ t.lnk.overrun = false ∧
    t.mdc.mode = (if s.mdc.ign.debounced then .drive else if s.btm.tier = .cutoff then .cutoff else .handover) ∧
    (t.mdc.driveHold = true ↔ s.mdc.ign.debounced = true) ∧
    (t.mdc.handoverHold = true ↔ s.mdc.ign.debounced = false ∧ ¬ s.cutAtReset) ∧
    (t.mdc.alwaysHold = true ↔ ¬ s.cutAtReset) ∧
    (t.mdc.handoverTimer = if s.mdc.ign.debounced = false ∧ s.btm.tier ≠ .cutoff ∧ s.mdc.parkedFlag = true then
      some (s.mdc.handoverTimeout * 1000) else none) ∧
    [s.rebootRecord] <+: t.evq.events ∧ t.evq.lost = 0 ∧
    (∀ l, (t.line l).mute = none ∧ (t.line l).window = none ∧ (t.line l).nuisance = 0 ∧ (t.line l).mutedTriggers = 0 ∧
      (t.line l).act = (s.line l).act ∧ (t.line l).debounced = (s.line l).debounced ∧ t.approach l = { listen := none, repeats := 0 }) ∧
    (∀ d, (t.dom d).state ≠ .latched ∧ (t.dom d).depReported = false) ∧
    (RampSound s → TreeSound s → ∀ d, (d ≠ 0 → (t.dom d).attempts = 0 ∧ (t.demand d = 0 → (t.dom d).state = .off)) ∧
      (s.cutAtReset → (t.dom d).state = .off)) ∧
    t.adm = s.adm ∧ t.btm = { s.btm with
      fall := 0, rise := 0 } ∧ t.chm.reserve = s.chm.reserve ∧
    t.chm.reserveRem = s.chm.reserveRem ∧ t.chm.baseline = s.chm.baseline ∧ t.chm.floorMah = s.chm.floorMah ∧
    t.wsc.seconds = s.wsc.seconds ∧ t.ssc.nextId = s.ssc.nextId ∧ t.lnk.locked = s.lnk.locked ∧ t.lnk.limit = s.lnk.limit ∧
    t.mdc.parkedFlag = s.mdc.parkedFlag ∧ t.mdc.handoverTimeout = s.mdc.handoverTimeout ∧
    (∀ d, (t.dom d).entry = (s.dom d).entry) ∧ (∀ l, (t.line l).entry = (s.line l).entry)

section
variable {s u v w : State}

/-- The state u that a software reset finds, as far as the reset reads or keeps it, is the state s before the event. -/
structure Unreset (s u : State) : Prop where
  ign : u.mdc.ign.debounced = s.mdc.ign.debounced
  parked : u.mdc.parkedFlag = s.mdc.parkedFlag ∧ u.mdc.handoverTimeout = s.mdc.handoverTimeout
  tables : u.adm = s.adm ∧ u.btm = s.btm ∧ u.chm.reserve = s.chm.reserve ∧ u.chm.reserveRem = s.chm.reserveRem
  meter : u.chm.baseline = s.chm.baseline ∧ u.chm.floorMah = s.chm.floorMah
  seconds : u.wsc.seconds = s.wsc.seconds
  nextId : u.ssc.nextId = s.ssc.nextId
  settings : u.lnk.locked = s.lnk.locked ∧ u.lnk.limit = s.lnk.limit
  dom : ∀ d, (u.dom d).entry = (s.dom d).entry
  line : ∀ l, (u.line l).entry = (s.line l).entry ∧ (u.line l).act = (s.line l).act ∧ (u.line l).debounced = (s.line l).debounced
  ramp : RampSound s → RampHeld u

theorem lapse_unreset (h : s.held = false) (n : Nat) : Unreset s (s.lapse n) where
  ign := (lapse_inputs h n).2.2
  parked := lapse_parked s n
  tables := lapse_tables s n
  meter := ⟨(lapse_meter s n).1, (lapse_meter s n).2.1⟩
  seconds := lapse_seconds s n
  nextId := lapse_nextId s n
  settings := by
    unfold State.lapse
    (repeat' split) <;> exact ⟨rfl, rfl⟩
  dom := lapse_entry_eq s n
  line l := by
    rw [lapse_line h n l]
    exact ⟨rfl, rfl, rfl⟩
  ramp hr := (lapse_rampSound n hr).held

/-- The domains' own work comes between. -/
theorem Unreset.worked (h : Unreset s v) (hd : u.deep = v.deep) (hs : u.ssc = v.ssc) (hr : RampHeld v → RampHeld u) : Unreset s u := by
  have hb := deep_base hd
  have hline : ∀ l, u.line l = v.line l := fun l => congrArg (fun w : Wlu => w.lines[l.val]) (deep_wlu hd)
  obtain ⟨hign, ⟨hparked, htimeout⟩, ⟨hadm, hbtm, hreserve, hrem⟩, ⟨hbaseline, hfloor⟩, hseconds, hnext, ⟨hlocked, hlimit⟩, hdom, hlines, hramp⟩ := h
  exact ⟨(congrArg Input.debounced (base_ign hb)).trans hign, ⟨(base_parkedFlag hb).trans hparked, (base_handoverTimeout hb).trans htimeout⟩,
    ⟨(base_adm hb).trans hadm, (base_btm hb).trans hbtm, (base_reserve hb).trans hreserve, (base_reserveRem hb).trans hrem⟩,
    ⟨(base_baseline hb).trans hbaseline, (base_floor hb).trans hfloor⟩, (base_seconds hb).trans hseconds,
    (congrArg Ssc.nextId hs).trans hnext, ⟨(base_locked hb).trans hlocked, (base_limit hb).trans hlimit⟩,
    fun d => (base_entry hb d).trans (hdom d), fun l => by rw [hline]; exact hlines l, fun hx => hr (hramp hx)⟩

theorem Unreset.cut (h : Unreset s u) : u.cutAtReset ↔ s.cutAtReset := by
  obtain ⟨-, hbtm, -⟩ := h.tables
  unfold State.cutAtReset
  rw [h.ign, hbtm]

theorem Unreset.tree (h : Unreset s u) (ht : TreeSound s) : TreeSound u := fun d p hp => by
  rw [h.dom] at hp
  rw [h.dom, h.dom]
  exact ht d p hp

/-- The event's end after the work of a software reset. -/
theorem Rebooted.resetTo (h : Rebooted u w) (hs : Unreset s u) : s.ResetTo w.finish := by
  obtain ⟨hssc, hsched, hline, happroach⟩ := h.finish_tables
  obtain ⟨⟨hinbound, harmed, herrors, hoverrun, -⟩, hreply⟩ := h.finish_link
  obtain ⟨hfirst, hlost⟩ := h.finish_queue
  have hbase := h.finish_base
  have hdomains := h.finish_domains
  have hoff := fun hr : RampSound s => fun ht : TreeSound s => h.finish_off (hs.ramp hr) (hs.tree ht)
  have hset := hbase.trans (softwareReset_base u)
  obtain ⟨hdrive, hhandover, halways⟩ := reboot_holds u
  have hmode := (base_mode hbase).trans (reboot_mode u)
  have htimer := (base_handoverTimer hbase).trans (reboot_timer u)
  rw [← base_driveHold hbase] at hdrive
  rw [← base_handoverHold hbase] at hhandover
  rw [← base_alwaysHold hbase] at halways
  have hcut := hs.cut
  obtain ⟨hign, ⟨hparked, htimeout⟩, ⟨hadm, hbtm, hreserve, hrem⟩, ⟨hbaseline, hfloor⟩, hseconds, hnext, ⟨hlocked, hlimit⟩, hdom, hlines, -⟩ := hs
  have hrecord : u.rebootRecord = s.rebootRecord := by
    unfold State.rebootRecord
    rw [recordOf_congr hseconds, hign]
  rw [hign, hbtm] at hmode
  rw [hign, hbtm, hparked, htimeout] at htimer
  rw [hign] at hdrive
  rw [hign, hcut] at hhandover
  rw [hcut] at halways
  rw [hrecord] at hfirst
  refine ⟨by rw [hssc], hsched, hinbound, hreply, base_resetDue hset, base_linkFault hset, harmed, herrors, hoverrun, hmode, hdrive, hhandover,
    halways, htimer, hfirst, hlost, fun l => ?_, hdomains, fun hr ht d => ?_, (base_adm hset).trans hadm, ?_,
    (base_reserve hset).trans hreserve, (base_reserveRem hset).trans hrem, (base_baseline hset).trans hbaseline,
    (base_floor hset).trans hfloor, (base_seconds hset).trans hseconds, ?_, (base_locked hset).trans hlocked, (base_limit hset).trans hlimit,
    ?_, ?_, fun d => (base_entry hset d).trans (hdom d), fun l => ?_⟩
  · obtain ⟨-, hact, hdebounced⟩ := hlines l
    rw [hline, happroach]
    exact ⟨rfl, rfl, rfl, rfl, hact, hdebounced, rfl⟩
  · rw [← hcut]
    exact hoff hr ht d
  · rw [← hbtm]
    exact base_btm hset
  · rw [hssc]
    exact hnext
  · rw [base_parkedFlag hset, ← hparked]
    split <;> rfl
  · rw [base_handoverTimeout hset, ← htimeout]
    split <;> rfl
  · rw [hline]
    exact (hlines l).1

end

end Sys2Proof.Machine
end

section
/-! The two ways to a software reset: the end of the reply to RESET_EXEC, and a power-good loss on D0 that cuts it short (R181). Settles
O23. -/

namespace Sys2Proof.Machine

section
variable {s u w : State}

/-! ### The reply's end -/

theorem Placed0.changedSame (h : Placed0 s) : Placed0 s.demandChanged := h.alike ((refreshSub_alike s.settle).trans (settle_alike s))

theorem restarted_placed (he : (s.dom 0).entry.enabled = true) : Placed0 s.restarted := by
  have hplaced := reheld_placed (s := s.resetRunning) (by rw [resetRunning_entry]; exact he)
  exact restarted_of (fun _ _ _ _ _ h => h.alike ⟨rfl, rfl, ⟨rfl, rfl, rfl⟩, fun _ => rfl, rfl⟩) hplaced.changedSame

theorem Placed0.concluded (h : Placed0 s) : Placed0 s.concluded :=
  concluded_of (fun _ h => h.alike ⟨rfl, rfl, ⟨rfl, rfl, rfl⟩, fun _ => rfl, rfl⟩) (fun _ h => h.forget)
    (fun s h => h.alike (enterOff_alike s 0)) (fun _ h => h.changedSame)
    (fun _ _ h => h.alike ⟨rfl, rfl, ⟨rfl, rfl, rfl⟩, fun _ => rfl, rfl⟩) h

/-- A reset at a reply's end keeps D0 ON, and the link live (R15). -/
theorem sent_keeps {n : Nat} (h : Serving0 n u) (he : (u.dom 0).entry.enabled = true) (hc : ¬ u.cutAtReset) (hr : RampHeld u) :
    (u.softwareReset.concluded.finish.dom 0).state = .on ∧ (u.softwareReset.concluded.finish.dom 0).attempts = n ∧
      u.softwareReset.concluded.finish.lnk.receiver = .hunting := by
  have hboot := rebooted_sent u
  have hreceiver := hboot.finish_link.1.receiver
  have hready := hboot.unresumed
  have hstays : Stays0 n u.softwareReset.concluded := by
    rw [softwareReset_uncut hc]
    exact (h.restarted he).concluded
  have hplaced : Placed0 u.softwareReset.concluded := by
    rw [softwareReset_uncut hc]
    exact (restarted_placed he).concluded
  rw [finish_of_empty hboot.sessions] at hreceiver ⊢
  generalize u.softwareReset.concluded = v at *
  obtain ⟨hon, hattempts⟩ := Stays0.finish (s := { v with work.resume := none }) (hstays.same rfl rfl)
    (hplaced.alike ⟨rfl, rfl, ⟨rfl, rfl, rfl⟩, fun _ => rfl, rfl⟩) (hready.ramp hr) rfl
  rw [hon] at hreceiver
  exact ⟨hon, hattempts, hreceiver⟩

theorem takeNext_idle (hi : s.lnk.inbound = []) (hr : s.lnk.reply = none) : s.takeNext = s := by
  unfold State.takeNext
  rw [hr, hi]
  rfl

theorem exec_replyEnd_reset (hh : s.held = false) (hr : s.lnk.reply.isSome = true) (hd : s.lnk.resetDue = true) :
    exec .replyEnd s = .next (s.lapse s.lnk.replyLeft).softwareReset.concluded.finish := by
  have hdue : (s.lapse s.lnk.replyLeft).lnk.resetDue = true := (lapse_link s _).2.1.trans hd
  rw [exec_replyEnd hh hr]
  generalize s.lapse s.lnk.replyLeft = u at *
  obtain ⟨⟨hinbound, -⟩, hreply⟩ := (rebooted_sent u).finish_link
  rw [replySent_reset hdue, takeNext_idle hinbound hreply]

/-! ### The loss -/

theorem reply_of_hold (h : s.hold = (none, none)) : s.lnk.reply = none := congrArg Prod.snd h

theorem afterFault_zero (hl : (s.dom 0).state.live = true) : ((s.afterFault 0).dom 0).state.live = false ∧ (s.afterFault 0).lnk.reply = none := by
  have hdrop : ∀ (n : DomState) (x : Nat), n.live = false →
      ((s.setState 0 n x).dom 0).state.live = false ∧ (s.setState 0 n x).hold = (none, none) := fun n x hn => by
    rw [setState_state, if_pos rfl, setState_hold_zero, hl, hn]
    exact ⟨rfl, rfl⟩
  unfold State.afterFault
  split
  · obtain ⟨-, hhold⟩ := hdrop .off 0 rfl
    have hkept : (s.enterOff 0).hold = (s.setState 0 .off 0).hold := rfl
    exact ⟨by rw [enterOff_state, if_pos rfl]; rfl, reply_of_hold (hkept.trans hhold)⟩
  · split
    · obtain ⟨hstate, hhold⟩ := hdrop .faultWait ((s.dom 0).entry.retryDelay * 1000) rfl
      exact ⟨hstate, reply_of_hold hhold⟩
    · obtain ⟨-, hhold⟩ := hdrop .latched 0 rfl
      refine ⟨by rw [record_dom, enterLatched_dom_self]; rfl, ?_⟩
      refine reply_of_hold ?_
      rw [record_hold, enterLatched_hold, hhold]

theorem lapse_domain (h : s.held = false) (n : Nat) (d : DomId) : (s.lapse n).dom d = (s.dom d).lapse n := by
  unfold State.lapse
  split
  · next hz =>
    subst hz
    rfl
  · rw [if_neg (by rw [h]; decide)]
    exact getElem_mapVec ..

/-- The qualification's end takes a low PG input as bad (R22). -/
theorem lapse_pgGood (h : s.held = false) (d : DomId) (hp : (s.dom d).pgPin = false) :
    ((s.lapse (s.dom d).pgQual).dom d).pgGood = false := by
  rw [lapse_domain h]
  unfold Domain.pgGood Domain.lapse
  rw [Nat.sub_self]
  exact hp

/-- A power-good loss on D0 leaves it dark and ends the reply (R30, R182). -/
theorem pgLost_dark (hl : (w.dom 0).state.live = true) (hg : (w.dom 0).pgGood = false) :
    Dark (w.pgLost 0).demandChanged ∧ Silent (w.pgLost 0).demandChanged := by
  have hfound : (((w.stripped 0).countFault 0 1).dom 0).state.live = true := by
    rw [(countFault_dom _ 0 0 1).1, stripped_dom_self]
    exact hl
  obtain ⟨hdark, hreply⟩ := afterFault_zero hfound
  rw [← pgLost_eq] at hdark hreply
  have hpins := base_dom (deep_base (pgLost_deep w 0)) 0
  have hbad : ((w.pgLost 0).dom 0).pgGood = false := by
    obtain ⟨-, hpin, hqual⟩ := hpins
    unfold Domain.pgGood at hg ⊢
    rw [hpin, hqual]
    exact hg
  exact ⟨Dark.orderly.demandChanged ⟨hdark, hbad⟩, Silent.domestic.demandChanged hreply⟩

/-- After the loss D0 does not come up within the event, and the link is dead (R182). -/
theorem lost_receiver (hd : Dark u) (hs : Silent u) : u.softwareReset.finish.lnk.receiver = .dead := by
  have hboot := rebooted_lost hs
  have hreceiver := hboot.finish_link.1.receiver
  have hdark := hd.softwareReset
  rw [finish_of_empty hboot.sessions] at hreceiver ⊢
  generalize u.softwareReset = v at *
  have hdown := Dark.finish (s := { v with work.resume := none }) (hdark.same ⟨rfl, rfl⟩) rfl
  rw [hdown] at hreceiver
  exact hreceiver

/-- The reset takes D0 on its way up again (R15, R24). -/
theorem lost_returns (hd : Dark u) (hs : Silent u) (he : (u.dom 0).entry.enabled = true) (hc : ¬ u.cutAtReset) :
    (u.softwareReset.finish.dom 0).state = .queued ∨ (u.softwareReset.finish.dom 0).state = .ramping ∨
      (u.softwareReset.finish.dom 0).state = .faultWait := by
  have hboot := rebooted_lost hs
  have hdark := hd.softwareReset
  have hwanted : Wanted0 u.softwareReset := by
    rw [softwareReset_uncut hc]
    exact restarted_wanted he
  rw [finish_of_empty hboot.sessions]
  generalize u.softwareReset = v at *
  have hdown := Dark.finish (s := { v with work.resume := none }) (hdark.same ⟨rfl, rfl⟩) rfl
  obtain ⟨hoff, hlatched⟩ := Wanted0.finish (s := { v with work.resume := none })
    (hwanted.congr ⟨rfl, rfl, ⟨rfl, rfl, rfl⟩, fun _ => rfl, rfl⟩ (.inl rfl)) rfl
  cases hstate : (State.dom (State.finish { v with work.resume := none }) 0).state <;> rw [hstate] at hdown hoff hlatched
  case queued => exact .inl rfl
  case ramping => exact .inr (.inl rfl)
  case faultWait => exact .inr (.inr rfl)
  case off => exact absurd rfl hoff
  case latched => exact absurd rfl hlatched
  case on | holdoff => cases hdown

theorem exec_pgLoss_reset (hh : s.held = false) (hd : s.lnk.resetDue = true) (hl : s.linkLive = true) (hp : (s.dom 0).pgPin = false) :
    ∃ u, exec (.pgLoss 0) s = .next u.softwareReset.finish ∧ Dark u ∧ Silent u ∧ Unreset s u := by
  have hleft : s.leftPgLoss 0 = some (s.dom 0).pgQual := by
    have hlive : (s.dom 0).state.live = true := hl
    rw [State.leftPgLoss, hlive, hp]
    rfl
  have hbefore := lapse_unreset hh (s.dom 0).pgQual
  have hlive : ((s.lapse (s.dom 0).pgQual).dom 0).state.live = true := by
    rw [lapse_state]
    exact hl
  have hgood : ((s.lapse (s.dom 0).pgQual).dom 0).pgGood = false :=
    lapse_pgGood hh 0 hp
  have hdue : (s.lapse (s.dom 0).pgQual).lnk.resetDue = true := (lapse_link s _).2.1.trans hd
  have hexec : exec (.pgLoss 0) s = .next (State.finish (if ((s.lapse (s.dom 0).pgQual).pgLost 0).demandChanged.lnk.resetDue &&
      ((s.lapse (s.dom 0).pgQual).pgLost 0).demandChanged.lnk.reply.isNone then
      ((s.lapse (s.dom 0).pgQual).pgLost 0).demandChanged.softwareReset
      else ((s.lapse (s.dom 0).pgQual).pgLost 0).demandChanged)) := timed_of_some hh hleft (fun s =>
    let s := (s.pgLost 0).demandChanged
    if s.lnk.resetDue && s.lnk.reply.isNone then s.softwareReset else s)
  rw [hexec]
  generalize s.lapse (s.dom 0).pgQual = v at *
  obtain ⟨hdark, hsilent⟩ := pgLost_dark hlive hgood
  have hdueAfter : (v.pgLost 0).demandChanged.lnk.resetDue = true :=
    (Domestic.sameResetDue true).demandChanged ((Domestic.sameResetDue true).pgLost 0 hdue)
  have hssc : (v.pgLost 0).demandChanged.ssc = v.ssc :=
    (Domestic.sameSessions v.ssc).demandChanged ((Domestic.sameSessions v.ssc).pgLost 0 rfl)
  have hworked : Unreset s (v.pgLost 0).demandChanged :=
    hbefore.worked ((demandChanged_deep _).trans (pgLost_deep v 0)) hssc fun hr =>
      RampHeld.closed.demandChanged (pgLost_rampHeld hr 0 hlive)
  refine ⟨(v.pgLost 0).demandChanged, ?_, hdark, hsilent, hworked⟩
  generalize (v.pgLost 0).demandChanged = u at *
  have hnone : u.lnk.reply = none := hsilent
  rw [hdueAfter, hnone, Option.isNone_none, Bool.and_self, if_pos rfl]

end

/-- Settles O23. -/
theorem softwareResetCleansUp : Obligations.SoftwareResetCleansUp := by
  intro s hh hreply hdue hpolicy hbetween
  refine ⟨⟨_, exec_replyEnd_reset hh hreply hdue, (rebooted_sent _).resetTo (lapse_unreset hh _), fun hkept hlive => ?_⟩, fun hlive hpin => ?_⟩
  · obtain ⟨hramp, -, henabled, huncut⟩ := hkept
    have hbefore := lapse_unreset hh s.lnk.replyLeft
    have hserving : Serving0 (s.dom 0).attempts (s.lapse s.lnk.replyLeft) :=
      ⟨by rw [lapse_state]; exact hlive, lapse_attempts s _ 0, by rw [lapse_reply]; exact hreply⟩
    exact sent_keeps hserving (by rw [hbefore.dom]; exact henabled) (fun hc => huncut (hbefore.cut.1 hc)) (hbefore.ramp hramp)
  · obtain ⟨u, hexec, hdark, hsilent, hbefore⟩ := exec_pgLoss_reset hh hdue hlive hpin
    refine ⟨_, hexec, (rebooted_lost hsilent).resetTo hbefore, lost_receiver hdark hsilent, fun hkept => ?_⟩
    obtain ⟨-, -, henabled, huncut⟩ := hkept
    exact lost_returns hdark hsilent (by rw [hbefore.dom]; exact henabled) fun hc => huncut (hbefore.cut.1 hc)

end Sys2Proof.Machine
end
